-- ==== Sys2Proof/Word.lean ====
section
/-! DEFINITION. The words the part works in, the comparison of web positions (00_scope.md, 4.2) and the one rounding of the manual (4.3). -/

namespace Sys2Proof

abbrev Byte := BitVec 8
abbrev Half := BitVec 16
abbrev Word := BitVec 32
abbrev Long := BitVec 64

/-- Positions, clocks and sequence numbers are compared on their difference modulo 2^32, read as a signed quantity
(00_scope.md, 4.2). -/
def signedDiff (a b : Word) : Int := (a - b).toInt

/-- "Round half up of x/10,000" (00_scope.md, 4.3). -/
def roundBp (x : Nat) : Nat := (x + 5000) / 10000

/-- "Round half up of y/2^32" (00_scope.md, 4.3). -/
def roundPulse (y : Nat) : Nat := (y + 2 ^ 31) / 2 ^ 32

end Sys2Proof
end

