-- ==== Sys2Proof/Config.lean ====
section
/-! DEFINITION. The quantities built into the BP640 (00_scope.md, 4.9, and the chapters' own fixed figures).
The one value the manual leaves open, the address an access takes past the top of the
address space, is a free value (log entry 1). -/

namespace Sys2Proof.Config

/-- Minimum gap, the length of every committed GAP (R58, R59). -/
def minGap : Nat := 200
/-- Commit lead (R58). -/
def commitLead : Nat := 32
/-- Splice length, also the reserve in the fit test and in LOW (R57, R36). -/
def spliceLen : Nat := 400
/-- Paper-break count (R106). -/
def paperBreak : Nat := 50
/-- Knife cut tolerance (R133). -/
def cutTolerance : Nat := 3
/-- Order bin capacity (R148). -/
def binCapacity : Nat := 100
/-- Reject bin capacity (R149). -/
def rejectCapacity : Nat := 50
/-- Order slots. -/
def slots : Nat := 64
/-- Active orders (R42). -/
def contexts : Nat := 16
/-- Web map entries (R114). -/
def mapEntries : Nat := 256
/-- Line buffer lines (R70). -/
def bufferLines : Nat := 16
/-- Outstanding line reads (R71). -/
def lineReads : Nat := 2
/-- Sorter lane prints (R147). -/
def lanePrints : Nat := 8
/-- The largest amount of money the part stores (R173). -/
def moneyLimit : Nat := 99999999
/-- Head elements in each channel (R81). -/
def elements : Nat := 3072
/-- The registration offset's limit either way (R137). -/
def offsetLimit : Int := 100
/-- The largest sum of copies an order may have (R13). -/
def maxCopies : Nat := 1500
/-- The accepted paper widths in millimetres (00_scope.md, 4.1). -/
def widths : List Nat := [89, 102, 127, 152, 203, 254, 305]

/-- The address on the link of a byte whose exact address is past the top of the 64-bit address space: a free value, which
the manual does not state (log entry 1). -/
opaque pastTop : Nat → Long

end Sys2Proof.Config
end

