-- ==== Sys2Proof/Syntax.lean ====
section
/-! DEFINITION. The commands of the BP640: one constructor for each row of spec/opcode_table.json, with what the outside
gives the part in that step. Log entries 2 and 3 say how the operands were chosen. -/

namespace Sys2Proof

/-- The two magazines. -/
inductive Mag where
  | a
  | b
  deriving DecidableEq, Repr

/-- The head's channels, numbered 0 R, 1 G, 2 B. -/
inductive Chan where
  | red
  | green
  | blue
  deriving DecidableEq, Repr

/-- The two blink rates of the lamps (R161). -/
inductive BlinkRate where
  | hz1
  | hz4
  deriving DecidableEq, Repr

/-- Where the write that a slot write fault reports stands when the report arrives (R22, R191). -/
inductive WriteStanding where
  /-- a write of the slot's present take or hold, whose RETURNED write has not been issued -/
  | current
  /-- a write of a return whose RETURNED write has been issued (R22) -/
  | returned
  /-- a write issued before the last reset (R191) -/
  | beforeReset
  deriving DecidableEq, Repr

/-- What step 1 of a sweep read for one slot (R9). `none` is a read that ended in a bus error. Ticket and class are
consulted only for a POSTED slot the part does not hold, the request field only for a slot it holds. -/
structure SlotRead where
  token : Option Word
  ticket : Option Word
  classByte : Option Byte
  /-- request code and request number -/
  request : Option (Byte × Byte)
  deriving DecidableEq, Repr

/-- The image record of a print entry (chapter 1, 1.2.1). -/
structure ImageRec where
  addr : Long
  stride : Word
  width : Half
  height : Half
  left : Half
  deriving DecidableEq, Repr

/-- One print entry as the slot holds it (chapter 1, 1.2.1). -/
structure RawEntry where
  product : Byte
  copies : Byte
  density : Byte
  colourR : Byte
  colourG : Byte
  colourB : Byte
  flags : Byte
  image : ImageRec
  deriving DecidableEq, Repr

/-- The values a take reads: header, request number and the print entries below the entry count (R12). -/
structure TakeData where
  ticket : Word
  classByte : Byte
  custByte : Byte
  count : Byte
  reqNumber : Byte
  entries : List RawEntry
  deriving DecidableEq, Repr

/-- The outcome of a take's reads. -/
inductive TakeResult where
  | data (d : TakeData)
  /-- the read at this slot offset ended in a bus error -/
  | busError (offset : Nat)
  deriving DecidableEq, Repr

/-- The outcome of a read of the machine request cell. -/
inductive CellResult where
  | token (t : Word)
  /-- the read at this cell offset ended in a bus error -/
  | busError (offset : Nat)
  deriving DecidableEq, Repr

/-- The commands. `room` is how many waiting slot writes the link issues within the step, `none` for all (log entry 3). An
operand with a default says what is so where a sender does not give it: reads of what is in progress, a stable supply. -/
inductive Instr where
  /-- AREA_WRITE: a host write to AREA (R1) -/
  | areaWrite (value : BitVec 64)
  /-- GO; `jam` is the jam sensor's level as RUN rises (R180, R143) -/
  | go (jam : Bool)
  /-- STOP (R181) -/
  | stop
  /-- LOAD_SETUP (R25) -/
  | loadSetup
  /-- SOFT_RESET (R190) -/
  | softReset
  /-- NUDGE (R8) -/
  | nudge
  /-- REFUSED_CONTROL_VALUE: a CONTROL write of no command code (R2) -/
  | refusedControlValue (value : BitVec 32)
  /-- IGNORED_REGISTER_WRITE: a write to STATUS (R3) -/
  | ignoredRegisterWrite (value : BitVec 32)
  /-- STATUS_READ (R3) -/
  | statusRead
  /-- POWER_ON_RESET: the supply comes up, or, where it was not yet stable, has become so; `stable` says whether it is (R189,
  log entry 23) -/
  | powerOnReset (stable : Bool := true)
  /-- PIN_RESET: the reset line is released (R189) -/
  | pinReset
  /-- SWEEP_TIMER_EXPIRY (R8) -/
  | sweepTimerExpiry
  /-- CELL_POLL_EXPIRY (R8) -/
  | cellPollExpiry
  /-- SWEEP_STEP_COMPLETE; `reads` is what step 1 read, slot 0 first, and empty for the other steps (R9) -/
  | sweepStepComplete (reads : List SlotRead) (room : Option Nat)
  /-- HOLD in a held slot (R17) -/
  | hold (slot : Fin 64) (number : Byte)
  /-- RELEASE in a held slot (R17) -/
  | release (slot : Fin 64) (number : Byte)
  /-- CANCEL in a held slot (R17) -/
  | cancel (slot : Fin 64) (number : Byte)
  /-- SLOT_REQUEST_NOT_APPLICABLE: a code of NONE or above 3 with a new number (R16) -/
  | slotRequestNotApplicable (slot : Fin 64) (code : Byte) (number : Byte)
  /-- TAKE_READS_COMPLETE; `stale` when the reads were issued for a take since abandoned (R12, R10, R191) -/
  | takeReadsComplete (result : TakeResult) (room : Option Nat) (stale : Bool := false)
  /-- SLOT_WRITE_FAULT: the write at this offset of this slot failed (R186) -/
  | slotWriteFault (slot : Fin 64) (offset : BitVec 12) (standing : WriteStanding)
  /-- STATUS_BLOCK_WRITE_ERROR; `beforeReset` when the write was issued before a reset (R187) -/
  | statusBlockWriteError (beforeReset : Bool)
  /-- MACHINE_REQUEST_CELL_READ; `stale` when the read was issued for an access since abandoned (R7, R191) -/
  | machineRequestCellRead (result : CellResult) (stale : Bool := false)
  /-- LOAD_PAPER with the cell's operands (R33) -/
  | loadPaper (mag : Byte) (width : Half) (surface : Byte) (tone : Byte) (length : Word) (lot : Word)
  /-- CLEAR_PAPER with the cell's magazine byte (R34) -/
  | clearPaper (mag : Byte)
  /-- RESUME; `jam` is the jam sensor's level as RUN rises (R184, R143) -/
  | resume (jam : Bool)
  /-- CHANGEOVER_NOW (R63) -/
  | changeoverNow
  /-- RELEASE_BIN with the cell's bin number (R159) -/
  | releaseBin (bin : Byte)
  /-- MACHINE_REQUEST_NOT_APPLICABLE: an unknown code (R7) -/
  | machineRequestNotApplicable (code : Byte)
  /-- IDLE_TIMER_EXPIRY (R22) -/
  | idleTimerExpiry
  /-- SLOT_RETURN of the order in this slot (R21) -/
  | slotReturn (slot : Fin 64) (room : Option Nat)
  /-- SETUP_READ_COMPLETE; `none` is a bus error, `stale` when the read was issued for a load since abandoned (R25, R28,
  R191) -/
  | setupReadComplete (result : Option (BitVec 64)) (stale : Bool := false)
  /-- PRESENT_SENSOR_INACTIVE (R34) -/
  | presentSensorInactive (mag : Mag)
  /-- PRESENT_SENSOR_ACTIVE (R34) -/
  | presentSensorActive (mag : Mag)
  /-- CHANGE_DONE (R38) -/
  | changeDone
  /-- CHANGEOVER_TIMER_EXPIRY (R39) -/
  | changeoverTimerExpiry
  /-- LINE_STROBE; `paper` is the head paper sensor (R106), `supplyGood` the supply comparator (R111) -/
  | lineStrobe (paper : Bool) (supplyGood : Bool)
  /-- WEB_READY_RISE (R99) -/
  | webReadyRise
  /-- WEB_READY_FALL (R99) -/
  | webReadyFall
  /-- STROBE_SUPERVISION_EXPIRY (R105) -/
  | strobeSupervisionExpiry
  /-- RATE_PERIOD (R98) -/
  | ratePeriod
  /-- PUNCH_END (R107) -/
  | punchEnd
  /-- PULSE_END of one element and channel (R103) -/
  | pulseEnd (element : BitVec 12) (channel : Chan)
  /-- LAMP_BLINK_TOGGLE (R161) -/
  | lampBlinkToggle (rate : BlinkRate)
  /-- LINE_READ_ISSUE (R71) -/
  | lineReadIssue
  /-- LINE_READ_COMPLETE of the read at this place of the outstanding list; a place past its end is an arrival that
  matches no read; `none` is a bus error (R73, R79) -/
  | lineReadComplete (place : Nat) (result : Option (List Byte))
  /-- KNIFE_HOME_SENSOR changes to this level (R134) -/
  | knifeHomeSensor (active : Bool)
  /-- KNIFE_TIMER_EXPIRY (R135) -/
  | knifeTimerExpiry
  /-- MARK (R139) -/
  | mark
  /-- JAM_SENSOR_ACTIVE (R143) -/
  | jamSensorActive
  /-- WEB_CLEAR (R181) -/
  | webClear
  /-- GATE_ARRIVAL (R150) -/
  | gateArrival
  /-- DELIVERY_CONFIRMATION from this bin (R151) -/
  | deliveryConfirmation (bin : Fin 16)
  /-- SORTER_DEADLINE (R154) -/
  | sorterDeadline
  /-- KEY_SCAN_SAMPLE; bit b is set when key b reads pressed (R158) -/
  | keyScanSample (pressed : BitVec 16)
  /-- RESET_LINE_ASSERTED (R189) -/
  | resetLineAsserted
  deriving DecidableEq, Repr

end Sys2Proof
end

