-- ==== Sys2Proof/Machine/State.lean ====
section
/-! DEFINITION. The state of the BP640, block by block as 00_scope.md 2.1 names the owners, the reasons a step can stop,
and the state after a power-on reset. -/

namespace Sys2Proof.Machine

/-! ## Values the blocks share -/

/-- Engine state, coded as in STATUS (R179). -/
inductive EngineState where
  | stopped
  | running
  | stopping
  | paused
  | halted
  deriving DecidableEq, Repr

/-- Last reset kind, coded as in STATUS (1.1). -/
inductive ResetKind where
  | power
  | pin
  | soft
  deriving DecidableEq, Repr

/-- What holds the part in reset: nothing; the reset line, asserted by itself; the line, its assertion part of a power-on
reset; the supply, not yet stable; or both the supply and the line (R189, log entry 23). -/
inductive ResetHold where
  | released
  | pin
  | powerOn
  | supply
  | supplyLine
  deriving DecidableEq, Repr

/-- Fault kinds (11.4). -/
inductive FaultKind where
  | none
  | jam
  | stall
  | paperBreak
  | knifeFault
  | paperFeed
  | imageRead
  | slotRead
  | slotWrite
  | setupRead
  deriving DecidableEq, Repr

/-- One value for each channel. -/
structure Rgb where
  red : Nat
  green : Nat
  blue : Nat
  deriving DecidableEq, Repr

/-- A table of numbers by index, listed where it differs from its default: indexes strictly rising, no listed value equal
to the default (log entry 4). -/
abbrev SparseTable := List (Nat × Nat)

/-- What the part drives outward in one step: accesses on the link and RATE pulses (log entry 5). -/
inductive Output where
  | read (addr : Long) (size : Nat)
  | write (addr : Long) (size : Nat) (value : Nat)
  | ratePulse
  deriving DecidableEq, Repr

/-! ## LNK, the link unit (chapter 1) -/

/-- The four causes of STATUS. -/
structure Causes where
  completed : Bool
  attention : Bool
  fault : Bool
  refused : Bool
  deriving DecidableEq, Repr

/-- A write to an order slot that waits to be issued. -/
structure SlotWrite where
  slot : Nat
  offset : Nat
  size : Nat
  value : Nat
  deriving DecidableEq, Repr

structure Link where
  area : Long
  areaSet : Bool
  causes : Causes
  unreported : Nat
  idleTimer : Option Nat
  waiting : List SlotWrite
  /-- the status block fields, by offset, that a change within the step has made due for a write even where their value
  comes back to what it was; empty between steps (R6, log entry 27) -/
  dirty : List Nat
  /-- what the last STATUS read returned: the model's own field (log entry 5) -/
  readData : Word
  deriving DecidableEq, Repr

/-! ## INT, the intake unit (chapter 1) -/

inductive SweepStep where
  | one
  | two
  | three
  | four
  | five
  deriving DecidableEq, Repr

/-- A request that step 1 found new and step 2 has still to answer (R16). -/
structure SlotRequest where
  slot : Nat
  code : Byte
  number : Byte
  deriving DecidableEq, Repr

/-- What the running sweep keeps of step 1 for one slot; `held` is whether the part held the slot then (R10). -/
structure SlotScan where
  slot : Nat
  held : Bool
  token : Word
  /-- class and ticket of a candidate, absent where they were not read -/
  header : Option (Bool × Word)
  deriving DecidableEq, Repr

/-- The running sweep (R9). -/
structure Sweep where
  step : SweepStep
  /-- the slots whose token step 1 read without error -/
  scans : List SlotScan
  requests : List SlotRequest
  /-- candidates of step 4 not yet begun (R11) -/
  candidates : List Nat
  /-- the slot whose take reads are out (R12) -/
  taking : Option Nat
  /-- the slot whose TAKEN write is issued and whose validation is still to come (R10, R12) -/
  taken : Option (Nat × TakeData)
  /-- the engine has left RUNNING or paused since the sweep began, so its step 4 begins no take (R10, R181, R183) -/
  barred : Bool
  deriving DecidableEq, Repr

structure Intake where
  /-- sweep timer or cell poll timer, milliseconds to go (R8) -/
  timer : Option Nat
  takeSeq : Word
  lostPending : Bool
  sweep : Option Sweep
  /-- a read of the machine request cell is out -/
  cellRead : Bool
  /-- a POSTED cell request has been handed over and its answer is owed -/
  cellOwed : Bool
  /-- detached orders counter (R18) -/
  detached : Word
  deriving DecidableEq, Repr

/-! ## SET, the setup store (chapter 2) -/

/-- The operating parameters of 2.2.2. -/
structure Params where
  sweepPeriod : Nat
  notifyTrigger : Nat
  notifyIdle : Nat
  remakeLimit : Nat
  patience : Nat
  prescale : Nat
  divisor : Nat
  offTime : Nat
  pMin : Nat
  refillMark : Nat
  cutLength : Nat
  markLead : Nat
  regWindow : Nat
  strokeTime : Nat
  threshold : Nat
  settle : Nat
  sorterTimeout : Nat
  changeTimeout : Nat
  deriving DecidableEq, Repr

/-- The parameters by name, for the load (2.2.2). -/
inductive Param where
  | sweepPeriod
  | notifyTrigger
  | notifyIdle
  | remakeLimit
  | patience
  | prescale
  | divisor
  | offTime
  | pMin
  | refillMark
  | cutLength
  | markLead
  | regWindow
  | strokeTime
  | threshold
  | settle
  | sorterTimeout
  | changeTimeout
  deriving DecidableEq, Repr

/-- An access window (4.1). -/
structure Window where
  base : Long
  length : Word
  enable : Bool
  deriving DecidableEq, Repr

/-- A quantity break of a product. -/
structure Break where
  minimum : Nat
  price : Nat
  deriving DecidableEq, Repr

/-- A product record (2.1). -/
structure Product where
  isDefined : Bool
  usable : Bool
  width : Nat
  length : Nat
  breakCount : Nat
  basePrice : Nat
  breaks : List Break
  deriving DecidableEq, Repr

/-- Setup state (R24). -/
inductive SetupState where
  | invalid
  | loading
  | valid
  deriving DecidableEq, Repr

/-- The groups of the setup area, and the coding of the first refused table (R24). -/
inductive SetupGroup where
  | none
  | header
  | parameters
  | windows
  | classes
  | pricing
  | products
  | toneSets
  | uniformity
  deriving DecidableEq, Repr

/-- A field of the setup area, the unit in which a load reads (2.2.1). -/
inductive SetupField where
  | revision
  | param (p : Param)
  | windowBase (w : Nat)
  | windowLength (w : Nat)
  | windowEnable (w : Nat)
  | discount (c : Nat)
  | handlingFee
  | rushSurcharge
  | taxRate
  | fullScale (c : Chan)
  | productDefined (p : Nat)
  | productWidth (p : Nat)
  | productLength (p : Nat)
  | productBreaks (p : Nat)
  | productPrice (p : Nat)
  | breakMinimum (p : Nat) (k : Nat)
  | breakPrice (p : Nat) (k : Nat)
  | tone (i : Nat)
  | uniformity (i : Nat)
  deriving DecidableEq, Repr

structure Setup where
  params : Params
  windows : List Window
  discounts : List Nat
  handlingFee : Nat
  rushSurcharge : Nat
  taxRate : Nat
  fullScale : Rgb
  products : List Product
  /-- tone sets, set s, channel c, value v at index (s × 3 + c) × 256 + v; default 0 -/
  tones : SparseTable
  /-- uniformity table, channel c, element e at index c × 3,072 + e; default 1,024 -/
  uniformity : SparseTable
  state : SetupState
  clampCount : Nat
  firstRefused : SetupGroup
  /-- the field whose read is out while a load is in progress (R25) -/
  cursor : Option SetupField
  deriving DecidableEq, Repr

/-! ## PAP, the paper supply unit (chapter 2) -/

inductive Surface where
  | gloss
  | lustre
  deriving DecidableEq, Repr

/-- A magazine record with its present sensor (2.4). -/
structure Magazine where
  loaded : Bool
  width : Nat
  surface : Surface
  toneSet : Nat
  remaining : Nat
  lot : Word
  low : Bool
  present : Bool
  deriving DecidableEq, Repr

structure Paper where
  magA : Magazine
  magB : Magazine
  active : Mag
  /-- the target while CHANGING, absent while IDLE; the CHANGE line is high exactly while it is present (R37) -/
  target : Option Mag
  /-- changeover timer, milliseconds to go -/
  timer : Option Nat
  deriving DecidableEq, Repr

/-! ## PLN, the planner (chapter 3) -/

inductive OrderState where
  | queued
  | waitPaper
  | active
  | held
  | cancelling
  | draining
  | complete
  deriving DecidableEq, Repr

/-- A print entry in an order context (3.1); `copies` is C. -/
structure Entry where
  product : Nat
  width : Nat
  length : Nat
  image : ImageRec
  density : Byte
  colourR : Byte
  colourG : Byte
  colourB : Byte
  pattern : Bool
  copies : Nat
  t : Nat
  f : Nat
  g : Nat
  a : Nat
  used : Nat
  jams : Nat
  unverified : Bool
  misrouted : Bool
  deriving DecidableEq, Repr

/-- An order context in use (3.1). -/
structure Order where
  slot : Nat
  ticket : Word
  rush : Bool
  custClass : Nat
  takeSeq : Word
  state : OrderState
  heldFrom : Option OrderState
  answered : Byte
  entries : List Entry
  remakes : List Nat
  bins : List Nat
  unsettled : List Word
  cancelled : Bool
  faultMark : Bool
  detached : Bool
  waitingSince : Option Word
  /-- the slot return has begun and waits for a setup load to end (R176) -/
  returnDue : Bool
  deriving DecidableEq, Repr

structure Planner where
  /-- the sixteen order contexts -/
  table : List (Option Order)
  /-- the queue, as indexes of the table (R43) -/
  queue : List Nat
  /-- pending switch flag (R63) -/
  switchFlag : Bool
  framesExposed : Word
  budgetRemakes : Word
  jamRemakes : Word
  deriving DecidableEq, Repr

/-! ## FCH, the fetch unit (chapter 4) -/

inductive FetchState where
  | fetching
  | fetched
  | stopped
  deriving DecidableEq, Repr

/-- A frame list item (4.2); `served` counts the lines of the frame a strobe has needed (R73). -/
structure FrameItem where
  number : Word
  order : Nat
  slot : Nat
  image : ImageRec
  pattern : Bool
  density : Byte
  colourR : Byte
  colourG : Byte
  colourB : Byte
  paperElems : Nat
  length : Nat
  state : FetchState
  served : Nat
  deriving DecidableEq, Repr

/-- A line of the line buffer (4.3). -/
structure BufferLine where
  number : Word
  index : Nat
  pixels : List Byte
  deriving DecidableEq, Repr

/-- How a read that has completed ended. -/
inductive ReadEnd where
  | data (bytes : List Byte)
  | busError
  deriving DecidableEq, Repr

/-- An outstanding line read; `ended` is present once it has completed and waits for earlier reads (R73). -/
structure LineRead where
  number : Word
  index : Nat
  addr : Long
  discard : Bool
  ended : Option ReadEnd
  deriving DecidableEq, Repr

structure Fetch where
  items : List FrameItem
  cursor : Option (Word × Nat)
  buffer : List BufferLine
  reads : List LineRead
  refill : Bool
  underruns : Word
  deriving DecidableEq, Repr

/-! ## PCC, the pulse calculator (chapter 5) -/

structure Pulse where
  /-- clip count of the current line (R92) -/
  held : Nat
  clipped : Word
  deriving DecidableEq, Repr

/-! ## LTU, the line timing unit (chapter 6) -/

inductive WebState where
  | idle
  | ramping
  | ready
  deriving DecidableEq, Repr

structure Line where
  w : Word
  web : WebState
  prescale : Nat
  divisor : Nat
  /-- strobe supervision timer: the ticks it was started with, absent while stopped (R105) -/
  supervision : Option Nat
  breakCount : Nat
  punch : Bool
  /-- for each element from 0, the widths of the pulses still on; elements past the end are off (R103) -/
  head : List Rgb
  /-- the FRAME the line in progress belongs to -/
  lineFrame : Option Word
  /-- the WEB_READY level -/
  webReady : Bool
  deriving DecidableEq, Repr

/-! ## SMN, the supply monitor (chapter 6) -/

structure Supply where
  watching : Bool
  settle : Nat
  strokeEnded : Bool
  sags : Word
  deriving DecidableEq, Repr

/-! ## WTR, the web tracker (chapter 7) -/

/-- The flags of a web map entry. -/
structure Flags where
  sag : Bool
  underrun : Bool
  truncated : Bool
  spoiled : Bool
  unverified : Bool
  miscut : Bool
  deriving DecidableEq, Repr

/-- The fields a FRAME entry has beyond those of every entry (7.1). -/
structure FrameInfo where
  mag : Mag
  width : Nat
  toneSet : Nat
  order : Nat
  entry : Nat
  remake : Bool
  clips : Nat
  ended : Bool
  reject : Bool
  deriving DecidableEq, Repr

inductive Piece where
  | frame (f : FrameInfo)
  | gap
  | splice
  deriving DecidableEq, Repr

/-- A web map entry (7.1). -/
structure MapEntry where
  number : Word
  piece : Piece
  start : Word
  length : Nat
  flags : Flags
  deriving DecidableEq, Repr

structure Web where
  map : List MapEntry
  nextNumber : Word
  /-- splice hold: the splice end position while set (R123) -/
  hold : Option Word
  cutterPos : Word
  waste : Word
  spoils : Word
  deriving DecidableEq, Repr

/-! ## CUT, the cutter controller (chapter 8) -/

inductive KnifeState where
  | idle
  | stroke
  | faulted
  deriving DecidableEq, Repr

structure Cutter where
  knife : KnifeState
  leftHome : Bool
  /-- knife timer, milliseconds to go -/
  timer : Option Nat
  solenoid : Bool
  offset : Int
  cursor : Option Word
  misses : Nat
  markLost : Bool
  /-- knife home sensor level -/
  home : Bool
  /-- jam sensor level -/
  jam : Bool
  deriving DecidableEq, Repr

/-! ## SRT, the sorter controller (chapter 9) -/

/-- A print on the sorter lane (9.1). -/
structure LaneItem where
  order : Nat
  entry : Nat
  number : Word
  reject : Bool
  unverified : Bool
  dest : Nat
  reached : Bool
  entryTime : Word
  deadline : Word
  deriving DecidableEq, Repr

inductive BinState where
  | free
  | reserved
  | filling
  | ready
  | attention
  deriving DecidableEq, Repr

/-- An order bin (9.4); its in-lane count is counted from the lane (log entry 6). -/
structure Bin where
  state : BinState
  /-- owner ticket and slot -/
  owner : Option (Word × Nat)
  live : Bool
  good : Nat
  misroutes : Nat
  disturbed : Bool
  deriving DecidableEq, Repr

/-- The key scanner's record of one key (R158). -/
structure Key where
  run : Nat
  latched : Bool
  deriving DecidableEq, Repr

structure Sorter where
  lane : List LaneItem
  /-- order bins 1 to 15 -/
  bins : List Bin
  rejectCount : Nat
  rejectFull : Bool
  misroutes : Word
  clock : Word
  /-- keys 0 to 15 -/
  keys : List Key
  blink1 : Bool
  blink4 : Bool
  deriving DecidableEq, Repr

/-! ## ENG, engine control (chapter 11) -/

structure FaultRecord where
  kind : FaultKind
  slot : Nat
  addr : Long
  deriving DecidableEq, Repr

structure Engine where
  state : EngineState
  resetKind : ResetKind
  record : FaultRecord
  overflow : Nat
  hold : ResetHold
  deriving DecidableEq, Repr

/-! ## The whole part -/

/-- The BP640, the outputs of its last step and the queue of commands that wait, first in, first out. -/
structure State where
  link : Link
  intake : Intake
  setup : Setup
  paper : Paper
  plan : Planner
  fetch : Fetch
  pulse : Pulse
  line : Line
  supply : Supply
  web : Web
  cut : Cutter
  sort : Sorter
  eng : Engine
  out : List Output
  pending : List Instr
  deriving DecidableEq, Repr

/-- Reasons the machine stops with a fault. There is none: the manual gives every command an effect in every state, so no
command of the BP640 ends in a fault (safe: nothing is stopped that the part goes on from). -/
inductive Fault where
  deriving DecidableEq, Repr

/-- Reasons a command has no meaning. -/
inductive Refusal where
  /-- raised by an arm of exec whose command is not modelled; no arm is left in that state (safe) -/
  | notModelled (mnemonic : String)
  deriving DecidableEq, Repr

/-! ## The state after a power-on reset (R189, R191) -/

def Causes.clear : Causes := { completed := false, attention := false, fault := false, refused := false }

def Link.reset : Link :=
  { area := 0, areaSet := false, causes := Causes.clear, unreported := 0, idleTimer := none, waiting := [], dirty := []
    readData := 0 }

def Intake.reset : Intake :=
  { timer := none, takeSeq := 0, lostPending := true, sweep := none, cellRead := false, cellOwed := false, detached := 0 }

/-- The defaults of 2.2.2. -/
def Params.reset : Params :=
  { sweepPeriod := 50, notifyTrigger := 4, notifyIdle := 200, remakeLimit := 2, patience := 300, prescale := 0, divisor := 0,
    offTime := 400, pMin := 8, refillMark := 8, cutLength := 0, markLead := 120, regWindow := 15, strokeTime := 40,
    threshold := 4, settle := 2, sorterTimeout := 4, changeTimeout := 60 }

def Window.reset : Window := { base := 0, length := 0, enable := false }

def Break.reset : Break := { minimum := 0, price := 0 }

def Product.reset : Product :=
  { isDefined := false, usable := false, width := 0, length := 0, breakCount := 0, basePrice := 0,
    breaks := List.replicate 4 Break.reset }

def Setup.reset : Setup :=
  { params := Params.reset, windows := List.replicate 4 Window.reset, discounts := List.replicate 8 0,
    handlingFee := 0, rushSurcharge := 0, taxRate := 0, fullScale := { red := 0, green := 0, blue := 0 },
    products := List.replicate 32 Product.reset, tones := [], uniformity := [], state := .invalid, clampCount := 0,
    firstRefused := .none, cursor := none }

/-- A magazine record after a power-on or pin reset; the present level is the pin's own (R32). -/
def Magazine.reset (present : Bool) : Magazine :=
  { loaded := false, width := 0, surface := .gloss, toneSet := 0, remaining := 0, lot := 0, low := false, present := present }

def Paper.reset : Paper :=
  { magA := Magazine.reset false, magB := Magazine.reset false, active := .a, target := none, timer := none }

def Planner.reset : Planner :=
  { table := List.replicate 16 none, queue := [], switchFlag := false, framesExposed := 0, budgetRemakes := 0, jamRemakes := 0 }

def Fetch.reset : Fetch := { items := [], cursor := none, buffer := [], reads := [], refill := false, underruns := 0 }

def Pulse.reset : Pulse := { held := 0, clipped := 0 }

def Line.reset : Line :=
  { w := 0, web := .idle, prescale := 0, divisor := 0, supervision := none, breakCount := 0, punch := false, head := [],
    lineFrame := none, webReady := false }

def Supply.reset : Supply := { watching := false, settle := 0, strokeEnded := false, sags := 0 }

def Web.reset : Web := { map := [], nextNumber := 0, hold := none, cutterPos := 0, waste := 0, spoils := 0 }

def Cutter.reset : Cutter :=
  { knife := .idle, leftHome := false, timer := none, solenoid := false, offset := 0, cursor := none, misses := 0,
    markLost := false, home := true, jam := false }

def Bin.empty : Bin := { state := .free, owner := none, live := false, good := 0, misroutes := 0, disturbed := false }

/-- Every key starts latched (R158). -/
def Key.reset : Key := { run := 0, latched := true }

def Sorter.reset : Sorter :=
  { lane := [], bins := List.replicate 15 Bin.empty, rejectCount := 0, rejectFull := false, misroutes := 0, clock := 0,
    keys := List.replicate 16 Key.reset, blink1 := false, blink4 := false }

def FaultRecord.reset : FaultRecord := { kind := .none, slot := 255, addr := 0 }

def Engine.reset : Engine :=
  { state := .stopped, resetKind := .power, record := FaultRecord.reset, overflow := 0, hold := .released }

/-- The part right after a power-on reset (R189), every pin at the level log entry 7 names. -/
def State.reset : State :=
  { link := Link.reset, intake := Intake.reset, setup := Setup.reset, paper := Paper.reset, plan := Planner.reset,
    fetch := Fetch.reset, pulse := Pulse.reset, line := Line.reset, supply := Supply.reset, web := Web.reset,
    cut := Cutter.reset, sort := Sorter.reset, eng := Engine.reset, out := [], pending := [] }

end Sys2Proof.Machine
end

