-- ==== Sys2Proof/Machine/Operands.lean ====
section
/-! DEFINITION. How the part reads the bytes and words the host gives it, the layout of the job area, and the layout of
the setup area (chapters 1, 2 and 5). -/

namespace Sys2Proof.Machine

/-! ## Tokens and codes (1.2) -/

def tokenPosted : Word := 1
def tokenTaken : Word := 2
def tokenReturned : Word := 3
/-- the machine request cell's ANSWERED -/
def tokenAnswered : Word := 2

/-- Class: 1 RUSH, any other value NORMAL (1.2.1). -/
def rushOf (b : Byte) : Bool := b == 1

/-- Customer class; a value above 7 is read as 7 (1.2.1). -/
def custClassOf (b : Byte) : Nat := min b.toNat 7

/-- Flags of a print entry: value 1 PATTERN (1.2.1). -/
def patternOf (b : Byte) : Bool := b == 1

/-- The magazine byte of the cell: 0 A, 1 B, absent above 1 (R7). -/
def magOf (b : Byte) : Option Mag :=
  if b = 0 then some .a else if b = 1 then some .b else none

/-- The surface operand reads GLOSS for 0 and LUSTRE for any other value (R33). -/
def surfaceOf (b : Byte) : Surface := if b = 0 then .gloss else .lustre

/-- One of the accepted widths (00_scope.md, 4.1). -/
def widthAccepted (w : Nat) : Bool := Config.widths.contains w

def otherOf : Mag → Mag
  | .a => .b
  | .b => .a

/-- A step is read as a signed byte and clamped to −8 to +8 (R85). -/
def stepOf (b : Byte) : Int := max (-8) (min 8 b.toInt)

/-- The combined step of a channel, clamped to −12 to +12 (R85). -/
def combinedStep (density colour : Byte) : Int := max (-12) (min 12 (stepOf density + stepOf colour))

/-- The step gain G = 1,024 + 64 × k (R85). -/
def stepGain (density colour : Byte) : Nat := (1024 + 64 * combinedStep density colour).toNat

def Rgb.get (x : Rgb) : Chan → Nat
  | .red => x.red
  | .green => x.green
  | .blue => x.blue

def Rgb.set (x : Rgb) (v : Nat) : Chan → Rgb
  | .red => { x with red := v }
  | .green => { x with green := v }
  | .blue => { x with blue := v }

def chanIndex : Chan → Nat
  | .red => 0
  | .green => 1
  | .blue => 2

/-! ## The job area (1.2) -/

/-- Job area offset of a field of an order slot. -/
def slotOffset (slot offset : Nat) : Nat := 0x10000 + slot * 0x1000 + offset

def offToken : Nat := 0x000
def offTicket : Nat := 0x004
def offClass : Nat := 0x008
def offRequest : Nat := 0x010
def offAnswered : Nat := 0x014
def offAnswer : Nat := 0x015
def offOutcome : Nat := 0x020
def offRefuse : Nat := 0x021
def offMirror : Nat := 0x022
def offBinsCount : Nat := 0x023
def offBins : Nat := 0x024
def offEstimate : Nat := 0x040
def offFinal : Nat := 0x060
def offEntries : Nat := 0x100
/-- offset of entry result i -/
def offResult (i : Nat) : Nat := 0x900 + 16 * i

/-- Offset and size of the fields a take reads before it knows the entry count: ticket, class, customer class, entry
count, request code and number (R12, 1.2.1). -/
def takeHeaderFields : List (Nat × Nat) := [(0x004, 4), (0x008, 1), (0x009, 1), (0x00A, 1), (0x010, 1), (0x011, 1)]

/-- Offset and size of the fields of one print entry (1.2.1). -/
def entryFields : List (Nat × Nat) :=
  [(0x00, 1), (0x01, 1), (0x02, 1), (0x03, 3), (0x06, 1), (0x08, 8), (0x10, 4), (0x14, 2), (0x16, 2), (0x18, 2)]

/-- The fields of the first n print entries, in offset order. -/
def entryReads (n : Nat) : List (Nat × Nat) :=
  (List.range n).flatMap (fun i => entryFields.map (fun x => (offEntries + 32 * i + x.1, x.2)))

/-- Job area offset of the machine request cell. -/
def offCell : Nat := 0x200

/-- Offset and size of the code and the operands in the machine request cell (1.2.2). -/
def cellFields : List (Nat × Nat) :=
  [(0x04, 1), (0x05, 1), (0x06, 2), (0x08, 1), (0x09, 1), (0x0A, 1), (0x0C, 4), (0x10, 4)]
/-- Job area offset of the setup area. -/
def offSetup : Nat := 0x1000

/-! ## The setup area (2.2) -/

/-- Setup area offset, size, range and group of a parameter (2.2.2). -/
def Param.offset : Param → Nat
  | .sweepPeriod => 0x10
  | .notifyTrigger => 0x12
  | .notifyIdle => 0x14
  | .remakeLimit => 0x16
  | .patience => 0x18
  | .prescale => 0x1A
  | .divisor => 0x1C
  | .offTime => 0x1E
  | .pMin => 0x20
  | .refillMark => 0x22
  | .cutLength => 0x24
  | .markLead => 0x28
  | .regWindow => 0x2A
  | .strokeTime => 0x2C
  | .threshold => 0x2E
  | .settle => 0x30
  | .sorterTimeout => 0x32
  | .changeTimeout => 0x34

def Param.size : Param → Nat
  | .cutLength => 4
  | _ => 2

def Param.range : Param → Nat × Nat
  | .sweepPeriod => (5, 1000)
  | .notifyTrigger => (1, 16)
  | .notifyIdle => (10, 2000)
  | .remakeLimit => (0, 3)
  | .patience => (50, 2000)
  | .prescale => (0, 3)
  | .divisor => (0, 65535)
  | .offTime => (100, 4000)
  | .pMin => (1, 64)
  | .refillMark => (4, 12)
  | .cutLength => (20000, 200000)
  | .markLead => (50, 500)
  | .regWindow => (5, 40)
  | .strokeTime => (20, 80)
  | .threshold => (0, 7)
  | .settle => (0, 7)
  | .sorterTimeout => (1, 10)
  | .changeTimeout => (10, 120)

/-- The parameter whose read follows, in ascending offset order. -/
def Param.next : Param → Option Param
  | .sweepPeriod => some .notifyTrigger
  | .notifyTrigger => some .notifyIdle
  | .notifyIdle => some .remakeLimit
  | .remakeLimit => some .patience
  | .patience => some .prescale
  | .prescale => some .divisor
  | .divisor => some .offTime
  | .offTime => some .pMin
  | .pMin => some .refillMark
  | .refillMark => some .cutLength
  | .cutLength => some .markLead
  | .markLead => some .regWindow
  | .regWindow => some .strokeTime
  | .strokeTime => some .threshold
  | .threshold => some .settle
  | .settle => some .sorterTimeout
  | .sorterTimeout => some .changeTimeout
  | .changeTimeout => none

/-- Setup area offset of a field (2.2.1). -/
def SetupField.offset : SetupField → Nat
  | .revision => 0
  | .param p => p.offset
  | .windowBase w => 0x80 + 16 * w
  | .windowLength w => 0x88 + 16 * w
  | .windowEnable w => 0x8C + 16 * w
  | .discount c => 0xC0 + 2 * c
  | .handlingFee => 0xD0
  | .rushSurcharge => 0xD4
  | .taxRate => 0xD6
  | .fullScale c => 0xE0 + 2 * chanIndex c
  | .productDefined p => 0x100 + 48 * p
  | .productWidth p => 0x102 + 48 * p
  | .productLength p => 0x104 + 48 * p
  | .productBreaks p => 0x106 + 48 * p
  | .productPrice p => 0x108 + 48 * p
  | .breakMinimum p k => 0x110 + 48 * p + 8 * k
  | .breakPrice p k => 0x114 + 48 * p + 8 * k
  | .tone i => 0x800 + 2 * i
  | .uniformity i => 0x2000 + 2 * i

def SetupField.size : SetupField → Nat
  | .revision => 4
  | .param p => p.size
  | .windowBase _ => 8
  | .windowLength _ => 4
  | .windowEnable _ => 1
  | .discount _ => 2
  | .handlingFee => 4
  | .rushSurcharge => 2
  | .taxRate => 2
  | .fullScale _ => 2
  | .productDefined _ => 1
  | .productWidth _ => 2
  | .productLength _ => 2
  | .productBreaks _ => 1
  | .productPrice _ => 4
  | .breakMinimum _ _ => 2
  | .breakPrice _ _ => 4
  | .tone _ => 2
  | .uniformity _ => 2

def SetupField.group : SetupField → SetupGroup
  | .revision => .header
  | .param _ => .parameters
  | .windowBase _ => .windows
  | .windowLength _ => .windows
  | .windowEnable _ => .windows
  | .discount _ => .classes
  | .handlingFee => .pricing
  | .rushSurcharge => .pricing
  | .taxRate => .pricing
  | .fullScale _ => .none
  | .productDefined _ => .products
  | .productWidth _ => .products
  | .productLength _ => .products
  | .productBreaks _ => .products
  | .productPrice _ => .products
  | .breakMinimum _ _ => .products
  | .breakPrice _ _ => .products
  | .tone _ => .toneSets
  | .uniformity _ => .uniformity

/-- The range a field is clamped to, absent for a field stored as read (R26, R27). -/
def SetupField.range : SetupField → Option (Nat × Nat)
  | .param p => some p.range
  | .discount _ => some (0, 5000)
  | .handlingFee => some (0, 99999)
  | .rushSurcharge => some (0, 10000)
  | .taxRate => some (0, 5000)
  | .productBreaks _ => some (0, 4)
  | .productPrice _ => some (0, 99999)
  | .breakMinimum _ _ => some (2, 1500)
  | .breakPrice _ _ => some (0, 99999)
  | .tone _ => some (0, 4095)
  | .uniformity _ => some (768, 1279)
  | .revision => none
  | .windowBase _ => none
  | .windowLength _ => none
  | .windowEnable _ => none
  | .fullScale _ => none
  | .productDefined _ => none
  | .productWidth _ => none
  | .productLength _ => none

/-! ## Codes written to the host (1.1, 1.2, 2.1, 11.4) -/

def EngineState.code : EngineState → Nat
  | .stopped => 0
  | .running => 1
  | .stopping => 2
  | .paused => 3
  | .halted => 4

def ResetKind.code : ResetKind → Nat
  | .power => 0
  | .pin => 1
  | .soft => 2

def FaultKind.code : FaultKind → Nat
  | .none => 0
  | .jam => 1
  | .stall => 2
  | .paperBreak => 3
  | .knifeFault => 4
  | .paperFeed => 5
  | .imageRead => 6
  | .slotRead => 7
  | .slotWrite => 8
  | .setupRead => 9

def SetupState.code : SetupState → Nat
  | .invalid => 0
  | .loading => 1
  | .valid => 2

def SetupGroup.code : SetupGroup → Nat
  | .none => 0
  | .header => 1
  | .parameters => 2
  | .windows => 3
  | .classes => 4
  | .pricing => 5
  | .products => 6
  | .toneSets => 7
  | .uniformity => 8

def Surface.code : Surface → Nat
  | .gloss => 0
  | .lustre => 1

def OrderState.code : OrderState → Nat
  | .queued => 0
  | .waitPaper => 1
  | .active => 2
  | .held => 3
  | .cancelling => 4
  | .draining => 5
  | .complete => 6

def BinState.code : BinState → Nat
  | .free => 0
  | .reserved => 1
  | .filling => 2
  | .ready => 3
  | .attention => 4

/-- Answer codes of a slot request (1.2.1). -/
inductive Answer where
  | none
  | done
  | tooLate
  | notApplicable
  deriving DecidableEq, Repr

def Answer.code : Answer → Nat
  | .none => 0
  | .done => 1
  | .tooLate => 2
  | .notApplicable => 3

/-- Answers of the machine request cell (1.2.2). -/
inductive CellAnswer where
  | done
  | notPresent
  | busy
  | notApplicable
  deriving DecidableEq, Repr

def CellAnswer.code : CellAnswer → Nat
  | .done => 1
  | .notPresent => 2
  | .busy => 3
  | .notApplicable => 4

/-- Outcomes of an order slot (1.2.1). -/
inductive SlotOutcome where
  | pending
  | complete
  | short
  | cancelled
  | fault
  | refused
  | lost
  deriving DecidableEq, Repr

def SlotOutcome.code : SlotOutcome → Nat
  | .pending => 0
  | .complete => 1
  | .short => 2
  | .cancelled => 3
  | .fault => 4
  | .refused => 5
  | .lost => 6

/-- Refuse codes (R13). -/
inductive RefuseCode where
  | badCount
  | tooLarge
  | badProduct
  | badImage
  deriving DecidableEq, Repr

def RefuseCode.code : RefuseCode → Nat
  | .badCount => 1
  | .tooLarge => 2
  | .badProduct => 3
  | .badImage => 4

/-- A 1 or 0 of a flag byte. -/
def bit (b : Bool) : Nat := if b then 1 else 0

end Sys2Proof.Machine
end

