-- ==== Sys2Proof/Machine/Ops.lean ====
section
/-! DEFINITION. The named operations every block uses: the setup tables, the causes, the fault record, accesses on the
link, writes to order slots, order contexts, magazines and bins. -/

namespace Sys2Proof.Machine

/-! ## Setup tables (log entry 4) -/

/-- Entry i of a table whose unlisted entries read d. -/
def tableGet (d : Nat) : SparseTable → Nat → Nat
  | [], _ => d
  | (k, v) :: rest, i => if i = k then v else if i < k then d else tableGet d rest i

/-- Entry i becomes x, in the canonical form. -/
def tableSet (d : Nat) : SparseTable → Nat → Nat → SparseTable
  | [], i, x => if x = d then [] else [(i, x)]
  | (k, v) :: rest, i, x =>
    if i = k then (if x = d then rest else (i, x) :: rest)
    else if i < k then (if x = d then (k, v) :: rest else (i, x) :: (k, v) :: rest)
    else (k, v) :: tableSet d rest i x

/-- The canonical form above index lo: indexes strictly rising, no entry equal to the default. -/
def tableWf (d : Nat) : Nat → SparseTable → Bool
  | _, [] => true
  | lo, (k, v) :: rest => decide (lo ≤ k) && decide (v ≠ d) && tableWf d (k + 1) rest

/-! ## Engine state -/

/-- The part takes events: it is neither HALTED nor held in reset (R188, R189). -/
def live (s : State) : Bool := s.eng.state != .halted && s.eng.hold == .released

/-- RUNNING or STOPPING: the states in which RUN is high (11.1). -/
def moving (s : State) : Bool := s.eng.state == .running || s.eng.state == .stopping

/-- The RUN line: low exactly while the web state is IDLE (6.2). -/
def runHigh (s : State) : Bool := s.line.web != .idle

/-! ## Causes (R3, R23) -/

def raiseCompleted (s : State) : State := { s with link.causes.completed := true }
def raiseAttention (s : State) : State := { s with link.causes.attention := true }
def raiseRefused (s : State) : State := { s with link.causes.refused := true }

/-! ## The link (R4) -/

/-- One output of this step, after those already made. -/
def emit (o : Output) (s : State) : State := { s with out := s.out ++ [o] }

/-- The outputs of the step before are over. -/
def clearOut (s : State) : State := { s with out := [], link.dirty := [] }

/-- The status block fields at these offsets have changed in this step, so a write of each is due (R6). -/
def markFields (offsets : List Nat) (s : State) : State := { s with link.dirty := s.link.dirty ++ offsets }

/-- ENG changes the engine state, and LNK owes the write of it (R179, R6). -/
def setEngine (st : EngineState) (s : State) : State := markFields [0x000] { s with eng.state := st }

/-- An exact address as the link carries it (log entry 1). -/
def busAddr (n : Nat) : Long := if n < 2 ^ 64 then BitVec.ofNat 64 n else Config.pastTop n

/-- The address of a job area offset: the AREA base plus the offset (1.2). -/
def jobAddr (s : State) (offset : Nat) : Long := busAddr (s.link.area.toNat + offset)

/-- An access is made only while AREA is set (R1). -/
def emitAccess (o : Output) (s : State) : State := if s.link.areaSet then emit o s else s

def emitRead (offset size : Nat) (s : State) : State := emitAccess (.read (jobAddr s offset) size) s
def emitWrite (offset size value : Nat) (s : State) : State := emitAccess (.write (jobAddr s offset) size value) s

/-- Reads of these fields of an order slot, as offset and size, in this order. -/
def emitReads (slot : Nat) (fields : List (Nat × Nat)) (s : State) : State :=
  fields.foldl (fun s x => emitRead (slotOffset slot x.1) x.2 s) s

/-- A waiting write of the same field is merged into; a slot's waiting RETURNED write stays its last (R6, R20, R21). -/
def insertWrite (w : SlotWrite) : List SlotWrite → List SlotWrite
  | [] => [w]
  | x :: rest =>
    if x.slot = w.slot && x.offset = w.offset then w :: rest
    else if x.slot = w.slot && x.offset = offToken then w :: x :: rest
    else x :: insertWrite w rest

/-- A slot write joins those that wait to be issued. -/
def pushWrite (slot offset size value : Nat) (s : State) : State :=
  { s with link.waiting := insertWrite { slot := slot, offset := offset, size := size, value := value } s.link.waiting }

/-- The waiting writes of a slot are given up (R18, R14). -/
def dropWrites (slot : Nat) (s : State) : State :=
  { s with link.waiting := s.link.waiting.filter (fun w => w.slot != slot) }

/-- A RETURNED write of this slot waits: its refusal, LOST return or completion return is in progress. -/
def returnWaiting (s : State) (slot : Nat) : Bool :=
  s.link.waiting.any (fun w => w.slot == slot && w.offset == offToken)

/-! ## The fault record (R185) -/

/-- A fault report: the record replaced, its three fields written whatever they held, and FAULT set; or, with FAULT set
already, the overflow count raised and written (R185). -/
def recordFault (kind : FaultKind) (slot : Nat) (addr : Long) (s : State) : State :=
  if s.link.causes.fault then markFields [0x1A0] { s with eng.overflow := min (s.eng.overflow + 1) 4294967295 }
  else
    markFields [0x190, 0x191, 0x198]
      { s with eng.record := { kind := kind, slot := slot, addr := addr }, link.causes.fault := true }

/-! ## Order contexts (3.1) -/

def getOrder (s : State) (i : Nat) : Option Order := (s.plan.table.getD i none)

def putOrder (i : Nat) (o : Option Order) (s : State) : State := { s with plan.table := s.plan.table.set i o }

/-- The table index of the order from this slot, absent where no order is held for it. -/
def findSlot (slot : Nat) : List (Option Order) → Nat → Option Nat
  | [], _ => none
  | o :: rest, i =>
    match o with
    | some x => if x.slot = slot then some i else findSlot slot rest (i + 1)
    | none => findSlot slot rest (i + 1)

def orderOfSlot (s : State) (slot : Nat) : Option Nat := findSlot slot s.plan.table 0

/-- The lowest free context (log entry 8). -/
def findFree : List (Option Order) → Nat → Option Nat
  | [], _ => none
  | none :: _, i => some i
  | some _ :: rest, i => findFree rest (i + 1)

def freeContext (s : State) : Option Nat := findFree s.plan.table 0

/-- The part holds the slot: an order stands for it, its take is between TAKEN and its verdict, or a refusal of it still
has its RETURNED write to issue (R5). -/
def holdsSlot (s : State) (slot : Nat) : Bool :=
  (orderOfSlot s slot).isSome || returnWaiting s slot ||
    (match s.intake.sweep with
      | some w => (match w.taken with
        | some (n, _) => n == slot
        | none => false)
      | none => false)

def sumBy (f : Entry → Nat) (es : List Entry) : Nat := (es.map f).sum

/-- C_total (3.1). -/
def copiesTotal (o : Order) : Nat := sumBy Entry.copies o.entries
def stillToExpose (o : Order) : Nat := sumBy Entry.t o.entries
def inFlight (o : Order) : Nat := sumBy Entry.f o.entries

/-- Unstarted copies of entry i: t less the pending remakes of it (3.1). -/
def unstarted (o : Order) (i : Nat) : Nat :=
  match o.entries[i]? with
  | some e => e.t - o.remakes.count i
  | none => 0

/-! ## Magazines (2.4) -/

def getMag (s : State) : Mag → Magazine
  | .a => s.paper.magA
  | .b => s.paper.magB

def setMag (m : Mag) (r : Magazine) (s : State) : State :=
  match m with
  | .a => { s with paper.magA := r }
  | .b => { s with paper.magB := r }

def activeMag (s : State) : Magazine := getMag s s.paper.active
def otherMag (s : State) : Magazine := getMag s (otherOf s.paper.active)

/-! ## Bins (9.4) -/

def getBin (s : State) (b : Nat) : Bin := s.sort.bins.getD (b - 1) Bin.empty

/-- Order bin b, from 1, becomes r. -/
def setBin (b : Nat) (r : Bin) (s : State) : State := { s with sort.bins := s.sort.bins.set (b - 1) r }

/-- The in-lane count of a bin: the lane items whose destination it is (9.1). -/
def inLane (s : State) (b : Nat) : Nat := s.sort.lane.countP (fun i => i.dest == b)

/-! ## Web positions (chapters 6 and 7) -/

def MapEntry.endPos (e : MapEntry) : Word := e.start + BitVec.ofNat 32 e.length

/-- The entry covers position p (R118). -/
def MapEntry.covers (e : MapEntry) (p : Word) : Bool :=
  decide (0 ≤ signedDiff p e.start) && decide (signedDiff p e.endPos < 0)

/-- The end of the last entry, or W when the map is empty (R58). -/
def mapEnd (s : State) : Word :=
  match s.web.map.getLast? with
  | some e => e.endPos
  | none => s.line.w

def entryAt (s : State) (p : Word) : Option MapEntry := s.web.map.find? (fun e => e.covers p)

def entryNumbered (s : State) (n : Word) : Option MapEntry := s.web.map.find? (fun e => e.number == n)

/-- The nominal line period of the setting LTU holds, L = (D + 1) × 4^n (R98). -/
def linePeriod (s : State) : Nat := (s.line.divisor + 1) * 4 ^ s.line.prescale

end Sys2Proof.Machine
end

