-- ==== Sys2Proof/Machine/Setup.lean ====
section
/-! DEFINITION. SET, the setup store: clamping, product flags, the order of a load's reads, and the end of a load
(chapter 2), with the access window test on the store's windows (R67). -/

namespace Sys2Proof.Machine

/-- A value below the range becomes its lowest, one above it its highest (R26). -/
def clampTo (r : Nat × Nat) (v : Nat) : Nat := max r.1 (min r.2 v)

/-- The first time in a load that a group is refused names it (R26). -/
def noteRefused (g : SetupGroup) (x : Setup) : Setup :=
  if x.firstRefused = .none then { x with firstRefused := g } else x

/-- The value a field stores, and whether that is a clamp (R26). -/
def fieldValue (f : SetupField) (raw : Nat) : Nat × Bool :=
  match f.range with
  | some r => (clampTo r raw, clampTo r raw != raw)
  | none => (raw, false)

/-- A clamp counts once, saturating at 65,535, and names its group (R26). -/
def noteClamp (f : SetupField) (clamped : Bool) (x : Setup) : Setup :=
  if clamped then noteRefused f.group { x with clampCount := min (x.clampCount + 1) 65535 } else x

def setParam (p : Param) (v : Nat) (x : Params) : Params :=
  match p with
  | .sweepPeriod => { x with sweepPeriod := v }
  | .notifyTrigger => { x with notifyTrigger := v }
  | .notifyIdle => { x with notifyIdle := v }
  | .remakeLimit => { x with remakeLimit := v }
  | .patience => { x with patience := v }
  | .prescale => { x with prescale := v }
  | .divisor => { x with divisor := v }
  | .offTime => { x with offTime := v }
  | .pMin => { x with pMin := v }
  | .refillMark => { x with refillMark := v }
  | .cutLength => { x with cutLength := v }
  | .markLead => { x with markLead := v }
  | .regWindow => { x with regWindow := v }
  | .strokeTime => { x with strokeTime := v }
  | .threshold => { x with threshold := v }
  | .settle => { x with settle := v }
  | .sorterTimeout => { x with sorterTimeout := v }
  | .changeTimeout => { x with changeTimeout := v }

def getParam (p : Param) (x : Params) : Nat :=
  match p with
  | .sweepPeriod => x.sweepPeriod
  | .notifyTrigger => x.notifyTrigger
  | .notifyIdle => x.notifyIdle
  | .remakeLimit => x.remakeLimit
  | .patience => x.patience
  | .prescale => x.prescale
  | .divisor => x.divisor
  | .offTime => x.offTime
  | .pMin => x.pMin
  | .refillMark => x.refillMark
  | .cutLength => x.cutLength
  | .markLead => x.markLead
  | .regWindow => x.regWindow
  | .strokeTime => x.strokeTime
  | .threshold => x.threshold
  | .settle => x.settle
  | .sorterTimeout => x.sorterTimeout
  | .changeTimeout => x.changeTimeout

def onProduct (p : Nat) (f : Product → Product) (x : Setup) : Setup := { x with products := x.products.modify p f }

def onWindow (w : Nat) (f : Window → Window) (x : Setup) : Setup := { x with windows := x.windows.modify w f }

/-- The low 12 bits of a window's base and length are stored as 0 (R26). -/
def floor4K (v : Nat) : Nat := v / 4096 * 4096

/-- The field takes its value, already clamped. -/
def storeValue (f : SetupField) (v : Nat) (x : Setup) : Setup :=
  match f with
  | .revision => x
  | .param p => { x with params := setParam p v x.params }
  | .windowBase w => onWindow w (fun r => { r with base := BitVec.ofNat 64 (floor4K v) }) x
  | .windowLength w => onWindow w (fun r => { r with length := BitVec.ofNat 32 (floor4K v) }) x
  | .windowEnable w => onWindow w (fun r => { r with enable := v != 0 }) x
  | .discount c => { x with discounts := x.discounts.set c v }
  | .handlingFee => { x with handlingFee := v }
  | .rushSurcharge => { x with rushSurcharge := v }
  | .taxRate => { x with taxRate := v }
  | .fullScale c => { x with fullScale := x.fullScale.set v c }
  | .productDefined p => onProduct p (fun r => { r with isDefined := v != 0 }) x
  | .productWidth p => onProduct p (fun r => { r with width := v }) x
  | .productLength p => onProduct p (fun r => { r with length := v }) x
  | .productBreaks p => onProduct p (fun r => { r with breakCount := v }) x
  | .productPrice p => onProduct p (fun r => { r with basePrice := v }) x
  | .breakMinimum p k => onProduct p (fun r => { r with breaks := r.breaks.modify k (fun b => { b with minimum := v }) }) x
  | .breakPrice p k => onProduct p (fun r => { r with breaks := r.breaks.modify k (fun b => { b with price := v }) }) x
  | .tone i => { x with tones := tableSet 0 x.tones i v }
  | .uniformity i => { x with uniformity := tableSet 1024 x.uniformity i v }

def ascending : List Break → Bool
  | a :: b :: rest => decide (a.minimum < b.minimum) && ascending (b :: rest)
  | _ => true

/-- A structural error of a defined record: width, frame length or breaks (R27). -/
def structuralError (r : Product) : Bool :=
  !widthAccepted r.width || decide (r.length < 890) || decide (9000 < r.length) || !ascending (r.breaks.take r.breakCount)

def getProduct (x : Setup) (p : Nat) : Product := x.products.getD p Product.reset

/-- The usable flag of a product record that has been read to its end (R27). -/
def flagProduct (p : Nat) (x : Setup) : Setup :=
  let r := getProduct x p
  let bad := r.isDefined && structuralError r
  let y := onProduct p (fun r => { r with usable := r.isDefined && !structuralError r }) x
  if bad then noteRefused .products y else y

/-- The product whose last field this is, as its clamped break count stands (R27). -/
def endsProduct (f : SetupField) (x : Setup) : Option Nat :=
  match f with
  | .productPrice p => if (getProduct x p).breakCount = 0 then some p else none
  | .breakPrice p k => if (getProduct x p).breakCount ≤ k + 1 then some p else none
  | _ => none

def afterProduct (p : Nat) : SetupField := if p < 31 then .productDefined (p + 1) else .tone 0

/-- The field read next, in ascending offset order; breaks at and above the clamped count are not read (R25, R27). -/
def nextField (f : SetupField) (x : Setup) : Option SetupField :=
  match f with
  | .revision => some (.param .sweepPeriod)
  | .param p => some (match p.next with
    | some q => .param q
    | none => .windowBase 0)
  | .windowBase w => some (.windowLength w)
  | .windowLength w => some (.windowEnable w)
  | .windowEnable w => some (if w < 3 then .windowBase (w + 1) else .discount 0)
  | .discount c => some (if c < 7 then .discount (c + 1) else .handlingFee)
  | .handlingFee => some .rushSurcharge
  | .rushSurcharge => some .taxRate
  | .taxRate => some (.fullScale .red)
  | .fullScale .red => some (.fullScale .green)
  | .fullScale .green => some (.fullScale .blue)
  | .fullScale .blue => some (.productDefined 0)
  | .productDefined p => some (.productWidth p)
  | .productWidth p => some (.productLength p)
  | .productLength p => some (.productBreaks p)
  | .productBreaks p => some (.productPrice p)
  | .productPrice p => some (if (getProduct x p).breakCount = 0 then afterProduct p else .breakMinimum p 0)
  | .breakMinimum p k => some (.breakPrice p k)
  | .breakPrice p k => some (if (getProduct x p).breakCount ≤ k + 1 then afterProduct p else .breakMinimum p (k + 1))
  | .tone i => some (if i < 3071 then .tone (i + 1) else .uniformity 0)
  | .uniformity i => if i < 9215 then some (.uniformity (i + 1)) else none

/-- A value read for a field other than the revision word goes into the store (R25, R26, R27). -/
def storeField (f : SetupField) (raw : Nat) (x : Setup) : Setup :=
  let v := fieldValue f (raw % 2 ^ (8 * f.size))
  let y := noteClamp f v.2 (storeValue f v.1 x)
  match endsProduct f y with
  | some p => flagProduct p y
  | none => y

/-- The read of this field is out (R25). The manual does not say how many reads of a load are out at once (R28 speaks of reads
in flight); one at a time is the model's choice, log entry 40. -/
def issueSetupRead (f : SetupField) (s : State) : State :=
  emitRead (offSetup + f.offset) f.size { s with setup.cursor := some f }

/-- A load ends with this setup state (R25, R28). -/
def endLoad (st : SetupState) (s : State) : State := { s with setup.state := st, setup.cursor := none }

/-- LOAD_SETUP taken (R25). -/
def startLoad (s : State) : State :=
  issueSetupRead .revision
    { s with setup.state := .loading, setup.clampCount := 0, setup.firstRefused := .none }

/-- A load cut off by a reset or by HALTED leaves the setup INVALID (R24, R28). -/
def cutLoad (x : Setup) : Setup :=
  if x.state = .loading then { x with state := .invalid, cursor := none } else { x with cursor := none }

/-- The completion of the read of field f; the next field's read is issued only now (R25, R28; one read at a time is log entry
40). -/
def loadRead (f : SetupField) (result : Option (BitVec 64)) (s : State) : State :=
  match result with
  | none => recordFault .setupRead 255 (jobAddr s (offSetup + f.offset)) (endLoad .invalid s)
  | some v =>
    if f = .revision ∧ v.toNat % 2 ^ 32 ≠ 1 then
      endLoad .invalid { s with setup.firstRefused := .header }
    else
      let s1 := { s with setup := storeField f v.toNat s.setup }
      match nextField f s1.setup with
      | some g => issueSetupRead g s1
      | none => endLoad .valid s1

/-! ## Access windows (R67) -/

/-- A byte range lies inside the window, on exact unsigned numbers; a range that passes the top of the address space lies
inside none. -/
def insideWindow (addr len : Nat) (w : Window) : Bool :=
  w.enable && decide (w.base.toNat ≤ addr) && decide (addr + len ≤ w.base.toNat + w.length.toNat)
    && decide (addr + len ≤ 2 ^ 64)

/-- The exact start address of line i of an image (R13). -/
def lineAddr (im : ImageRec) (i : Nat) : Nat := im.addr.toNat + i * im.stride.toNat

/-- The window test of line i; a line of width 0 passes without reference to any window (R67). -/
def windowTest (x : Setup) (im : ImageRec) (i : Nat) : Bool :=
  im.width == 0 || x.windows.any (insideWindow (lineAddr im i) (im.width.toNat * 3))

end Sys2Proof.Machine
end

