-- ==== Sys2Proof/Machine/Bins.lean ====
section
/-! DEFINITION. SRT's bin table: reservation, completion report, key events, the reject bin (chapter 9, 9.4 and 9.5). -/

namespace Sys2Proof.Machine

/-- The FREE order bins, lowest number first (R155). -/
def freeBins (s : State) : List Nat :=
  (List.range' 1 15).filter (fun b => (getBin s b).state == .free)

/-- Bins one order needs: one for each hundred copies (R64). -/
def binsNeeded (o : Order) : Nat := (copiesTotal o + Config.binCapacity - 1) / Config.binCapacity

def reserveBin (ticket : Word) (slot : Nat) (s : State) (b : Nat) : State :=
  setBin b { state := .reserved, owner := some (ticket, slot), live := true, good := 0, misroutes := 0, disturbed := false } s

/-- A reservation taken whole, or refused with nothing changed (R155). -/
def reserveBins (k : Nat) (ticket : Word) (slot : Nat) (s : State) : Option (State × List Nat) :=
  let free := freeBins s
  if k ≤ free.length then some ((free.take k).foldl (reserveBin ticket slot) s, free.take k) else none

/-- The bin enters the ATTENTION bin state; the cause is raised unless it was there already (R152, R23). -/
def attendBin (b : Nat) (s : State) : State :=
  if (getBin s b).state = .attention then s
  else raiseAttention (setBin b { getBin s b with state := .attention } s)

/-- The status block offsets of the fields of bin b that change as it goes from r to FREE with nothing in it (9.7). -/
def freedFields (b : Nat) (r : Bin) : List Nat :=
  let base := 0x40 + 16 * b
  (if r.state = .free then [] else [base]) ++ (if r.disturbed then [base + 1] else [])
    ++ (if r.owner.isSome then [base + 2, base + 4] else [])
    ++ (if r.state = .free ∨ r.state = .reserved then [] else [base + 3])
    ++ (if r.misroutes = 0 then [] else [base + 10]) ++ (if r.live then [base + 13] else [])

/-- One bin of a completion report (R156). A bin released to FREE may be reserved again in the same step, so its changes
are marked (R6). -/
def completeBin (cancelled : Bool) (s : State) (b : Nat) : State :=
  let r := getBin s b
  if cancelled && r.good = 0 then markFields (freedFields b r) (setBin b Bin.empty s)
  else
    let s1 := setBin b { r with live := false } s
    if r.state = .attention || 0 < r.misroutes || r.disturbed then attendBin b s1
    else if r.state = .reserved || r.state = .filling then
      raiseAttention (setBin b { r with live := false, state := .ready } s1)
    else s1

/-- PLN's completion report, bins in list order (R156). -/
def completionReport (bins : List Nat) (cancelled : Bool) (s : State) : State := bins.foldl (completeBin cancelled) s

/-- A landing in the reject bin (R157). -/
def rejectLanding (s : State) : State :=
  if s.sort.rejectCount < Config.rejectCapacity then
    let s1 := { s with sort.rejectCount := s.sort.rejectCount + 1 }
    if s1.sort.rejectCount = Config.rejectCapacity then raiseAttention { s1 with sort.rejectFull := true } else s1
  else s

/-- A landing in bin b that is no delivery: a misroute or a stray (R152, R153). -/
def strayLanding (b : Nat) (s : State) : State :=
  if b = 0 then rejectLanding s
  else attendBin b (setBin b { getBin s b with misroutes := min ((getBin s b).misroutes + 1) 65535 } s)

/-- A key event of bin b (R160, R157). -/
def keyEvent (b : Nat) (s : State) : State :=
  if b = 0 then { s with sort.rejectCount := 0, sort.rejectFull := false }
  else
    let r := getBin s b
    match r.state with
    | .free => s
    | .ready => setBin b Bin.empty s
    | .reserved => raiseAttention (setBin b { r with state := .attention, disturbed := true } s)
    | .filling => raiseAttention (setBin b { r with state := .attention, disturbed := true } s)
    | .attention =>
      if r.live then setBin b { r with state := if 0 < r.good then .filling else .reserved } s
      else setBin b Bin.empty s

/-- One key's sample: the key after it, and whether it makes a key event (R158). -/
def sampleKey (pressed : Bool) (k : Key) : Key × Bool :=
  if pressed then
    if k.latched then (k, false)
    else if k.run + 1 = 3 then ({ run := 0, latched := true }, true)
    else ({ k with run := k.run + 1 }, false)
  else ({ run := 0, latched := false }, false)

/-- All sixteen keys sampled together; the numbers of the keys that make an event, lowest first (R158). -/
def scanKeys (pressed : BitVec 16) (keys : List Key) : List Key × List Nat :=
  let results := keys.mapIdx (fun i k => sampleKey (pressed.getLsbD i) k)
  (results.map (·.1), (List.range keys.length).filter (fun i => (results.getD i (Key.reset, false)).2))

/-- A bin after a soft reset (R164). -/
def softResetBin (r : Bin) : Bin :=
  if r.state = .free then { r with live := false } else { r with live := false, state := .attention }

end Sys2Proof.Machine
end

