-- ==== Sys2Proof/Machine/Paper.lean ====
section
/-! DEFINITION. PAP, the paper supply unit: magazine records, LOW, the changeover request and its ends (chapter 2). -/

namespace Sys2Proof.Machine

/-- The order's entries count towards a magazine's demand (R36). -/
def demands (o : Order) : Bool := o.state != .cancelling && !o.detached

/-- The longest frame an order still needs on this width, 0 where it needs none (R36). -/
def orderDemand (width : Nat) (o : Order) : Nat :=
  if demands o then
    o.entries.foldl (fun m e => if e.width = width ∧ 0 < e.t then max m e.length else m) 0
  else 0

/-- A magazine's demand: the longest frame wanted on its width, plus the splice length (R36). -/
def demand (s : State) (m : Magazine) : Nat :=
  s.plan.table.foldl (fun d c =>
    match c with
    | some o => max d (orderDemand m.width o)
    | none => d) 0 + Config.spliceLen

/-- The status block offset of a magazine's LOW field (2.4). -/
def lowField : Mag → Nat
  | .a => 0x16
  | .b => 0x26

/-- LOW of one magazine re-evaluated; a change is written, and one from clear to set raises ATTENTION once (R36, R6). -/
def evalLowOf (m : Mag) (s : State) : State :=
  let r := getMag s m
  let low := r.loaded && decide (r.remaining < demand s r)
  let s1 := markFields (if low = r.low then [] else [lowField m]) (setMag m { r with low := low } s)
  if low && !r.low then raiseAttention s1 else s1

/-- LOW of both magazines re-evaluated (R36). -/
def evalLow (s : State) : State := evalLowOf .b (evalLowOf .a s)

/-- A changeover request is taken now: IDLE, the engine moving, the other magazine loaded (R37). -/
def changeAccepted (s : State) : Bool := s.paper.target.isNone && moving s && (otherMag s).loaded

/-- A changeover request reaches PAP: taken, or merged or declined with nothing changed (R37). -/
def requestChange (s : State) : State :=
  if changeAccepted s then
    { s with paper.target := some (otherOf s.paper.active), paper.timer := some (s.setup.params.changeTimeout * 1000) }
  else s

/-- The changeover becomes IDLE, its timer stopped and CHANGE dropped (R38, R39, R41). -/
def endChange (s : State) : State := { s with paper.target := none, paper.timer := none }

/-- A record set to not loaded (R34). -/
def clearedRecord (r : Magazine) : Magazine := { r with loaded := false, width := 0, remaining := 0, low := false }

/-- The other magazine is usable for a paper-out: loaded with at least 400 web steps (R40). -/
def otherUsable (s : State) : Bool := (otherMag s).loaded && decide (Config.spliceLen ≤ (otherMag s).remaining)

/-- A strobe counts against the active magazine; true where it takes the remaining length from 1 to 0 (R35). -/
def countStrobe (s : State) : State × Bool :=
  let r := activeMag s
  if r.loaded && decide (0 < r.remaining) then
    (evalLow (setMag s.paper.active { r with remaining := r.remaining - 1 } s), decide (r.remaining = 1))
  else (s, false)

end Sys2Proof.Machine
end

