-- ==== Sys2Proof/Machine/Planner.lean ====
section
/-! DEFINITION. PLN's order accounting: order states, copy accounting, cancellation, detachment, completion, admission
(chapter 3, 3.1 to 3.3). The choice at a commit point is in Choice.lean. -/

namespace Sys2Proof.Machine

/-! ## Result fields of the slot (R20) -/

/-- The order state mirror is written unless the order is detached (R20, R18). -/
def writeMirror (o : Order) (s : State) : State :=
  if o.detached then s else pushWrite o.slot offMirror 1 o.state.code s

def summaryCode (e : Entry) : Nat := bit e.unverified + 2 * bit e.misrouted

/-- The five fields of entry result i (1.2.1), in offset order, which is log entry 48. -/
def pushResultFields (slot i g a used jams summary : Nat) (s : State) : State :=
  pushWrite slot (offResult i + 8) 1 summary
    (pushWrite slot (offResult i + 6) 2 jams
      (pushWrite slot (offResult i + 4) 2 used
        (pushWrite slot (offResult i + 2) 2 a
          (pushWrite slot (offResult i) 2 g s))))

/-- Entry result i as the entry stands (R20). -/
def pushResult (slot i : Nat) (e : Entry) (s : State) : State :=
  pushResultFields slot i e.g e.a e.used (min e.jams 65535) (summaryCode e) s

/-- Entry result i is written unless the order is detached (R20, R18). -/
def writeResult (o : Order) (i : Nat) (s : State) : State :=
  match o.entries[i]? with
  | some e => if o.detached then s else pushResult o.slot i e s
  | none => s

/-- The 15 bytes of the bins used field as one little-endian number (1.2.1). -/
def binsValue (bins : List Nat) : Nat := bins.foldr (fun b rest => b + 256 * rest) 0

/-- The bins used count and list, bytes past the count 0 (R20, R64). The manual gives the two writes no order; the count first
is the model's choice, log entry 48. -/
def writeBins (o : Order) (s : State) : State :=
  if o.detached then s
  else pushWrite o.slot offBins 15 (binsValue o.bins) (pushWrite o.slot offBinsCount 1 o.bins.length s)

/-! ## State, completion and freeing (R45, R49) -/

/-- A context is freed: it leaves the table and the queue, and its demand ends (R49). -/
def freeOrder (i : Nat) (s : State) : State :=
  evalLow { putOrder i none s with plan.queue := s.plan.queue.filter (fun j => j != i) }

/-- The order enters a state, and its mirror follows (R20). -/
def enterState (i : Nat) (o : Order) (st : OrderState) (s : State) : State :=
  writeMirror { o with state := st } (putOrder i (some { o with state := st }) s)

/-- The order reaches COMPLETE: reported to the sorter, then left for its return, or freed where it is detached (R49). It keeps
its bin list to its return (R64), also where a bin of it has become FREE and another order reserves it before then, against
L5's one list for each bin: the model's choice, log entry 46. -/
def completeOrder (i : Nat) (o : Order) (s : State) : State :=
  let s1 := completionReport o.bins o.cancelled (enterState i o .complete s)
  if o.detached then freeOrder i s1 else s1

/-- The state that an order's sums of t and f call for (R45, R47). -/
def stateOfCounts (o : Order) : OrderState :=
  match o.state with
  | .active => if 0 < stillToExpose o then .active else if 0 < inFlight o then .draining else .complete
  | .draining => if 0 < stillToExpose o then .active else if 0 < inFlight o then .draining else .complete
  | .cancelling => if inFlight o = 0 then .complete else .cancelling
  | st => st

/-- PLN sets the order's state from its counts after a change to them (R45, R47). -/
def evalOrder (i : Nat) (s : State) : State :=
  match getOrder s i with
  | none => s
  | some o =>
    if stateOfCounts o = o.state then s
    else if stateOfCounts o = .complete then completeOrder i o s
    else enterState i o (stateOfCounts o) s

/-! ## Paper the order waits for (R44) -/

/-- A loaded magazine has the width; a remaining length of 0 counts (R44). -/
def widthLoaded (s : State) (w : Nat) : Bool :=
  (s.paper.magA.loaded && s.paper.magA.width == w) || (s.paper.magB.loaded && s.paper.magB.width == w)

/-- Some entry still to expose needs a width no loaded magazine has (R44). -/
def lacksPaper (s : State) (o : Order) : Bool := o.entries.any (fun e => decide (0 < e.t) && !widthLoaded s e.width)

/-- QUEUED or WAIT_PAPER decided for one order in either state; entry to WAIT_PAPER raises ATTENTION (R44). -/
def evalWaitOf (s : State) (i : Nat) : State :=
  match getOrder s i with
  | none => s
  | some o =>
    match o.state with
    | .queued => if lacksPaper s o then raiseAttention (enterState i o .waitPaper s) else s
    | .waitPaper => if lacksPaper s o then s else enterState i o .queued s
    | _ => s

/-- Every order in either state decided again, at a change of a record's loaded field or width (R44). The manual gives the
orders no order among themselves, nor their mirror writes; context 0 first is the model's choice, log entry 41. -/
def evalWait (s : State) : State := (List.range Config.contexts).foldl evalWaitOf s

/-! ## Settling frames (R50 to R55) -/

/-- How a frame of an entry is settled, given that the order does or does not carry the cancelled mark: the entry after it,
and whether a remake joins the list. -/
inductive Settle where
  /-- bad at exposure end, MISCUT, DELIVERY_LOST, or (true) MISROUTE (R52) -/
  | bad (misroute : Bool)
  /-- good delivery, with the print's UNVERIFIED flag (R53) -/
  | good (unverified : Bool)
  /-- image read access fault (R54) -/
  | fault
  /-- jam spoil (R55) -/
  | jam
  deriving DecidableEq, Repr

/-- A bad frame is remade: the order is not cancelled and the budget is not spent (R52). -/
def budgetLeft (limit : Nat) (cancelled : Bool) (e : Entry) : Bool := !cancelled && decide (e.used < limit * e.copies)

/-- The entry after its frame is settled, and whether its index joins the remake list (R52 to R55). -/
def settleEntry (how : Settle) (limit : Nat) (cancelled : Bool) (e : Entry) : Entry × Bool :=
  match how with
  | .bad mis =>
    let e1 := { e with f := e.f - 1, misrouted := e.misrouted || mis }
    if budgetLeft limit cancelled e then ({ e1 with used := e.used + 1, t := e.t + 1 }, true)
    else ({ e1 with a := e.a + 1 }, false)
  | .good unv => ({ e with f := e.f - 1, g := e.g + 1, unverified := e.unverified || unv }, false)
  | .fault => ({ e with f := e.f - 1, a := e.a + 1 }, false)
  | .jam =>
    if cancelled then ({ e with f := e.f - 1, a := e.a + 1 }, false)
    else ({ e with f := e.f - 1, t := e.t + 1, jams := min (e.jams + 1) 4294967295 }, true)

/-- The remake counters of the status block (R52, R55). -/
def countRemake (how : Settle) (s : State) : State :=
  match how with
  | .bad _ => { s with plan.budgetRemakes := s.plan.budgetRemakes + 1 }
  | .jam => { s with plan.jamRemakes := s.plan.jamRemakes + 1 }
  | _ => s

/-- The report is about a frame not yet settled: its number is in the unsettled set and its entry has a copy in flight
(R50; the second half holds of every such number, log entry 9). -/
def settles (o : Order) (ei : Nat) (num : Word) : Bool :=
  o.unsettled.contains num && (match o.entries[ei]? with
    | some e => decide (0 < e.f)
    | none => false)

/-- The order after its frame num of entry ei is settled (R50 to R55). -/
def settledOrder (how : Settle) (limit : Nat) (ei : Nat) (num : Word) (o : Order) : Order :=
  let e := (o.entries[ei]?).map (settleEntry how limit o.cancelled)
  match e with
  | none => o
  | some (e1, remake) =>
    { o with entries := o.entries.set ei e1
             unsettled := o.unsettled.filter (fun n => n != num)
             remakes := if remake then o.remakes ++ [ei] else o.remakes }

/-- A report settles frame num of entry ei of the order at index i, or changes nothing where it is settled (R50). -/
def settleFrame (how : Settle) (i ei : Nat) (num : Word) (s : State) : State :=
  match getOrder s i with
  | none => s
  | some o =>
    if settles o ei num then
      let o1 := settledOrder how s.setup.params.remakeLimit ei num o
      let s1 := putOrder i (some o1) s
      let s2 := if o1.remakes.length = o.remakes.length then s1 else countRemake how s1
      evalOrder i (evalLow (writeResult o1 ei s2))
    else s

/-! ## Cancellation, detachment and the FAULT mark (R47, R48, R54) -/

/-- The order after a cancellation, before its state is evaluated (R47). -/
def cancelledOrder (o : Order) : Order :=
  { o with cancelled := true, state := .cancelling, heldFrom := none, waitingSince := none, remakes := []
           entries := o.entries.map (fun e => { e with a := e.a + e.t, t := 0 }) }

/-- The entry results whose a a cancellation raised are written (R20, R47). The manual gives them no order; the lowest index
first, behind the mirror, is the model's choice, log entry 48. -/
def writeCancelled (before after : Order) (s : State) : State :=
  (List.range before.entries.length).foldl
    (fun s i => match before.entries[i]? with
      | some e => if 0 < e.t then writeResult after i s else s
      | none => s) s

/-- A cancellation, with completion at once where nothing is in flight (R47). The mirror is written before the entry results
(log entry 48). -/
def cancelOrder (i : Nat) (s : State) : State :=
  match getOrder s i with
  | none => s
  | some o =>
    let o1 := cancelledOrder o
    evalOrder i (evalLow (writeCancelled o o1 (writeMirror o1 (putOrder i (some o1) s))))

/-- The states from which a detachment or an access fault cancels (R48, R54). -/
def cancellable (o : Order) : Bool := o.state != .cancelling && o.state != .complete

/-- Detachment: no further write to the slot, and the order cancelled, or freed at once from COMPLETE (R18, R48). -/
def detachOrder (i : Nat) (s : State) : State :=
  match getOrder s i with
  | none => s
  | some o =>
    if o.detached then s
    else
      let s1 := dropWrites o.slot (putOrder i (some { o with detached := true }) s)
      let s2 := { s1 with intake.detached := s1.intake.detached + 1 }
      if o.state = .complete then freeOrder i s2
      else if cancellable o then cancelOrder i s2
      else evalLow s2

/-- An image read access fault settles the frame, marks the order and cancels it unless it is CANCELLING or COMPLETE;
a report of a frame already settled changes nothing (R54, R50, log entry 9). -/
def faultFrame (i ei : Nat) (num : Word) (s : State) : State :=
  match getOrder s i with
  | none => s
  | some o =>
    if settles o ei num then
      let o1 := { settledOrder .fault s.setup.params.remakeLimit ei num o with faultMark := true }
      let s1 := writeResult o1 ei (putOrder i (some o1) s)
      if cancellable o1 then cancelOrder i s1 else evalOrder i (evalLow s1)
    else s

/-! ## Requests (R17, R46) -/

/-- A HOLD answered DONE (R46). -/
def holdOrder (i : Nat) (o : Order) (s : State) : State := enterState i { o with heldFrom := some o.state } .held s

/-- QUEUED or WAIT_PAPER decided for a released order; one that comes back in WAIT_PAPER raises ATTENTION, also where it
was held from there (R46, R23). -/
def evalReleased (i : Nat) (o : Order) (s : State) : State :=
  if o.heldFrom = some .waitPaper ∧ lacksPaper s o then raiseAttention s else evalWaitOf s i

/-- A RELEASE answered DONE: back to the held-from state, then evaluated at once (R46, R44, R45). -/
def releaseOrder (i : Nat) (o : Order) (s : State) : State :=
  evalOrder i (evalReleased i o (enterState i { o with heldFrom := none } (o.heldFrom.getD .queued) s))

/-! ## Admission (R15, R42, R43) -/

/-- Order j stands before a new order of this class in the queue: a RUSH order before any NORMAL one, and within a class
the earlier take sequence first (R43). -/
def ahead (s : State) (rush : Bool) (seq : Word) (j : Nat) : Bool :=
  match getOrder s j with
  | some o => if o.rush = rush then decide (signedDiff o.takeSeq seq < 0) else o.rush
  | none => true

/-- The queue with a new order at the place its class and sequence number give (R43). -/
def joinQueue (s : State) (i : Nat) (rush : Bool) (seq : Word) (q : List Nat) : List Nat :=
  q.takeWhile (ahead s rush seq) ++ i :: q.dropWhile (ahead s rush seq)

/-- A print entry copied at the take, with the product's width and frame length as they then stand (R42, 3.1). -/
def entryOf (x : Option Product) (r : RawEntry) : Entry :=
  { product := r.product.toNat
    width := match x with
      | some p => p.width
      | none => 0
    length := match x with
      | some p => p.length
      | none => 0
    image := r.image, density := r.density, colourR := r.colourR, colourG := r.colourG, colourB := r.colourB
    pattern := patternOf r.flags, copies := r.copies.toNat, t := r.copies.toNat, f := 0, g := 0, a := 0, used := 0, jams := 0
    unverified := false, misrouted := false }

/-- The order an admission forms (R15, R42). -/
def orderOf (x : Setup) (slot : Nat) (seq : Word) (d : TakeData) : Order :=
  { slot := slot, ticket := d.ticket, rush := rushOf d.classByte, custClass := custClassOf d.custByte, takeSeq := seq
    state := .queued, heldFrom := none, answered := d.reqNumber
    entries := d.entries.map (fun r => entryOf x.products[r.product.toNat]? r)
    remakes := [], bins := [], unsettled := [], cancelled := false, faultMark := false, detached := false
    waitingSince := none, returnDue := false }

end Sys2Proof.Machine
end

