-- ==== Sys2Proof/Machine/Lane.lean ====
section
/-! DEFINITION. SRT's lane: lane entry, gates, landings and deadlines (chapter 9, 9.1 to 9.3). -/

namespace Sys2Proof.Machine

/-- The first bin of the list with room, own good count plus in-lane count below 100 (R148). -/
def roomyBin (s : State) (bins : List Nat) : Option Nat :=
  bins.find? (fun b => decide ((getBin s b).good + inLane s b < Config.binCapacity))

/-- The destination of a print: a bin of its order, the reject bin, or absent for the waste chute (R148, R149). -/
def destination (s : State) (order : Nat) (reject : Bool) : Option Nat :=
  if reject then
    if s.sort.rejectCount + inLane s 0 < Config.rejectCapacity then some 0 else none
  else
    match getOrder s order with
    | some o => roomyBin s o.bins
    | none => none

/-- A GOOD print that does not enter the lane is lost; a REJECT print has been settled already (R147, R149). -/
def divert (order entry : Nat) (number : Word) (reject : Bool) (s : State) : State :=
  if reject then s else settleFrame (.bad false) order entry number s

/-- A print handed over by WTR is offered to the lane (R147). -/
def offerPrint (order entry : Nat) (number : Word) (reject unverified : Bool) (s : State) : State :=
  if s.sort.lane.length < Config.lanePrints then
    match destination s order reject with
    | some d =>
      { s with sort.lane := s.sort.lane ++
          [{ order := order, entry := entry, number := number, reject := reject, unverified := unverified, dest := d
             reached := false, entryTime := s.sort.clock
             deadline := s.sort.clock + BitVec.ofNat 32 (s.setup.params.sorterTimeout * 1000) }] }
    | none => divert order entry number reject s
  else divert order entry number reject s

/-- A gate arrival is taken for the oldest unreached item (R150). -/
def reachNext : List LaneItem → List LaneItem
  | [] => []
  | i :: rest => if i.reached then i :: reachNext rest else { i with reached := true } :: rest

/-- Gate g is open: a reached lane item has it as destination, and the part is live (R150, R188). -/
def gateOpen (s : State) (g : Nat) : Bool := live s && s.sort.lane.any (fun i => i.reached && i.dest == g)

/-- The oldest item has left the lane. -/
def popLane (s : State) : State := { s with sort.lane := s.sort.lane.tail }

/-- A delivery of the item to its destination, the bin record before the report (R151). -/
def deliver (i : LaneItem) (s : State) : State :=
  let s1 :=
    if i.dest = 0 then rejectLanding s
    else
      let r := getBin s i.dest
      setBin i.dest { r with good := r.good + 1, state := if r.state = .reserved then .filling else r.state } s
  if i.reject then s1 else settleFrame (.good i.unverified) i.order i.entry i.number s1

/-- A landing of the item in a bin that is not its destination (R152). -/
def misroute (b : Nat) (i : LaneItem) (s : State) : State :=
  let s1 := strayLanding b { s with sort.misroutes := s.sort.misroutes + 1 }
  if i.reject then s1 else settleFrame (.bad true) i.order i.entry i.number s1

/-- The oldest item is given up as DELIVERY_LOST (R154). -/
def loseOldest (s : State) : State :=
  match s.sort.lane with
  | [] => s
  | i :: _ => divert i.order i.entry i.number i.reject (popLane s)

/-- The oldest item's deadline has passed (R154). -/
def deadlinePassed (s : State) : Bool :=
  match s.sort.lane with
  | [] => false
  | i :: _ => decide (0 ≤ signedDiff s.sort.clock i.deadline)

/-- Items are given up from the head while the oldest one's deadline has passed (R154). -/
def expireLane : Nat → State → State
  | 0, s => s
  | n + 1, s => if deadlinePassed s then expireLane n (loseOldest s) else s

/-- A confirmation from bin b, matched against the oldest print and nothing else (R151, R152, R153). An item that has then
become the oldest with its deadline passed is given up at once (R154). -/
def confirm (b : Nat) (s : State) : State :=
  match s.sort.lane with
  | [] => strayLanding b s
  | i :: rest => expireLane rest.length (if i.dest = b then deliver i (popLane s) else misroute b i (popLane s))

/-- SRT's clock has reached the oldest item's deadline (R154, log entry 10). -/
def reachDeadline (s : State) : State :=
  match s.sort.lane with
  | [] => s
  | i :: _ => if signedDiff s.sort.clock i.deadline < 0 then { s with sort.clock := i.deadline } else s

end Sys2Proof.Machine
end

