-- ==== Sys2Proof/Machine/WebMap.lean ====
section
/-! DEFINITION. WTR, the web map: appending, gap laying, flags, exposure end, the splice, cut reports, spoil and stop
(chapter 7). -/

namespace Sys2Proof.Machine

def Flags.none : Flags :=
  { sag := false, underrun := false, truncated := false, spoiled := false, unverified := false, miscut := false }

/-- The entry carries at least one flag (R126). -/
def anyFlag (x : Flags) : Bool := x.sag || x.underrun || x.truncated || x.spoiled || x.unverified || x.miscut

/-- The suspect count: the entries in the map that carry a flag (R126, log entry 6). -/
def suspectCount (s : State) : Nat := s.web.map.countP (fun e => anyFlag e.flags)

def isGap (e : MapEntry) : Bool := e.piece == .gap

def isFrame (e : MapEntry) : Bool :=
  match e.piece with
  | .frame _ => true
  | _ => false

/-- The map's last entry is a GAP. -/
def endsInGap (s : State) : Bool :=
  match s.web.map.getLast? with
  | some e => isGap e
  | none => false

/-! ## Appending (R113 to R117) -/

/-- A new entry at the end of the map, numbered from the counter (R113). -/
def appendEntry (p : Piece) (start : Word) (len : Nat) (s : State) : State :=
  { s with web.map := s.web.map ++ [{ number := s.web.nextNumber, piece := p, start := start, length := len, flags := Flags.none }]
           web.nextNumber := s.web.nextNumber + 1 }

/-- The last entry's length becomes f of it. -/
def mapLastLength (f : Nat → Nat) : List MapEntry → List MapEntry
  | [] => []
  | [e] => [{ e with length := f e.length }]
  | e :: rest => e :: mapLastLength f rest

/-- The last entry grows by n. -/
def growLast (n : Nat) (s : State) : State := { s with web.map := mapLastLength (fun k => k + n) s.web.map }

/-- n steps of gap at the map end, merged into a trailing GAP or appended as a new one (R115); the 256th entry is always a
GAP, so no append makes a 257th (R116). -/
def layGap (n : Nat) (s : State) : State :=
  if endsInGap s then growLast n s
  else if s.web.map.length < Config.mapEntries then appendEntry .gap (mapEnd s) n s
  else s

/-- A committed GAP of 200 web steps (R58, R115). -/
def commitGap (s : State) : State := layGap Config.minGap s

/-- A strobe before the web is ready lays its position p into gap (R117). -/
def layStrobe (p : Word) (s : State) : State :=
  if s.web.map = [] then appendEntry .gap p 1 s
  else if (entryAt s p).isSome then s
  else if mapEnd s = p then layGap 1 s
  else s

/-! ## Flags (R119, R121) -/

/-- The entry of this number is replaced by f of it, if it is in the map (R113). -/
def onEntry (n : Word) (f : MapEntry → MapEntry) (s : State) : State :=
  { s with web.map := s.web.map.map (fun e => if e.number = n then f e else e) }

def onFrame (f : FrameInfo → FrameInfo) (e : MapEntry) : MapEntry :=
  match e.piece with
  | .frame x => { e with piece := .frame (f x) }
  | _ => e

def flagSag (n : Word) : State → State := onEntry n (fun e => { e with flags.sag := true })
def flagUnderrun (n : Word) : State → State := onEntry n (fun e => { e with flags.underrun := true })
def flagTruncated (n : Word) : State → State := onEntry n (fun e => { e with flags.truncated := true })
def flagUnverified (n : Word) : State → State := onEntry n (fun e => { e with flags.unverified := true })

def rejected (e : MapEntry) : MapEntry := onFrame (fun f => { f with reject := true }) e

/-- A failed fetch: SPOILED set and the marking REJECT, with no report (R121). -/
def spoilEntry (n : Word) : State → State := onEntry n (fun e => rejected { e with flags.spoiled := true })

/-- The clip count of a line added to its frame (R92). -/
def addClips (n : Word) (k : Nat) : State → State := onEntry n (onFrame (fun f => { f with clips := f.clips + k }))

/-! ## Exposure end (R120) -/

def exposureEnd (n : Word) (s : State) : State :=
  match entryNumbered s n with
  | none => s
  | some e =>
    match e.piece with
    | .frame f =>
      let s1 := onEntry n (onFrame (fun f => { f with ended := true })) s
      if f.reject then s1
      else if e.flags.sag || e.flags.underrun || e.flags.truncated then
        settleFrame (.bad false) f.order f.entry n (onEntry n rejected s1)
      else s1
    | _ => s

/-! ## Changeover (R122, R123) -/

/-- Position z of the splice: W, or the end of the last entry that is not a GAP where that lies ahead of W (R122). -/
def splicePos (s : State) : Word :=
  match s.web.map.reverse.find? (fun e => !isGap e) with
  | some e => if 0 < signedDiff e.endPos s.line.w then e.endPos else s.line.w
  | none => s.line.w

/-- Step 2: a trailing GAP that ends ahead of z is shortened to end there, and removed at length 0 (R122). -/
def trimGap (z : Word) (s : State) : State :=
  match s.web.map.getLast? with
  | some e =>
    if isGap e && decide (0 < signedDiff e.endPos z) then
      if 0 < signedDiff z e.start then
        { s with web.map := mapLastLength (fun _ => (signedDiff z e.start).toNat) s.web.map }
      else { s with web.map := s.web.map.dropLast }
    else s
  | none => s

/-- Step 3 of a splice at z: a SPLICE while the map holds at most 254 entries, a GAP of its length at 255, and at 256 the
trailing GAP grown by it (R122; that a GAP already last at 255 entries gets one beside it is log entry 19). -/
def appendSplice (z : Word) (s : State) : State :=
  if s.web.map.length ≤ 254 then appendEntry .splice z Config.spliceLen s
  else if s.web.map.length = 255 then appendEntry .gap z Config.spliceLen s
  else layGap Config.spliceLen s

/-- CHANGE_DONE reported by PAP: gap and splice laid at z, and the splice hold set (R122). -/
def laySplice (s : State) : State :=
  let z := splicePos s
  let s1 := if s.web.map ≠ [] ∧ signedDiff (mapEnd s) z < 0 then layGap (signedDiff z (mapEnd s)).toNat s else s
  let s3 := appendSplice z (trimGap z s1)
  { s3 with web.hold := some (z + BitVec.ofNat 32 Config.spliceLen) }

/-- The strobe that takes W from the splice end to one more clears the hold (R123). It does so in RAMPING too, where no choice
has laid a gap behind the splice, so that the first frame may start there and not 200 steps on: the model's choice, log
entry 47. -/
def clearHold (s : State) : State :=
  match s.web.hold with
  | some e => if s.line.w = e + 1 then { s with web.hold := none } else s
  | none => s

/-! ## Leaving the map (R124, R125) -/

/-- MISCUT of one entry; a GOOD frame becomes REJECT and is reported (R124). -/
def miscutEntry (e : MapEntry) (s : State) : State :=
  let s1 := onEntry e.number (fun e => { e with flags.miscut := true }) s
  match e.piece with
  | .frame f =>
    if f.reject then s1 else settleFrame (.bad false) f.order f.entry e.number (onEntry e.number rejected s1)
  | _ => s1

/-- The oldest entry leaves the map: a print to the lane, or waste to the chute (R125). A flagged entry's leaving changes
the suspect count (R126). -/
def leaveMap (s : State) : State :=
  match s.web.map with
  | [] => s
  | e :: rest =>
    let s1 := markFields (if anyFlag e.flags then [0x178] else []) { s with web.map := rest }
    match e.piece with
    | .frame f => offerPrint f.order f.entry e.number f.reject e.flags.unverified s1
    | _ => { s1 with web.waste := s1.web.waste + BitVec.ofNat 32 e.length }

/-- CUT's report of a cut at boundary b, with its lateness verdict (R124, R133). The manual gives the MISCUT reports of a late
cut no order; the entry leaving before the one behind it is the model's choice, log entry 43. -/
def cutReport (b : Word) (late : Bool) (s : State) : State :=
  match s.web.map with
  | [] => s
  | e :: rest =>
    if e.endPos = b then
      let s1 := if late then
          match rest with
          | [] => miscutEntry e s
          | e2 :: _ => miscutEntry e2 (miscutEntry e s)
        else s
      leaveMap s1
    else s

/-! ## Spoil, web clear and stop (R128, R129) -/

/-- A jam spoil of one entry, for a FRAME still GOOD (R128). -/
def spoilReport (s : State) (e : MapEntry) : State :=
  match e.piece with
  | .frame f => if f.reject then s else settleFrame .jam f.order f.entry e.number s
  | _ => s

/-- The paper behind the head counted as waste: W less the oldest entry's start (R128, R129). -/
def wasteBehind (s : State) : State :=
  match s.web.map with
  | [] => s
  | e :: _ => { s with web.waste := s.web.waste + (s.line.w - e.start) }

/-- The map emptied, the splice hold clear; with flagged entries in it the suspect count changes to 0 (R126). -/
def emptyMap (s : State) : State :=
  markFields (if suspectCount s = 0 then [] else [0x178]) { s with web.map := [], web.hold := none }

/-- The spoil of a pause: jam spoils from the oldest entry, waste, the spoil counted, the map emptied (R128). -/
def spoilMap (s : State) : State :=
  let s1 := { s with web.map := s.web.map.map (fun (e : MapEntry) => { e with flags.spoiled := true }) }
  let s2 := wasteBehind (s1.web.map.foldl spoilReport s1)
  emptyMap { s2 with web.spoils := s2.web.spoils + 1 }

/-- The map holds no FRAME and no SPLICE (R129). -/
def webIsClear (s : State) : Bool := s.web.map.all isGap

/-- The cutter-side position formed (R127). -/
def formCutterPos (s : State) : State :=
  { s with web.cutterPos := s.line.w - BitVec.ofNat 32 s.setup.params.cutLength - BitVec.ofInt 32 s.cut.offset }

end Sys2Proof.Machine
end

