-- ==== Sys2Proof/Machine/Fetch.lean ====
section
/-! DEFINITION. FCH, the fetch unit: frame list, cursor, refill, line reads, serving the head, access faults (chapter 4). -/

namespace Sys2Proof.Machine

/-! ## Frame list and cursor (R68, R69) -/

def findItem (s : State) (n : Word) : Option FrameItem := s.fetch.items.find? (fun x => x.number == n)

def onItem (n : Word) (f : FrameItem → FrameItem) (s : State) : State :=
  { s with fetch.items := s.fetch.items.map (fun x => if x.number = n then f x else x) }

/-- Line 0 of the oldest FETCHING item, or nothing (R69). -/
def firstFetching (s : State) : Option (Word × Nat) :=
  (s.fetch.items.find? (fun x => x.state == .fetching)).map (fun x => (x.number, 0))

/-- Refill becomes active at or below the refill mark and comes to rest at 16 with the outstanding reads (R71). -/
def evalRefill (s : State) : State :=
  if Config.bufferLines ≤ s.fetch.buffer.length + s.fetch.reads.length then { s with fetch.refill := false }
  else if s.fetch.buffer.length ≤ s.setup.params.refillMark then { s with fetch.refill := true }
  else s

/-- The cursor named line i − 1 of frame n and moves to line i; past the last line the item is FETCHED and the cursor
moves to the next FETCHING item (R69). -/
def moveCursor (n : Word) (i : Nat) (s : State) : State :=
  match findItem s n with
  | none => { s with fetch.cursor := firstFetching s }
  | some x =>
    if i < x.image.height.toNat then { s with fetch.cursor := some (n, i) }
    else
      let s1 := onItem n (fun x => { x with state := .fetched }) s
      { s1 with fetch.cursor := firstFetching s1 }

/-! ## Lines of width 0 (R71) -/

/-- Every condition of an issue holds (R71). -/
def mayIssue (s : State) : Bool :=
  s.fetch.refill && moving s && decide (s.fetch.reads.length < Config.lineReads)
    && decide (s.fetch.buffer.length + s.fetch.reads.length < Config.bufferLines)

/-- The line of width 0 that the cursor names, where the conditions of an issue hold (R71). A completed read that is leaving
the list in the same step goes before it, the model's choice, log entry 34. -/
def emptyLine (s : State) : Option (Word × Nat) :=
  if mayIssue s && s.fetch.reads.head?.all (fun r => r.ended.isNone) then
    s.fetch.cursor.filter (fun c => (findItem s c.1).any (fun x => x.image.width == 0))
  else none

/-- A line of width 0 joins the buffer with no pixels and no outstanding place, and the cursor moves on (R71). It does so also
while a read of an earlier frame is out, whose line then joins behind it, though R70 has the buffer in exposure order: the
model's choice, log entry 34. -/
def joinLine (n : Word) (i : Nat) (s : State) : State :=
  moveCursor n (i + 1) { s with fetch.buffer := s.fetch.buffer ++ [{ number := n, index := i, pixels := [] }] }

/-- Lines of width 0 join one after the other, refill evaluated behind each, at most this many (R71). -/
def joinLines : Nat → State → State
  | 0, s => s
  | k + 1, s =>
    match emptyLine s with
    | none => s
    | some (n, i) => joinLines k (evalRefill (joinLine n i s))

/-- FCH evaluates R71, as it does at every change of the fill, of the outstanding list, of the cursor and of the refill mark:
refill active or at rest, and the lines of width 0 that the cursor has reached joined at once. -/
def evalFetch (s : State) : State := joinLines Config.bufferLines (evalRefill s)

/-! ## Hand-over and end of a frame (R68, R69) -/

/-- A hand-over from the planner appends an item, and places a cursor that names nothing on line 0 of it if it is FETCHING (R68,
R69). -/
def handOver (n : Word) (oi : Nat) (o : Order) (e : Entry) (s : State) : State :=
  let item : FrameItem :=
    { number := n, order := oi, slot := o.slot, image := e.image, pattern := e.pattern, density := e.density
      colourR := e.colourR, colourG := e.colourG, colourB := e.colourB, paperElems := e.width * 10, length := e.length
      state := if e.pattern then .fetched else .fetching, served := 0 }
  let s1 := { s with fetch.items := s.fetch.items ++ [item] }
  evalFetch (if s1.fetch.cursor = none ∧ e.pattern = false then { s1 with fetch.cursor := some (n, 0) } else s1)

/-- The head has exposed the frame's last line: its item leaves the list (R68). -/
def dropItem (n : Word) (s : State) : State :=
  let s1 := { s with fetch.items := s.fetch.items.filter (fun x => x.number != n) }
  match s1.fetch.cursor with
  | some (k, _) => if k = n then evalFetch { s1 with fetch.cursor := firstFetching s1 } else s1
  | none => s1

/-! ## Access faults (R77) -/

/-- An access fault on frame n at this address: the item STOPPED, its lines removed, the cursor moved on, the entry
SPOILED, the fault reported to ENG and the frame to PLN (R77, R54). -/
def accessFault (n : Word) (addr : Long) (s : State) : State :=
  match findItem s n with
  | none => s
  | some x =>
    let s1 := onItem n (fun x => { x with state := .stopped }) s
    let s2 := { s1 with fetch.buffer := s1.fetch.buffer.filter (fun l => l.number != n) }
    let s3 := match s2.fetch.cursor with
      | some (k, _) => if k = n then { s2 with fetch.cursor := firstFetching s2 } else s2
      | none => s2
    let s4 := recordFault .imageRead x.slot addr (spoilEntry n s3)
    let s5 := match entryNumbered s4 n with
      | some e => (match e.piece with
        | .frame f => faultFrame f.order f.entry n s4
        | _ => s4)
      | none => s4
    evalFetch s5

/-! ## Issuing reads (R71, R72) -/

/-- The read of the cursor's line, after its window test (R71, R72). A line of width 0 is not read and joins the buffer; the
step that brings the cursor to it has let it join already, so an issue finds one only in a state that no run reaches. -/
def issueLine (n : Word) (i : Nat) (x : FrameItem) (s : State) : State :=
  let addr := busAddr (lineAddr x.image i)
  if x.image.width = 0 then evalFetch (joinLine n i s)
  else if windowTest s.setup x.image i then
    evalFetch (moveCursor n (i + 1)
      (emitAccess (.read addr (x.image.width.toNat * 3))
        { s with fetch.reads := s.fetch.reads ++ [{ number := n, index := i, addr := addr, discard := false, ended := none }] }))
  else accessFault n addr s

/-- FCH issues the cursor's line where the conditions hold (R71). -/
def issueRead (s : State) : State :=
  if mayIssue s then
    match s.fetch.cursor with
    | none => s
    | some (n, i) =>
      match findItem s n with
      | none => s
      | some x => issueLine n i x s
  else s

/-! ## Arrivals (R73) -/

/-- A read is discarded on arrival: marked, its frame STOPPED or gone, or its line already passed (R73). That this holds for a
bus error too, also where only the last two make it a read to discard, is log entry 42. Of a read that has completed behind an
older one it is judged as the read leaves the list, not as it arrives: the model's choice, log entry 49. -/
def discards (s : State) (r : LineRead) : Bool :=
  r.discard || (match findItem s r.number with
    | none => true
    | some x => x.state == .stopped || decide (r.index < x.served))

/-- A completed read that has become the oldest leaves the list. One that would be discarded leaves without fault when it ends
in a bus error: of a line the head has passed, R73's last words on it against R77's, the model's choice, log entry 42. -/
def leaveRead (r : LineRead) (how : ReadEnd) (s : State) : State :=
  if discards s r then evalFetch s
  else
    match how with
    | .data bytes =>
      evalFetch { s with fetch.buffer := s.fetch.buffer ++ [{ number := r.number, index := r.index, pixels := bytes }] }
    | .busError => accessFault r.number r.addr s

/-- Completed reads leave from the head of the outstanding list, in issue order (R73), each judged as things stand when it
leaves (log entry 49). -/
def drainReads : Nat → State → State
  | 0, s => s
  | n + 1, s =>
    match s.fetch.reads with
    | [] => s
    | r :: rest =>
      match r.ended with
      | none => s
      | some how => drainReads n (leaveRead r how { s with fetch.reads := rest })

def endRead (how : ReadEnd) (r : LineRead) : LineRead :=
  if r.ended = none then { r with ended := some how } else r

/-- The read at this place of the outstanding list completes; an arrival that matches none is discarded (R73, R79). -/
def arrive (place : Nat) (how : ReadEnd) (s : State) : State :=
  drainReads s.fetch.reads.length { s with fetch.reads := s.fetch.reads.modify place (endRead how) }

/-! ## Serving the head (R74 to R76) -/

/-- FCH's answer to a strobe that needs a line (4.4). -/
inductive LineAnswer where
  | line (x : FrameItem) (pixels : List Byte)
  | pattern (x : FrameItem)
  | dark
  | underrun
  deriving DecidableEq, Repr

/-- The line lies behind line i of frame n in exposure order (R74). -/
def behind (n : Word) (i : Nat) (l : BufferLine) : Bool :=
  if l.number = n then decide (l.index < i) else decide (signedDiff l.number n < 0)

/-- The strobe has needed line i of frame n: the cursor moves past it (R69, R74). -/
def passLine (n : Word) (i : Nat) (s : State) : State :=
  let s1 := onItem n (fun x => { x with served := max x.served (i + 1) }) s
  match s1.fetch.cursor with
  | some (k, j) => if k = n ∧ j ≤ i then moveCursor n (i + 1) s1 else s1
  | none => s1

/-- The answer to a strobe that needs line i of FRAME entry n, and the fetch unit after it (R74, R75). -/
def serve (n : Word) (i : Nat) (s : State) : LineAnswer × State :=
  match findItem s n with
  | none => (.dark, s)
  | some x =>
    if x.state = .stopped then (.dark, evalFetch (passLine n i s))
    else if x.pattern then (.pattern x, evalFetch (passLine n i s))
    else
      let s1 := { s with fetch.buffer := s.fetch.buffer.dropWhile (behind n i) }
      match s1.fetch.buffer with
      | l :: rest =>
        if l.number = n ∧ l.index = i then
          (.line x l.pixels, evalFetch (passLine n i { s1 with fetch.buffer := rest }))
        else (.underrun, evalFetch (passLine n i { s1 with fetch.underruns := s1.fetch.underruns + 1 }))
      | [] => (.underrun, evalFetch (passLine n i { s1 with fetch.underruns := s1.fetch.underruns + 1 }))

/-! ## Pause and halt (R78, R79) -/

/-- The buffer and frame list emptied and the cursor set to nothing (R78, R79). -/
def emptyFetch (s : State) : State := { s with fetch.buffer := [], fetch.items := [], fetch.cursor := none }

/-- A pause: emptied, every outstanding read marked for discard, refill at rest (R78). -/
def pauseFetch (s : State) : State :=
  let s1 := emptyFetch s
  { s1 with fetch.reads := s1.fetch.reads.map (fun r => { r with discard := true }), fetch.refill := false }

end Sys2Proof.Machine
end

