-- ==== Sys2Proof/Machine/Engine.lean ====
section
/-! DEFINITION. ENG, engine control: stoppages and the pause, entering STOPPED and HALTED, with what each block does at the
change (chapter 11 and the rules 11.3 gathers), and sweep starts and timer loads (R8, R9). -/

namespace Sys2Proof.Machine

/-! ## The sweep timer (R8, R9) -/

/-- The timer is loaded with the sweep period the store holds now (R8). -/
def loadTimer (s : State) : State := { s with intake.timer := some s.setup.params.sweepPeriod }

/-- The timer as cell poll timer on entering STOPPED or PAUSED: loaded with AREA set, stopped otherwise (R8). -/
def pollTimer (s : State) : State := if s.link.areaSet then loadTimer s else { s with intake.timer := none }

/-- A sweep that begins: step 1, with nothing read yet (R9). -/
def Sweep.begun : Sweep :=
  { step := .one, scans := [], requests := [], candidates := [], taking := none, taken := none, barred := false }

/-- A sweep starts with the reads of the 64 tokens, or merges into the one running (R8, R9). -/
def startSweep (s : State) : State :=
  if s.intake.sweep.isSome then s
  else (List.range Config.slots).foldl (fun s i => emitRead (slotOffset i offToken) 4 s)
    { s with intake.sweep := some Sweep.begun }

/-! ## RUN drops (R98, R106, R108) -/

/-- LTU drops RUN: the head dark at once, the web state IDLE, the supervision timer stopped, the paper-break count 0. -/
def dropRun (s : State) : State :=
  { s with line.web := .idle, line.head := [], line.lineFrame := none, line.supervision := none, line.breakCount := 0 }

/-- The load watch ends (R112). -/
def endWatch (s : State) : State := { s with supply.watching := false, supply.settle := 0, supply.strokeEnded := false }

/-! ## Stoppages (R182, R183) -/

/-- The engine leaves RUNNING: the running sweep begins no further take, wherever it stands, and its remaining candidates are
left POSTED for a later sweep (R10, R181, R183). It stays so where the engine is RUNNING again before the sweep's step 4: the
model's choice, log entry 38. -/
def dropCandidates (s : State) : State :=
  { s with intake.sweep := s.intake.sweep.map (fun w => { w with candidates := [], barred := true }) }

/-- Every block takes the entry into PAUSED (11.3). -/
def enterPaused (s : State) : State :=
  let s1 := spoilMap (dropCandidates (setEngine .paused s))
  let s2 := pauseFetch (endChange (endWatch (dropRun s1)))
  pollTimer { s2 with cut.cursor := none, plan.switchFlag := false }

/-- W as a fault address (11.4). -/
def wAddress (s : State) : Long := s.line.w.setWidth 64

/-- A stoppage report: it pauses a moving engine, is only recorded in STOPPED and PAUSED, and is ignored in HALTED (R182). -/
def stoppage (kind : FaultKind) (s : State) : State :=
  match s.eng.state with
  | .running => enterPaused (recordFault kind 255 (wAddress s) (raiseAttention s))
  | .stopping => enterPaused (recordFault kind 255 (wAddress s) (raiseAttention s))
  | .stopped => recordFault kind 255 (wAddress s) s
  | .paused => recordFault kind 255 (wAddress s) s
  | .halted => s

/-! ## Entering STOPPED (R181, R184) -/

/-- Every block takes the entry into STOPPED: RUN dropped, the gap behind the head counted and the map emptied, a
changeover ended, the load watch ended, the mark cursor to nothing, the timer as cell poll timer. -/
def enterStopped (s : State) : State :=
  let s1 := emptyMap (wasteBehind (setEngine .stopped s))
  pollTimer (endChange (endWatch (dropRun { s1 with cut.cursor := none, plan.switchFlag := false })))

/-- WTR's check while the engine is STOPPING, on entering STOPPING and at each entry's leaving: with no FRAME and no SPLICE
in the map the web clear report follows at once, and the engine is STOPPED (R129, R181, log entry 29). -/
def clearReport (s : State) : State := if s.eng.state = .stopping ∧ webIsClear s then enterStopped s else s

/-! ## HALTED (R187, R188) -/

/-- Every block takes the entry into HALTED: the FAULT cause with no record, outputs safe, accesses abandoned. -/
def enterHalted (s : State) : State :=
  let s1 := emptyFetch (endChange (endWatch (dropRun s)))
  { s1 with eng.state := .halted, link.causes.fault := true, link.waiting := [], link.dirty := []
            intake.timer := none, intake.sweep := none, intake.cellRead := false, intake.cellOwed := false
            setup := cutLoad s1.setup, plan.switchFlag := false, pulse.held := 0, line.punch := false
            cut.solenoid := false, cut.timer := none }

end Sys2Proof.Machine
end

