-- ==== Sys2Proof/Machine/Flags.lean ====
section
/-! DEFINITION. What the host and the operator see: the STATUS word and the interrupt line (chapter 1), the status block
(1.2.2, 2.4, 9.7), and the lines and lamps derived from the state (chapters 2, 6, 9). -/

namespace Sys2Proof.Machine

/-! ## STATUS (1.1, R3) -/

def statusWord (s : State) : Word :=
  BitVec.ofNat 32
    (s.eng.state.code + 8 * s.eng.resetKind.code + 32 * bit (s.setup.state == .valid)
      + 256 * bit s.link.causes.completed + 512 * bit s.link.causes.attention
      + 1024 * bit s.link.causes.fault + 2048 * bit s.link.causes.refused + 65536 * s.link.unreported)

/-- The interrupt line is high while any cause is set; held low in reset (R3, R191). -/
def interruptLine (s : State) : Bool :=
  s.eng.hold == .released
    && (s.link.causes.completed || s.link.causes.attention || s.link.causes.fault || s.link.causes.refused)

/-- A read of AREA (R1); 0 while the reset line is held (R189). -/
def areaRead (s : State) : Long := if s.eng.hold = .released then s.link.area else 0

/-- A read of CONTROL returns 0 (1.1). -/
def controlRead : Word := 0

/-! ## Lines and lamps -/

/-- The CHANGE line (R37). -/
def changeLine (s : State) : Bool := s.paper.target.isSome

/-- The comparator's threshold in tenths of a volt: 21.0 V plus 0.2 V for each level (R109). -/
def threshold (s : State) : Nat := 210 + 2 * s.setup.params.threshold

/-- Lamp patterns, coded as in the bin record (9.7). -/
inductive Lamp where
  | off
  | steady
  | blink1
  | blink4
  deriving DecidableEq, Repr

def Lamp.code : Lamp → Nat
  | .off => 0
  | .steady => 1
  | .blink1 => 2
  | .blink4 => 3

/-- The lamp pattern of a bin, bin 0 the reject bin (R161). -/
def lampOf (s : State) (b : Nat) : Lamp :=
  if b = 0 then
    if s.sort.rejectFull then .blink4 else if 0 < s.sort.rejectCount then .steady else .off
  else
    match (getBin s b).state with
    | .free => .off
    | .reserved => .off
    | .filling => .steady
    | .ready => .blink1
    | .attention => .blink4

/-- The lamp of a bin is lit now; every lamp is off in HALTED and while reset is held (R161, R188). -/
def lampLit (s : State) (b : Nat) : Bool :=
  live s && (match lampOf s b with
    | .off => false
    | .steady => true
    | .blink1 => s.sort.blink1
    | .blink4 => s.sort.blink4)

/-! ## The status block (R6) -/

/-- A field of the status block: offset, size, value. -/
structure StatusField where
  offset : Nat
  size : Nat
  value : Nat
  deriving DecidableEq, Repr

/-- A signed value of this many bytes as an unsigned number. -/
def signedBytes (size : Nat) (x : Int) : Nat := (x % (2 ^ (8 * size) : Nat)).toNat

def magazineFields (base : Nat) (r : Magazine) (active : Bool) : List StatusField :=
  [⟨base, 1, bit r.loaded⟩, ⟨base + 1, 1, bit r.present⟩, ⟨base + 2, 2, r.width⟩, ⟨base + 4, 1, r.surface.code⟩,
   ⟨base + 5, 1, r.toneSet⟩, ⟨base + 6, 1, bit r.low⟩, ⟨base + 7, 1, bit active⟩, ⟨base + 8, 4, r.remaining⟩,
   ⟨base + 12, 4, r.lot.toNat⟩]

/-- The record of order bin b (9.7). -/
def binFields (s : State) (b : Nat) : List StatusField :=
  let r := getBin s b
  let base := 0x40 + 16 * b
  [⟨base, 1, r.state.code⟩, ⟨base + 1, 1, bit r.disturbed⟩,
   ⟨base + 2, 1, match r.owner with
    | some o => o.2
    | none => 255⟩,
   ⟨base + 3, 1, (lampOf s b).code⟩,
   ⟨base + 4, 4, match r.owner with
    | some o => o.1.toNat
    | none => 0⟩,
   ⟨base + 8, 2, r.good⟩, ⟨base + 10, 2, r.misroutes⟩, ⟨base + 12, 1, inLane s b⟩, ⟨base + 13, 1, bit r.live⟩]

/-- The record of the reject bin (9.7). -/
def rejectFields (s : State) : List StatusField :=
  [⟨0x40, 1, if s.sort.rejectFull then 5 else 0⟩, ⟨0x41, 1, 0⟩, ⟨0x42, 1, 255⟩, ⟨0x43, 1, (lampOf s 0).code⟩,
   ⟨0x44, 4, 0⟩, ⟨0x48, 2, s.sort.rejectCount⟩, ⟨0x4A, 2, 0⟩, ⟨0x4C, 1, inLane s 0⟩, ⟨0x4D, 1, 0⟩]

/-- The ten counters, from 0x150 (1.2.2). -/
def counterFields (s : State) : List StatusField :=
  [⟨0x150, 4, s.plan.framesExposed.toNat⟩, ⟨0x154, 4, s.web.waste.toNat⟩, ⟨0x158, 4, s.plan.budgetRemakes.toNat⟩,
   ⟨0x15C, 4, s.plan.jamRemakes.toNat⟩, ⟨0x160, 4, s.sort.misroutes.toNat⟩, ⟨0x164, 4, s.supply.sags.toNat⟩,
   ⟨0x168, 4, s.fetch.underruns.toNat⟩, ⟨0x16C, 4, s.pulse.clipped.toNat⟩, ⟨0x170, 4, s.intake.detached.toNat⟩,
   ⟨0x174, 4, s.web.spoils.toNat⟩]

/-- Every status block field with its value now, in offset order (1.2.2). -/
def statusFields (s : State) : List StatusField :=
  [⟨0x000, 1, s.eng.state.code⟩, ⟨0x004, 4, s.line.w.toNat⟩, ⟨0x008, 4, s.web.cutterPos.toNat⟩]
    ++ magazineFields 0x10 s.paper.magA (s.paper.active == .a)
    ++ magazineFields 0x20 s.paper.magB (s.paper.active == .b)
    ++ rejectFields s
    ++ (List.range' 1 15).flatMap (binFields s)
    ++ [⟨0x140, 1, s.setup.state.code⟩, ⟨0x142, 2, s.setup.clampCount⟩, ⟨0x144, 1, s.setup.firstRefused.code⟩]
    ++ counterFields s
    ++ [⟨0x178, 2, suspectCount s⟩, ⟨0x180, 2, signedBytes 2 s.cut.offset⟩, ⟨0x182, 1, bit s.cut.markLost⟩,
        ⟨0x190, 1, s.eng.record.kind.code⟩, ⟨0x191, 1, s.eng.record.slot⟩, ⟨0x198, 8, s.eng.record.addr.toNat⟩,
        ⟨0x1A0, 4, s.eng.overflow⟩]

def writeField (s : State) (x : StatusField) : State := emitWrite x.offset x.size x.value s

/-- The whole block written once (R6). -/
def writeBlock (s : State) : State := (statusFields s).foldl writeField s

/-- The fields that differ from those before, or that a change within the step has marked, with their values now. -/
def changedFields (marked : List Nat) (before after : List StatusField) : List StatusField :=
  ((after.zip before).filter (fun x => x.1.value != x.2.value || marked.contains x.1.offset)).map (·.1)

/-- Write-through: each field the step changed is written with its value at the step's end, also where that is the value it
began with, while AREA is set and the engine is not HALTED (R6, R4, R188; once for each step, log entry 27). -/
def publish (before s : State) : State :=
  let s1 : State := { s with link.dirty := [] }
  if s.link.areaSet && live s then
    (changedFields s.link.dirty (statusFields before) (statusFields s)).foldl writeField s1
  else s1

end Sys2Proof.Machine
end

