-- ==== Sys2Proof/Machine/Pricing.lean ====
section
/-! DEFINITION. PRU, the pricing unit: quantities, unit prices and the eight stages (chapter 10). -/

namespace Sys2Proof.Machine

/-- A price record (1.2.1, R165). -/
structure Price where
  subtotal : Nat
  discount : Nat
  rush : Nat
  fee : Nat
  net : Nat
  tax : Nat
  total : Nat
  short : Bool
  cancelled : Bool
  saturated : Bool
  deriving DecidableEq, Repr

/-- A stage as stored, and whether it saturates (R173). -/
def held (x : Nat) : Nat × Bool := (min x Config.moneyLimit, decide (Config.moneyLimit < x))

/-- q_p: the chosen count added over the entries of product p (R166). -/
def quantity (count : Entry → Nat) (es : List Entry) (p : Nat) : Nat := sumBy count (es.filter (fun e => e.product == p))

/-- The price of the highest-indexed break, among those listed, whose minimum is at most q; the price given where none
qualifies (R167). -/
def breakPriceOf (q : Nat) : List Break → Nat → Nat
  | [], price => price
  | b :: rest, price => breakPriceOf q rest (if b.minimum ≤ q then b.price else price)

/-- The unit price of a product at quantity q (R167). A break that a load cut off before reading it keeps the power-on
minimum 0 (R28, R30), which R167 excludes; it qualifies like any other: the model's choice, log entry 35. -/
def unitPrice (r : Product) (q : Nat) : Nat := breakPriceOf q (r.breaks.take r.breakCount) r.basePrice

/-- The line amount a_p as stored (R168). -/
def lineAmount (x : Setup) (count : Entry → Nat) (es : List Entry) (p : Nat) : Nat × Bool :=
  held (quantity count es p * unitPrice (getProduct x p) (quantity count es p))

/-- The eight stages, from the chosen count of every entry (R165 to R173). -/
def priceOf (x : Setup) (rush : Bool) (custClass : Nat) (count : Entry → Nat) (es : List Entry) : Price :=
  let lines := (List.range 32).map (lineAmount x count es)
  let s := held ((lines.map (·.1)).sum)
  let d := roundBp (s.1 * x.discounts.getD custClass 0)
  let r := if rush then roundBp ((s.1 - d) * x.rushSurcharge) else 0
  let f := if 0 < ((List.range 32).map (quantity count es)).sum then x.handlingFee else 0
  let n := held (s.1 - d + r + f)
  let t := roundBp (n.1 * x.taxRate)
  let total := held (n.1 + t)
  { subtotal := s.1, discount := d, rush := r, fee := f, net := n.1, tax := t, total := total.1, short := false
    cancelled := false, saturated := lines.any (·.2) || s.2 || n.2 || total.2 }

/-- The estimate, from the ordered counts (R175, R174). -/
def estimate (x : Setup) (o : Order) : Price := priceOf x o.rush o.custClass Entry.copies o.entries

/-- The final price, from the delivered counts, with its flags (R176, R174). -/
def finalPrice (x : Setup) (o : Order) : Price :=
  { priceOf x o.rush o.custClass Entry.g o.entries with
    short := o.entries.any (fun e => decide (0 < e.a)), cancelled := o.cancelled }

/-- The flags byte (R174). -/
def priceFlags (p : Price) : Nat := bit p.short + 2 * bit p.cancelled + 4 * bit p.saturated

/-- A price record's eight fields, in offset order (R177). -/
def pushPrice (slot base : Nat) (p : Price) (s : State) : State :=
  pushWrite slot (base + 0x1C) 1 (priceFlags p)
    (pushWrite slot (base + 0x18) 4 p.total
      (pushWrite slot (base + 0x14) 4 p.tax
        (pushWrite slot (base + 0x10) 4 p.net
          (pushWrite slot (base + 0x0C) 4 p.fee
            (pushWrite slot (base + 0x08) 4 p.rush
              (pushWrite slot (base + 0x04) 4 p.discount
                (pushWrite slot base 4 p.subtotal s)))))))

/-- The outcome of a return (R21). -/
def outcomeOf (o : Order) : SlotOutcome :=
  if o.faultMark then .fault
  else if o.cancelled then .cancelled
  else if o.entries.any (fun e => decide (0 < e.a)) then .short
  else .complete

end Sys2Proof.Machine
end

