-- ==== Sys2Proof/Machine/Intake.lean ====
section
/-! DEFINITION. INT, the intake unit: slot writes as they are issued, takes, validation, requests, sweep steps, slot
returns and write faults (chapter 1). -/

namespace Sys2Proof.Machine

/-! ## Issuing slot writes (R4, R22) -/

/-- A slot return counts when its RETURNED write is issued (R22). -/
def countReturn (s : State) : State :=
  let s1 := { s with link.unreported := min (s.link.unreported + 1) 64
                     link.idleTimer := some s.setup.params.notifyIdle }
  if s1.setup.params.notifyTrigger ≤ s1.link.unreported then raiseCompleted s1 else s1

/-- The context of a COMPLETE order from this slot is freed when its RETURNED write is issued (R21). -/
def freeReturned (slot : Nat) (s : State) : State :=
  match orderOfSlot s slot with
  | none => s
  | some i =>
    match getOrder s i with
    | some o => if o.state = .complete then freeOrder i s else s
    | none => s

/-- One slot write is issued; a RETURNED token ends the hold and counts (R21, R22). -/
def issueWrite (w : SlotWrite) (s : State) : State :=
  let s1 := emitWrite (slotOffset w.slot w.offset) w.size w.value s
  if w.offset = offToken ∧ w.value = tokenReturned.toNat then countReturn (freeReturned w.slot s1) else s1

/-- The first `room` of these writes are issued and the rest wait. -/
def issueList : List SlotWrite → Nat → State → State
  | [], _, s => { s with link.waiting := [] }
  | w :: rest, 0, s => { s with link.waiting := w :: rest }
  | w :: rest, n + 1, s => issueList rest n (issueWrite w s)

/-- The slot's writes wait for a setup load to end: its order is COMPLETE and its return, whose last results and mirror they
are, has no price yet (R176, R21). An answer that step 2 has given such an order waits with them, the DONE of a CANCEL that
completes it at once too, and the sweep goes on without it, though R9 and R16 have it written in that step: the model's
choice, log entry 45. -/
def awaitsLoad (s : State) (slot : Nat) : Bool :=
  !returnWaiting s slot && (match (orderOfSlot s slot).bind (getOrder s) with
    | some o => o.state == .complete && !o.detached
    | none => false)

/-- The link issues waiting slot writes in order, all of them or the first `room` (log entry 3). While a setup load runs,
the writes of a return that waits for its end stay behind (R176). -/
def issueWaiting (room : Option Nat) (s : State) : State :=
  if s.setup.state = .loading then
    let due := s.link.waiting.filter (fun w => !awaitsLoad s w.slot)
    let t := issueList due (room.getD due.length) s
    { t with link.waiting := t.link.waiting ++ s.link.waiting.filter (fun w => awaitsLoad s w.slot) }
  else issueList s.link.waiting (room.getD s.link.waiting.length) s

/-! ## Takes (R11 to R15) -/

/-- Check 1 fails (R13). -/
def badCount (d : TakeData) : Bool :=
  d.count == 0 || decide (Config.slots < d.count.toNat)
    || d.entries.any (fun e => e.copies == 0 || decide (99 < e.copies.toNat))

/-- Check 2 fails (R13). -/
def tooLarge (d : TakeData) : Bool := decide (Config.maxCopies < (d.entries.map (fun e => e.copies.toNat)).sum)

/-- Check 3 fails (R13). -/
def badProduct (x : Setup) (d : TakeData) : Bool :=
  d.entries.any (fun e => decide (31 < e.product.toNat) ||
    !((getProduct x e.product.toNat).isDefined && (getProduct x e.product.toNat).usable))

/-- Check 4 fails for one entry without PATTERN (R13). -/
def badImageEntry (x : Setup) (e : RawEntry) : Bool :=
  let p := getProduct x e.product.toNat
  e.image.height.toNat != p.length
    || decide (p.width * 10 < e.image.left.toNat + e.image.width.toNat)
    || decide (e.image.stride.toNat < e.image.width.toNat * 3)
    || !((List.range e.image.height.toNat).all (windowTest x e.image))

def badImage (x : Setup) (d : TakeData) : Bool := d.entries.any (fun e => !patternOf e.flags && badImageEntry x e)

/-- The first check that fails gives the refuse code (R13). -/
def validate (x : Setup) (d : TakeData) : Option RefuseCode :=
  if badCount d then some .badCount
  else if tooLarge d then some .tooLarge
  else if badProduct x d then some .badProduct
  else if badImage x d then some .badImage
  else none

/-- A refusal's three writes (R14). -/
def refuse (slot : Nat) (code : RefuseCode) (s : State) : State :=
  pushWrite slot offToken 4 tokenReturned.toNat
    (pushWrite slot offRefuse 1 code.code (pushWrite slot offOutcome 1 SlotOutcome.refused.code s))

/-- The admission writes before the estimate, in order; every entry result of the slot is written 0 (R15, log entry 17). The
outcome before its code, and the results lowest first, are the model's choice (log entry 48). -/
def admissionWrites (o : Order) (s : State) : State :=
  let s1 := pushWrite o.slot offAnswer 1 Answer.none.code (pushWrite o.slot offAnswered 1 o.answered.toNat s)
  let s2 := pushWrite o.slot offRefuse 1 0 (pushWrite o.slot offOutcome 1 SlotOutcome.pending.code s1)
  let s3 := pushWrite o.slot offBinsCount 1 0 (pushWrite o.slot offMirror 1 OrderState.queued.code s2)
  (List.range Config.slots).foldl (fun s i => pushResultFields o.slot i 0 0 0 0 0 s) s3

/-- The order joins the table and the queue (R15, R42, R43). -/
def enterTable (i : Nat) (o : Order) (s : State) : State :=
  { putOrder i (some o) s with plan.queue := joinQueue s i o.rush o.takeSeq s.plan.queue
                               intake.takeSeq := s.intake.takeSeq + 1 }

/-- An order is admitted into context i (R15, R44, R175). A take that ends while a setup load runs is admitted, and its
estimate formed, from the store as it then stands: the model's choice, log entry 33. -/
def admitOrder (i slot : Nat) (d : TakeData) (s : State) : State :=
  let o := orderOf s.setup slot s.intake.takeSeq d
  let s1 := pushPrice slot offEstimate (estimate s.setup o) (admissionWrites o (enterTable i o s))
  evalWaitOf (evalLow s1) i

/-- The next candidate's take begins, while the engine is RUNNING and a context is free; otherwise the rest are left
POSTED (R10, R11, R12). -/
def nextTake (s : State) : State :=
  match s.intake.sweep with
  | none => s
  | some w =>
    match w.candidates with
    | [] => s
    | c :: rest =>
      if s.eng.state = .running ∧ (freeContext s).isSome then
        emitReads c takeHeaderFields
          { s with intake.sweep := some { w with candidates := rest, taking := some c } }
      else { s with intake.sweep := some { w with candidates := [] } }

/-- The take in progress is no longer so. -/
def clearTake (s : State) : State :=
  match s.intake.sweep with
  | none => s
  | some w => { s with intake.sweep := some { w with taking := none, taken := none } }

/-- After the TAKEN write the take is validated, then refused or admitted, and the next one begins (R12 to R15). A take begun
in RUNNING runs to its end also in STOPPED (R10); where a setup load runs by then, it is validated against the store as it
stands, which R29 and R175 exclude without saying how: the model's choice, log entry 33. The header reads of the next take go
out before the writes of this verdict, which wait their turn: the model's choice, log entry 51. -/
def finishTake (slot : Nat) (d : TakeData) (s : State) : State :=
  let s1 := clearTake s
  let s2 := match validate s.setup d with
    | some code => refuse slot code s1
    | none => (match freeContext s1 with
      | some i => admitOrder i slot d s1
      | none => s1)
  nextTake s2

/-- A take whose TAKEN write went out earlier goes on, unless the link lets nothing further out in this step. -/
def resumeTake (room : Option Nat) (s : State) : State :=
  match s.intake.sweep with
  | none => s
  | some w =>
    match w.taken with
    | some (slot, d) => if room = some 0 then s else finishTake slot d s
    | none => s

/-- The TAKEN write is issued, and from then the part holds the slot (R12). -/
def markTaken (slot : Nat) (d : TakeData) (w : Sweep) (s : State) : State :=
  emitWrite (slotOffset slot offToken) 4 tokenTaken.toNat
    { s with intake.sweep := some { w with taking := none, taken := some (slot, d) } }

/-- The print entry reads of a take that are put out: all those below the entry count, read as 64 where it is above, or
those up to the read that failed (R12, log entry 5). -/
def takeEntryReads (result : TakeResult) : List (Nat × Nat) :=
  match result with
  | .data d => entryReads (min d.count.toNat Config.slots)
  | .busError off => (entryReads Config.slots).filter (fun x => decide (x.1 ≤ off))

/-- The reads of the take in progress complete; a read fault skips the take (R12, R186; in the middle of a setup load, log
entry 33). -/
def takeReads (result : TakeResult) (s : State) : State :=
  match s.intake.sweep with
  | none => s
  | some w =>
    match w.taking with
    | none => s
    | some slot =>
      let s1 := emitReads slot (takeEntryReads result) s
      match result with
      | .data d => markTaken slot d w s1
      | .busError off =>
        nextTake (clearTake (recordFault .slotRead slot (jobAddr s (slotOffset slot off)) s1))

/-! ## Requests (R16, R17) -/

/-- The answer written: the answered number, then the code (R16). -/
def writeAnswer (slot : Nat) (number : Byte) (a : Answer) (s : State) : State :=
  pushWrite slot offAnswer 1 a.code (pushWrite slot offAnswered 1 number.toNat s)

/-- The requests that step 2 reaches: what HOLD, RELEASE and CANCEL ask, or any other code. -/
inductive Request where
  | hold
  | release
  | cancel
  | other
  deriving DecidableEq, Repr

def requestOf (code : Byte) : Request :=
  if code = 1 then .hold else if code = 2 then .release else if code = 3 then .cancel else .other

/-- The table of R17, and NOT_APPLICABLE for any other code (R16). -/
def answerOf (r : Request) (st : OrderState) : Answer :=
  match r with
  | .other => .notApplicable
  | .hold =>
    (match st with
      | .queued | .waitPaper | .active => .done
      | .held | .cancelling => .notApplicable
      | .draining | .complete => .tooLate)
  | .release =>
    (match st with
      | .held => .done
      | .queued | .waitPaper | .active | .cancelling => .notApplicable
      | .draining | .complete => .tooLate)
  | .cancel =>
    (match st with
      | .queued | .waitPaper | .active | .held => .done
      | .cancelling => .notApplicable
      | .draining | .complete => .tooLate)

/-- What the planner does with a request answered DONE (R17, R46, R47). -/
def handRequest (r : Request) (i : Nat) (o : Order) (s : State) : State :=
  match r with
  | .hold => holdOrder i o s
  | .release => releaseOrder i o s
  | .cancel => cancelOrder i s
  | .other => s

/-- The slot's request is no longer among those step 2 has to answer. -/
def dropRequest (slot : Nat) (s : State) : State :=
  match s.intake.sweep with
  | none => s
  | some w => { s with intake.sweep := some { w with requests := w.requests.filter (fun q => q.slot != slot) } }

/-- The running sweep is in step 2 and has read this request and not answered it yet (R9, R16). -/
def requestRead (s : State) (slot : Nat) (code number : Byte) : Bool :=
  match s.intake.sweep with
  | none => false
  | some w => w.step == .two && w.requests.contains { slot := slot, code := code, number := number }

/-- A slot's waiting answer write. -/
def isAnswer (slot : Nat) (w : SlotWrite) : Bool := w.slot == slot && (w.offset == offAnswered || w.offset == offAnswer)

/-- A slot's waiting answer writes go first: a return issues the answer it owes before any result write (R21). -/
def hoistAnswer (slot : Nat) (s : State) : State :=
  { s with link.waiting := s.link.waiting.filter (isAnswer slot) ++ s.link.waiting.filter (fun w => !isAnswer slot w) }

/-- A new request of kind r that step 1 read, in a slot held for a non-detached order, is answered once: hand-over first, the
answer write after it (R16, R17). A number equal to the last answered one is no new request. Where the slot's return has
begun and waits for a load, the answer is the one it owes, and goes first (R17, R21, R176). -/
def answerRequest (r : Request) (slot : Nat) (code number : Byte) (s : State) : State :=
  match orderOfSlot s slot with
  | none => s
  | some i =>
    match getOrder s i with
    | none => s
    | some o =>
      if requestRead s slot code number = false ∨ requestOf code ≠ r ∨ o.detached ∨ o.answered = number then s
      else
        let a := answerOf r o.state
        let o1 := { o with answered := number }
        let s1 := putOrder i (some o1) (dropRequest slot s)
        let s2 := writeAnswer slot number a (if a = .done then handRequest r i o1 s1 else s1)
        if o.returnDue then hoistAnswer slot s2 else s2

/-! ## Sweep steps (R9 to R11) -/

/-- What step 1 keeps of one slot read without error, with class and ticket of a candidate. Of a slot the part holds they are
not read (R9), so one that reads POSTED is no candidate of this sweep even where step 3 detaches and frees its order: the
manual does not say, and this is the model's choice, log entry 32. A held slot is kept with its token also where its request
field read failed (log entry 50). -/
def scanOf (s : State) (slot : Nat) (r : SlotRead) : Option SlotScan :=
  r.token.map (fun t =>
    { slot := slot, held := holdsSlot s slot, token := t
      header := if holdsSlot s slot then none else match r.ticket, r.classByte with
        | some k, some c => some (rushOf c, k)
        | _, _ => none })

/-- The request of a slot is new: held for a non-detached order, token TAKEN, number not the last answered (R9, R16). -/
def newRequest (s : State) (slot : Nat) (r : SlotRead) : Option SlotRequest :=
  match r.token, r.request, (orderOfSlot s slot).bind (getOrder s) with
  | some t, some q, some o =>
    if t = tokenTaken ∧ o.detached = false ∧ q.2 ≠ o.answered then some { slot := slot, code := q.1, number := q.2 }
    else none
  | _, _, _ => none

/-- The first failing read of a slot in step 1, as a slot offset: the token, the ticket or class of a POSTED slot that is
not held, or the request field of a held one (R9, R186, log entry 12). A failed request field is recorded at 0x010, its first
byte, whichever of its two reads failed: the model's choice, log entry 44. -/
def readFailure (s : State) (slot : Nat) (r : SlotRead) : Option Nat :=
  match r.token with
  | none => some offToken
  | some t =>
    if holdsSlot s slot then (if r.request = none then some offRequest else none)
    else if t = tokenPosted then
      (if r.ticket = none then some offTicket else if r.classByte = none then some offClass else none)
    else none

/-- The slot read faults of step 1 are recorded (R9, R186). The manual gives no order of the 64 slots; slot 0 first is the
model's choice, log entry 36. -/
def recordReads (reads : List SlotRead) (s : State) : State :=
  (reads.zipIdx).foldl (fun t x =>
    match readFailure s x.2 x.1 with
    | some off => recordFault .slotRead x.2 (jobAddr s (slotOffset x.2 off)) t
    | none => t) s

/-- The reads of step 1 that follow a slot's token: the request field of a slot the part holds, ticket and class of a POSTED
one it does not hold, up to a read that fails (R9, log entry 5). -/
def stepOneReads (s : State) (slot : Nat) (r : SlotRead) : List (Nat × Nat) :=
  match r.token with
  | none => []
  | some t =>
    if holdsSlot s slot then [(0x010, 1), (0x011, 1)]
    else if t = tokenPosted then (offTicket, 4) :: (if r.ticket = none then [] else [(offClass, 1)])
    else []

/-- They are put out, slot 0 first. -/
def emitStepOne (reads : List SlotRead) (s : State) : State :=
  reads.zipIdx.foldl (fun t x => emitReads x.2 (stepOneReads s x.2 x.1) t) s

/-- Step 1 is complete: what it read is kept and step 2 begins (R9). -/
def endStepOne (reads : List SlotRead) (w : Sweep) (s : State) : State :=
  let xs := (reads.take Config.slots).zipIdx
  recordReads (reads.take Config.slots)
    { emitStepOne (reads.take Config.slots) s with
      intake.sweep := some
        { w with
          step := .two, scans := xs.filterMap (fun x => scanOf s x.2 x.1)
          requests := xs.filterMap (fun x => newRequest s x.2 x.1) } }

/-- Requests that no step has answered yet are answered, in slot order (R9, log entry 2). -/
def answerAll (qs : List SlotRequest) (s : State) : State :=
  qs.foldl (fun s q => answerRequest (requestOf q.code) q.slot q.code q.number s) s

/-- Step 3 for one slot: detachment, or the LOST writes of the first sweep after a reset (R18, R19). A held slot whose token
was read and whose request field read failed is detached as any other: R9 leaves only its request unhandled, while R186 has
the slot passed over for the sweep; the model's choice, log entry 50. -/
def checkSlot (s : State) (x : SlotScan) : State :=
  match orderOfSlot s x.slot with
  | some i => if x.token ≠ tokenTaken then detachOrder i s else s
  | none =>
    if s.intake.lostPending && x.token == tokenTaken && !x.held && !holdsSlot s x.slot then
      pushWrite x.slot offToken 4 tokenReturned.toNat (pushWrite x.slot offOutcome 1 SlotOutcome.lost.code s)
    else s

/-- The sweep goes on in this step, with no request of step 2 left. -/
def setStep (st : SweepStep) (s : State) : State :=
  match s.intake.sweep with
  | none => s
  | some w => { s with intake.sweep := some { w with step := st, requests := [] } }

/-- Step 2 is complete, its answer writes issued but for those that wait for a setup load (log entry 45); step 3 detaches and
makes the LOST pass (R9, R18, R19). The manual gives step 3 no order of the slots; slot 0 first is the model's choice, log
entry 36. -/
def endStepTwo (w : Sweep) (s : State) : State :=
  w.scans.foldl checkSlot (setStep .three (issueWaiting none (answerAll w.requests s)))

/-- Candidate x is taken before y: RUSH before NORMAL, then the lower ticket, then the lower slot (R11). -/
def takenBefore (x y : Nat × Bool × Word) : Bool :=
  if x.2.1 = y.2.1 then
    if x.2.2 = y.2.2 then decide (x.1 ≤ y.1) else decide (x.2.2.toNat ≤ y.2.2.toNat)
  else x.2.1

def insertCandidate (x : Nat × Bool × Word) : List (Nat × Bool × Word) → List (Nat × Bool × Word)
  | [] => [x]
  | y :: rest => if takenBefore x y then x :: y :: rest else y :: insertCandidate x rest

/-- The candidate list: slots read POSTED that no order holds, in the order of R11. A slot whose ticket and class step 1 did
not read is left for a later sweep (the model's choice, log entry 32). -/
def candidates (s : State) (scans : List SlotScan) : List Nat :=
  ((scans.filterMap (fun x =>
      if x.token = tokenPosted ∧ holdsSlot s x.slot = false then x.header.map (fun h => (x.slot, h)) else none)).foldr
    insertCandidate []).map (·.1)

/-- Step 3 is complete: the LOST pass is over, and step 4 begins its takes if the engine is RUNNING and has not left RUNNING
since the sweep began (R9, R10, R11, R19, R181, R183; the second condition for an engine that is RUNNING again is the model's
choice, log entry 38). -/
def endStepThree (w : Sweep) (s : State) : State :=
  let takes := s.eng.state = .running ∧ w.barred = false
  let w1 := { w with step := .four, candidates := if takes then candidates s w.scans else [] }
  nextTake { s with intake.lostPending := false, intake.sweep := some w1 }

/-- The machine request cell is read, unless a read of it is out or a request in it has still to be answered (R7, log entry
20). -/
def readCell (s : State) : State :=
  if s.intake.cellRead || s.intake.cellOwed then s else emitRead offCell 4 { s with intake.cellRead := true }

/-- The sweep ends when step 5 has no access left: no cell read out, no answer owed (R9). -/
def endSweep (s : State) : State :=
  match s.intake.sweep with
  | none => s
  | some w =>
    if w.step = .five ∧ s.intake.cellRead = false ∧ s.intake.cellOwed = false then { s with intake.sweep := none } else s

/-- The next step of the running sweep begins; a take still in progress keeps step 4 open (R9). -/
def beginStep (reads : List SlotRead) (s : State) : State :=
  match s.intake.sweep with
  | none => s
  | some w =>
    match w.step with
    | .one => endStepOne reads w s
    | .two => endStepTwo w s
    | .three => endStepThree w s
    | .four => if w.taking = none ∧ w.taken = none then readCell (setStep .five s) else s
    | .five => endSweep s

/-- The accesses of one sweep step complete, so the slot writes still waiting are issued, and then the next step begins (R9). -/
def sweepStep (reads : List SlotRead) (s : State) : State :=
  if s.intake.sweep.isSome then beginStep reads (issueWaiting none s) else s

/-! ## Cell (R7) -/

/-- The reads of the code and the operands of a POSTED request (R7). -/
def readOperands (s : State) : State := cellFields.foldl (fun s x => emitRead (offCell + x.1) x.2 s) s

/-- A read of the cell has failed: a slot read fault with slot 255, and the request is not answered this time (R186). -/
def cellReadFault (off : Nat) (s : State) : State :=
  endSweep (recordFault .slotRead 255 (jobAddr s (offCell + off)) { s with intake.cellRead := false, intake.cellOwed := false })

/-- A read of the cell completes: the token, after which a POSTED request's code and operands are read and its answer is
owed, or, with that so, an operand whose read fails (R7, R186). -/
def cellReadDone (r : CellResult) (s : State) : State :=
  match r with
  | .busError off => if s.intake.cellRead || s.intake.cellOwed then cellReadFault off s else s
  | .token t =>
    if s.intake.cellRead then
      let s1 := { s with intake.cellRead := false }
      if t = tokenPosted then readOperands { s1 with intake.cellOwed := true } else endSweep s1
    else s

/-- The answer, then the token ANSWERED (R7). -/
def answerCell (a : CellAnswer) (s : State) : State :=
  endSweep
    (emitWrite offCell 4 tokenAnswered.toNat
      (emitWrite (offCell + 0x14) 1 a.code { s with intake.cellOwed := false }))

/-- The request of a cell whose token has read POSTED is acted on: its answer decided, its effect made where DONE, the answer
written. Without such a read, and while AREA is not set, there is no request (R7, R4; the operands are those the command
carries, log entry 21). -/
def cellRequest (a : CellAnswer) (effect : State → State) (s : State) : State :=
  if s.link.areaSet && s.intake.cellOwed then answerCell a (if a = .done then effect s else s) else s

/-! ## Slot return (R21) -/

/-- The answer that a return owes a request step 1 read and step 2 has not reached: TOO_LATE, or NOT_APPLICABLE for a code of
NONE or above 3 (R17, R16, R21). -/
def oweAnswer (slot i : Nat) (o : Order) (s : State) : State :=
  match s.intake.sweep with
  | none => s
  | some w =>
    match w.requests.find? (fun q => q.slot == slot) with
    | some q =>
      hoistAnswer slot
        (writeAnswer slot q.number (answerOf (requestOf q.code) .complete) (putOrder i (some { o with answered := q.number }) (dropRequest slot s)))
    | none => s

/-- The writes of a slot return, each after those of the slot that wait: the answer owed, the final price, the outcome and
RETURNED (R21, R176). -/
def beginReturn (i : Nat) (o : Order) (s : State) : State :=
  pushWrite o.slot offToken 4 tokenReturned.toNat
    (pushWrite o.slot offOutcome 1 (outcomeOf o).code
      (pushPrice o.slot offFinal (finalPrice s.setup o) (oweAnswer o.slot i o s)))

/-- The slot return of a COMPLETE, non-detached order begins, unless it is already going out; while a load runs it waits for
its end (R21, R176; when the command may come is log entry 21). -/
def slotReturn (slot : Nat) (s : State) : State :=
  match orderOfSlot s slot with
  | none => s
  | some i =>
    match getOrder s i with
    | none => s
    | some o =>
      if o.state = .complete ∧ o.detached = false ∧ returnWaiting s slot = false then
        if s.setup.state = .loading then putOrder i (some { o with returnDue := true }) s else beginReturn i o s
      else s

/-- The return of context i begins where it has waited for a load (R176). -/
def returnDueOf (s : State) (i : Nat) : State :=
  match getOrder s i with
  | none => s
  | some o =>
    if o.returnDue ∧ o.state = .complete ∧ o.detached = false ∧ returnWaiting s o.slot = false then
      beginReturn i { o with returnDue := false } (putOrder i (some { o with returnDue := false }) s)
    else s

/-- A load that has ended, VALID or INVALID, lets the returns that wait for it begin (R21, R176). The manual gives several of
them no order; context 0 first is the model's choice, log entry 39. -/
def returnsAfterLoad (s : State) : State :=
  if s.setup.state = .loading then s else (List.range Config.contexts).foldl returnDueOf s

/-! ## Write faults (R186) -/

/-- The take between TAKEN and its verdict stands in this slot. -/
def takenSlot (s : State) (slot : Nat) : Bool :=
  match s.intake.sweep with
  | some w => (match w.taken with
    | some (n, _) => n == slot
    | none => false)
  | none => false

/-- The TAKEN write of the slot failed: no order is formed, and the slot is no longer held (R12, R186). An order admitted in
the meantime is taken out again, uncounted, while no bin and no frame is its; one that has been started is detached (log
entry 16). -/
def failTaken (i : Nat) (s : State) : State :=
  match getOrder s i with
  | none => s
  | some o =>
    if o.bins = [] ∧ o.unsettled = [] ∧ o.detached = false then freeOrder i (dropWrites o.slot s) else detachOrder i s

/-- A write of the slot's present take or hold failed: a held order is detached, a refusal or LOST return stops, a take
whose TAKEN write failed forms no order (R12, R14, R18, R19, R186). -/
def failWrite (slot offset : Nat) (s : State) : State :=
  match orderOfSlot s slot with
  | some i => if offset = offToken then failTaken i s else detachOrder i s
  | none => if takenSlot s slot then nextTake (clearTake s) else dropWrites slot s

/-- A write to an order slot ended in a bus error (R186, R22, R191). -/
def slotWriteError (slot offset : Nat) (standing : WriteStanding) (s : State) : State :=
  let s1 := recordFault .slotWrite slot (jobAddr s (slotOffset slot offset)) s
  match standing with
  | .beforeReset => s
  | .returned => s1
  | .current => failWrite slot offset s1

/-! ## One step of the part -/

/-- What the intake unit and the link still do within a step: a take past its TAKEN write goes on, and waiting slot writes
are issued (R4, R12, log entry 3). -/
def progress (room : Option Nat) (s : State) : State := issueWaiting room (resumeTake room s)

/-- A command's effect, then the slot writes it leaves waiting and the status block fields it changed (R4, R6). -/
def perform (room : Option Nat) (f : State → State) (s : State) : State := publish s (progress room (f (clearOut s)))

/-- A command the part takes unless it is HALTED or held in reset, where it changes nothing (R188, R189). -/
def act (room : Option Nat) (f : State → State) (s : State) : State :=
  if live s then perform room f s else clearOut s

/-- The milliseconds of a timer after one more. -/
def tickTimer (t : Option Nat) : Option Nat := t.map (fun n => n - 1)

/-- One period of the 1 kHz timebase: SRT's clock and the timers that count milliseconds (00_scope.md 4.1, R8, R22, R37,
R132, 9.1; log entry 13). -/
def tick (s : State) : State :=
  { s with sort.clock := s.sort.clock + 1, intake.timer := tickTimer s.intake.timer
           link.idleTimer := tickTimer s.link.idleTimer, paper.timer := tickTimer s.paper.timer
           cut.timer := tickTimer s.cut.timer }

/-- The step of an empty queue: one period of the timebase passes (log entry 13). -/
def idle (s : State) : State := act none tick s

/-- What every command answers with. -/
abbrev Result := Host.Outcome State Fault Refusal

end Sys2Proof.Machine
end

