-- ==== Sys2Proof/Machine/Cutter.lean ====
section
/-! DEFINITION. CUT, the cutter controller: the cut test, the stroke, registration and the mark windows (chapter 8), with
SMN's part in a knife fire and a stroke end (R110). -/

namespace Sys2Proof.Machine

/-! ## The load watch (R110) -/

/-- A knife fire starts SMN's load watch, or loads it again (R110). -/
def startWatch (s : State) : State :=
  { s with supply.watching := true, supply.settle := s.setup.params.settle, supply.strokeEnded := false }

/-- A stroke end reported to SMN, ignored by an INACTIVE watch (R110). -/
def strokeEnd (s : State) : State := if s.supply.watching then { s with supply.strokeEnded := true } else s

/-! ## The cut (R131 to R133) -/

/-- The due position of boundary b: b + L_cut + offset, modulo 2^32 (R131). -/
def duePos (s : State) (b : Word) : Word :=
  b + BitVec.ofNat 32 s.setup.params.cutLength + BitVec.ofInt 32 s.cut.offset

/-- W less the due position of b, signed: the lateness of a cut fired now (R133). -/
def lateness (s : State) (b : Word) : Int := signedDiff s.line.w (duePos s b)

/-- The oldest boundary and whether it is due (R131). -/
def dueBoundary (s : State) : Option Word :=
  match s.web.map with
  | [] => none
  | e :: _ => if 0 ≤ lateness s e.endPos then some e.endPos else none

/-- The knife fires for boundary b, and the leaving of the oldest entry may complete a stop (R132, R129). -/
def fireKnife (b : Word) (s : State) : State :=
  let late := decide ((Config.cutTolerance : Int) < lateness s b)
  clearReport (cutReport b late
    (startWatch { s with cut.solenoid := true, cut.timer := some s.setup.params.strokeTime, cut.leftHome := false
                         cut.knife := .stroke }))

/-- The cut test (R131). -/
def cutTest (s : State) : State :=
  match dueBoundary s with
  | none => s
  | some b =>
    match s.cut.knife with
    | .idle => fireKnife b s
    | .stroke => s
    | .faulted => stoppage .knifeFault s

/-! ## The stroke (R134 to R136) -/

/-- The blade has returned home within the stroke (R134). -/
def endStroke (s : State) : State :=
  cutTest (strokeEnd { s with cut.timer := none, cut.leftHome := false, cut.knife := .idle, cut.solenoid := false })

/-- The knife home sensor has changed to active or inactive (R134, R136). -/
def homeChange (active : Bool) (s : State) : State :=
  match s.cut.knife with
  | .idle => s
  | .stroke =>
    if active then (if s.cut.leftHome then endStroke s else s)
    else if s.cut.leftHome then s else { s with cut.leftHome := true, cut.solenoid := false }
  | .faulted => if active then { s with cut.knife := .idle } else s

/-- The knife timer expires in STROKE (R135). -/
def strokeExpiry (s : State) : State :=
  if s.cut.knife = .stroke ∧ s.cut.timer.isSome then
    stoppage .knifeFault
      { s with cut.solenoid := false, cut.leftHome := false, cut.knife := .faulted, cut.timer := none }
  else s

/-- RUN rises: a FAULTED knife whose blade is home is released (R136). -/
def releaseKnife (s : State) : State :=
  if s.cut.knife = .faulted ∧ s.cut.home then { s with cut.knife := .idle } else s

/-! ## Registration (R137 to R142) -/

/-- The expected position of the mark of a frame that starts at p (R138). -/
def expectedMark (s : State) (p : Word) : Word :=
  p + BitVec.ofNat 32 s.setup.params.cutLength - BitVec.ofNat 32 s.setup.params.markLead + BitVec.ofInt 32 s.cut.offset

/-- The next FRAME in the map after entry n (R138). -/
def frameAfter (n : Word) : List MapEntry → Option Word
  | [] => none
  | e :: rest => if e.number = n then (rest.find? isFrame).map (·.number) else frameAfter n rest

/-- The cursor's frame is decided: the cursor moves to the next FRAME in the map (R138). -/
def moveMark (n : Word) (s : State) : State := { s with cut.cursor := frameAfter n s.web.map }

/-- A FRAME is appended: a cursor that names nothing takes it (R138). -/
def markFrame (n : Word) (s : State) : State := if s.cut.cursor = none then { s with cut.cursor := some n } else s

/-- The cursor's frame and W less its expected position (R138, R139). -/
def markError (s : State) : Option (Word × Int) :=
  match s.cut.cursor with
  | none => none
  | some n =>
    match entryNumbered s n with
    | none => none
    | some e => some (n, signedDiff s.line.w (expectedMark s e.start))

def clampOffset (x : Int) : Int := max (-Config.offsetLimit) (min Config.offsetLimit x)

/-- A mark: inside the cursor's window it verifies the frame and corrects the offset, otherwise it is ignored, as is any
mark taken while RUN is low (R139, R142). The status block's mark-lost flag is written where the mode is left, and not by a
mark outside the mode: the model's choice, log entry 52. -/
def takeMark (s : State) : State :=
  if runHigh s then
    match markError s with
    | none => s
    | some (n, err) =>
      if -(s.setup.params.regWindow : Int) ≤ err ∧ err ≤ (s.setup.params.regWindow : Int) then
        cutTest (moveMark n
          { s with cut.offset := clampOffset (s.cut.offset + err), cut.misses := 0, cut.markLost := false })
      else s
  else s

/-- A miss: UNVERIFIED set, the miss counter raised up to 3, mark-lost mode entered at 3, the cursor moved (R140, R141). -/
def missMark (n : Word) (s : State) : State :=
  let s1 := flagUnverified n s
  let s2 := if s1.cut.misses < 3 then { s1 with cut.misses := s1.cut.misses + 1 } else s1
  let s3 := if s2.cut.misses = 3 ∧ s2.cut.markLost = false then raiseAttention { s2 with cut.markLost := true } else s2
  moveMark n s3

/-- A window that a strobe has closed with no mark in it is a miss (R138, R140). -/
def closeWindow (s : State) : State :=
  match markError s with
  | none => s
  | some (n, err) => if (s.setup.params.regWindow : Int) < err then missMark n s else s

end Sys2Proof.Machine
end

