-- ==== Sys2Proof/Machine/Choice.lean ====
section
/-! DEFINITION. PLN's choice at a commit point: fit, waiting-since and the forced switch, the seven rules, FRAME and GAP
commits (chapter 3, 3.4 to 3.6). -/

namespace Sys2Proof.Machine

/-- A print entry's work fits a magazine (R57). -/
def fits (m : Magazine) (e : Entry) : Bool :=
  m.loaded && m.width == e.width && decide (e.length + Config.spliceLen ≤ m.remaining)

/-- The orders of the queue in queue order, with their table indexes (R43). -/
def queueOrders (s : State) : List (Nat × Order) := s.plan.queue.filterMap (fun i => (getOrder s i).map (fun o => (i, o)))

def ordersIn (st : OrderState) (s : State) : List (Nat × Order) := (queueOrders s).filter (fun x => x.2.state == st)

/-- The first pending remake of an order that fits, from the oldest item (R59). -/
def fittingRemake (m : Magazine) (o : Order) : Option Nat :=
  o.remakes.find? (fun i => match o.entries[i]? with
    | some e => fits m e
    | none => false)

/-- The product of a print entry is defined and usable in the store as it stands, so its copies may be started (R27). -/
def startable (x : Setup) (e : Entry) : Bool := (getProduct x e.product).isDefined && (getProduct x e.product).usable

/-- The lowest-indexed entry with an unstarted copy that fits, of a product whose copies may be started (R60, R27; a remake
is no start of a copy, log entry 37). -/
def fittingCopy (x : Setup) (m : Magazine) (o : Order) : Option Nat :=
  (List.range o.entries.length).find? (fun i => decide (0 < unstarted o i) && (match o.entries[i]? with
    | some e => fits m e && startable x e
    | none => false))

/-! ## The forced switch (R62, R63) -/

/-- The order is waiting for the other paper (R62). -/
def waitsForOther (s : State) (o : Order) : Bool :=
  (o.state == .queued || o.state == .active)
    && o.entries.any (fun e => decide (0 < e.t))
    && o.entries.all (fun e => !(decide (0 < e.t) && fits (activeMag s) e))
    && o.entries.any (fun e => decide (0 < e.t) && fits (otherMag s) e)

/-- A waiting order whose waiting-since is absent gets the frames exposed counter (R62). -/
def stampWaiting (s : State) (o : Order) : Order :=
  if waitsForOther s o ∧ o.waitingSince = none then { o with waitingSince := some s.plan.framesExposed } else o

def stampAll (s : State) : State := { s with plan.table := s.plan.table.map (Option.map (stampWaiting s)) }

/-- The order's threshold: the switch patience, divided by 4 for a RUSH order (R62). -/
def patienceOf (s : State) (o : Order) : Nat := if o.rush then s.setup.params.patience / 4 else s.setup.params.patience

/-- A waiting order has waited at least its threshold (R62). -/
def outOfPatience (s : State) (o : Order) : Bool :=
  waitsForOther s o && (match o.waitingSince with
    | some since => decide (patienceOf s o ≤ (s.plan.framesExposed - since).toNat)
    | none => false)

/-- A forced switch is due (R62, R63). -/
def switchDue (s : State) : Bool :=
  s.plan.switchFlag || s.plan.table.any (fun c => match c with
    | some o => outOfPatience s o
    | none => false)

/-- A changeover request from PLN: taken or declined, it clears the pending switch flag (R63). -/
def plannerChange (s : State) : State := requestChange { s with plan.switchFlag := false }

/-! ## Commits (R51, R58) -/

/-- The order after a FRAME commit of entry ei: a copy from t to f, the oldest remake of it removed, the new entry number
unsettled (R51). -/
def committedOrder (ei : Nat) (remake : Bool) (num : Word) (o : Order) : Order :=
  { o with entries := o.entries.modify ei (fun e => { e with t := e.t - 1, f := e.f + 1 })
           remakes := if remake then o.remakes.erase ei else o.remakes
           unsettled := o.unsettled ++ [num] }

/-- The FRAME entry of a commit (R51, R113). -/
def frameInfo (s : State) (i ei : Nat) (remake : Bool) (e : Entry) : FrameInfo :=
  { mag := s.paper.active, width := e.width, toneSet := (activeMag s).toneSet, order := i, entry := ei, remake := remake
    clips := 0, ended := false, reject := false }

/-- A FRAME commit for a copy of entry ei of the order at index i (R51). -/
def commitFrame (i ei : Nat) (remake : Bool) (s : State) : State :=
  match getOrder s i with
  | none => s
  | some o =>
    match o.entries[ei]? with
    | none => s
    | some e =>
      let num := s.web.nextNumber
      let o1 := committedOrder ei remake num o
      let s1 := putOrder i (some o1)
        (appendEntry (.frame (frameInfo s i ei remake e)) (mapEnd s) e.length s)
      let s2 := handOver num i o e (markFrame num s1)
      evalOrder i (evalLow { s2 with plan.framesExposed := s2.plan.framesExposed + 1 })

/-- An order is started: its bins reserved and listed, the order ACTIVE (R60, R64). Absent where SRT refuses (R155). The bins
fields are written before the mirror (log entry 48). -/
def startOrder (i : Nat) (o : Order) (s : State) : Option State :=
  match reserveBins (binsNeeded o) o.ticket o.slot s with
  | none => none
  | some (s1, bins) =>
    let o1 := { o with bins := bins }
    some (enterState i o1 .active (writeBins o1 (putOrder i (some o1) s1)))

/-! ## The choice (R59 to R61) -/

/-- Rule 1 holds the choice to a gap (R59). -/
def heldToGap (s : State) : Bool :=
  s.paper.target.isSome || s.web.hold.isSome || decide (Config.mapEntries ≤ s.web.map.length + 1)

/-- Rule 3: the first pending remake of the ACTIVE orders in queue order that fits the active magazine (R59). -/
def chooseRemake (s : State) : Option (Nat × Nat) :=
  (ordersIn .active s).findSome? (fun x => (fittingRemake (activeMag s) x.2).map (fun ei => (x.1, ei)))

/-- Rule 4: the first ACTIVE order with an unstarted copy that fits, and its lowest such entry (R60). -/
def chooseCopy (s : State) : Option (Nat × Nat) :=
  (ordersIn .active s).findSome? (fun x => (fittingCopy s.setup (activeMag s) x.2).map (fun ei => (x.1, ei)))

/-- A QUEUED order has the FREE bins it needs (R60, R61). -/
def binsFor (s : State) (o : Order) : Bool := decide (binsNeeded o ≤ (freeBins s).length)

/-- Rule 5: the first QUEUED order with a fitting copy and the FREE bins it needs (R60). -/
def chooseStart (s : State) : Option (Nat × Order × Nat) :=
  (ordersIn .queued s).findSome? (fun x =>
    if binsFor s x.2 then (fittingCopy s.setup (activeMag s) x.2).map (fun ei => (x.1, x.2, ei)) else none)

/-- Rule 6: some work fits the other magazine (R61). -/
def otherWork (s : State) : Bool :=
  (ordersIn .active s).any (fun x =>
      (fittingRemake (otherMag s) x.2).isSome || (fittingCopy s.setup (otherMag s) x.2).isSome)
    || (ordersIn .queued s).any (fun x => binsFor s x.2 && (fittingCopy s.setup (otherMag s) x.2).isSome)

/-- Rules 6 and 7 (R61). -/
def chooseIdle (s : State) : State := commitGap (if otherWork s then plannerChange s else s)

/-- The choice in RUNNING: the first rule that applies (R59 to R61). -/
def choose (s : State) : State :=
  if heldToGap s then commitGap s
  else if switchDue s then commitGap (plannerChange s)
  else
    match chooseRemake s with
    | some (i, ei) => commitFrame i ei true s
    | none =>
      match chooseCopy s with
      | some (i, ei) => commitFrame i ei false s
      | none =>
        match chooseStart s with
        | some (i, o, ei) =>
          (match startOrder i o s with
            | some s1 => commitFrame i ei false s1
            | none => chooseIdle s)
        | none => chooseIdle s

/-- A commit point (R58). -/
def commitPoint (s : State) : State :=
  match s.eng.state with
  | .running => choose (stampAll s)
  | .stopping => commitGap s
  | _ => s

/-- WEB_READY rising is a commit point while no web map entry ends beyond W (R58). -/
def readyCommit (s : State) : State := if signedDiff (mapEnd s) s.line.w ≤ 0 then commitPoint s else s

/-- A READY strobe is a commit point when it leaves the map end 32 or fewer steps ahead of W (R58). -/
def strobeCommit (s : State) : State :=
  if s.line.web = .ready ∧ signedDiff (mapEnd s) s.line.w ≤ (Config.commitLead : Int) then commitPoint s else s

end Sys2Proof.Machine
end

