-- ==== Sys2Proof/Machine/Exposure.lean ====
section
/-! DEFINITION. PCC, the pulse calculator: image values, the factors, the raw pulse, floor and ceiling, the clip count
(chapter 5), with the pattern of R76. -/

namespace Sys2Proof.Machine

/-- What one pixel needs of the line being computed: its frame's item, its entry's tone set and the setup store (R94). -/
structure LineInputs where
  item : FrameItem
  toneSet : Nat
  setup : Setup

/-- The colour step byte of a channel. -/
def colourOf (x : FrameItem) : Chan → Byte
  | .red => x.colourR
  | .green => x.colourG
  | .blue => x.colourB

/-- The pattern lights this channel in this band (R76). -/
def bandLights (band : Nat) (c : Chan) : Bool := band == 3 || band == chanIndex c

/-- The pattern value of element e on line i: 17 × its step in a lit band, 0 otherwise (R76). -/
def patternValue (x : FrameItem) (i e : Nat) (c : Chan) : Nat :=
  if bandLights (i * 4 / x.length) c then 17 * (e * 16 / x.paperElems) else 0

/-- The image value of element e: its pixel's byte, or 0 at the border (R82). -/
def imageValue (x : FrameItem) (pixels : List Byte) (e : Nat) (c : Chan) : Nat :=
  if x.image.left.toNat ≤ e ∧ e < x.image.left.toNat + x.image.width.toNat then
    (pixels.getD (3 * (e - x.image.left.toNat) + chanIndex c) 0).toNat
  else 0

/-- The exposure value E = T[s][c][v] (R84). -/
def toneValue (x : Setup) (set : Nat) (c : Chan) (v : Nat) : Nat := tableGet 0 x.tones ((set * 3 + chanIndex c) * 256 + v)

/-- The uniformity gain U of element e (R86). -/
def uniformityGain (x : Setup) (c : Chan) (e : Nat) : Nat := tableGet 1024 x.uniformity (chanIndex c * 3072 + e)

/-- The raw pulse P0, by one rounding of the exact product (R88). -/
def rawPulse (exposure gain uniform scale : Nat) : Nat := roundPulse (exposure * gain * uniform * scale)

/-- The ceiling P_max = L − minimum off-time, signed (R89). -/
def pulseCeiling (x : Setup) : Int :=
  ((x.params.divisor + 1) * 4 ^ x.params.prescale : Nat) - (x.params.offTime : Int)

/-- The pulse driven for P0, and whether it counts as clipped (R90). -/
def limitPulse (pMin : Nat) (pMax : Int) (p0 : Nat) : Nat × Bool :=
  if pMax < pMin then (0, p0 != 0 && decide (pMax < p0))
  else if pMax < p0 then (pMax.toNat, true)
  else if p0 < pMin then (0, false)
  else (p0, false)

/-- P0 of element e and channel c for image value v (R84 to R88). -/
def rawPulseOf (k : LineInputs) (e : Nat) (c : Chan) (v : Nat) : Nat :=
  rawPulse (toneValue k.setup k.toneSet c v) (stepGain k.item.density (colourOf k.item c)) (uniformityGain k.setup c e)
    (k.setup.fullScale.get c)

/-- One element and channel: its pulse and whether it clips (R90). -/
def pulseOf (k : LineInputs) (e : Nat) (c : Chan) (v : Nat) : Nat × Bool :=
  limitPulse k.setup.params.pMin (pulseCeiling k.setup) (rawPulseOf k e c v)

/-- One element: its three pulses, and whether the pixel counts as clipped, once for any channels (R92). -/
def elementOf (k : LineInputs) (v : Chan → Nat) (e : Nat) : Rgb × Bool :=
  let r := pulseOf k e .red (v .red)
  let g := pulseOf k e .green (v .green)
  let b := pulseOf k e .blue (v .blue)
  ({ red := r.1, green := g.1, blue := b.1 }, r.2 || g.2 || b.2)

/-- Every element on the paper; the elements off the paper have pulses 0 by rule (R81). -/
def computeLine (k : LineInputs) (value : Nat → Chan → Nat) : List (Rgb × Bool) :=
  (List.range k.item.paperElems).map (fun e => elementOf k (value e) e)

/-- The pixels of a computed line that count as clipped (R92). -/
def clipCount (line : List (Rgb × Bool)) : Nat := line.countP (fun x => x.2)

/-- The image value of every element for FCH's answer: pixels or pattern (R82, R83). -/
def answerValues (a : LineAnswer) (i e : Nat) (c : Chan) : Nat :=
  match a with
  | .line x pixels => imageValue x pixels e c
  | .pattern x => patternValue x i e c
  | .dark => 0
  | .underrun => 0

def answerItem : LineAnswer → Option FrameItem
  | .line x _ => some x
  | .pattern x => some x
  | .dark => none
  | .underrun => none

/-- The line computed for frame n with this tone set: the widths handed to LTU, the count added to the frame and to the
counter, and the held count 0 again; a dark answer or an underrun computes nothing (R80, R92). -/
def exposeLine (n : Word) (toneSet i : Nat) (a : LineAnswer) (s : State) : List Rgb × State :=
  match answerItem a with
  | none => ([], s)
  | some x =>
    let line := computeLine { item := x, toneSet := toneSet, setup := s.setup } (answerValues a i)
    let k := clipCount line
    (line.map (·.1), addClips n k { s with pulse.clipped := s.pulse.clipped + BitVec.ofNat 32 k, pulse.held := 0 })

end Sys2Proof.Machine
end

