-- ==== Sys2Proof/Machine/Strobe.lean ====
section
/-! DEFINITION. LTU's line strobe with every block's part in it, RUN rising, WEB_READY, pulses and punch, and SMN's sample
(chapter 6). The order in which the blocks take one strobe is log entry 11. -/

namespace Sys2Proof.Machine

/-! ## The head (R103, R104) -/

/-- Some pulse of the line in progress is still on (R104). -/
def headLit (s : State) : Bool := s.line.head.any (fun x => x.red != 0 || x.green != 0 || x.blue != 0)

/-- The pulse of an element and channel has ended (R103). -/
def endPulse (e : Nat) (c : Chan) (s : State) : State :=
  { s with line.head := s.line.head.modify e (fun x => x.set 0 c) }

/-- The ending line is truncated: TRUNCATED on its FRAME, every element off (R104). -/
def truncateLine (s : State) : State :=
  if headLit s then
    let s1 := match s.line.lineFrame with
      | some n => flagTruncated n s
      | none => s
    { s1 with line.head := [] }
  else s

/-- A line begun dark. -/
def darkLine (s : State) : State := { s with line.head := [], line.lineFrame := none }

/-- W rises by one (R97). -/
def advanceW (s : State) : State := { s with line.w := s.line.w + 1 }

/-! ## Paper break (R106) -/

/-- The count after a sample of the head paper sensor, and whether it completes a paper break. -/
def countBreak (paper : Bool) (s : State) : State × Bool :=
  if paper then ({ s with line.breakCount := 0 }, false)
  else if s.line.breakCount + 1 = Config.paperBreak then ({ s with line.breakCount := 0 }, true)
  else ({ s with line.breakCount := s.line.breakCount + 1 }, false)

/-! ## The line of a READY strobe (R101, R102, R107) -/

/-- The FRAME whose last line is the line that ends: the entry covers p − 1 and ends at p (R102). -/
def endingFrame (s : State) (p : Word) : Option Word :=
  match entryAt s (p - 1) with
  | some e => if isFrame e && e.endPos == p then some e.number else none
  | none => none

/-- The exposure end reported to WTR, and the frame's item out of FCH's list (R102, R68). -/
def endFrame (p : Word) (s : State) : State :=
  match endingFrame s p with
  | some n => dropItem n (exposureEnd n s)
  | none => s

/-- The line at p in a FRAME: FCH's answer, the widths driven, UNDERRUN asked for on an underrun, the punch at line 0
(R101, R75, R107). -/
def frameLine (e : MapEntry) (f : FrameInfo) (p : Word) (s : State) : State :=
  let i := (signedDiff p e.start).toNat
  let a := serve e.number i s
  let s1 := if a.1 = .underrun then flagUnderrun e.number a.2 else a.2
  let x := exposeLine e.number f.toneSet i a.1 s1
  { x.2 with line.head := x.1, line.lineFrame := some e.number, line.punch := if i = 0 then true else x.2.line.punch }

/-- The line begun at p in READY; a position that no entry covers is laid into gap (R101). -/
def readyLine (p : Word) (s : State) : State :=
  match entryAt s p with
  | none => layStrobe p (darkLine s)
  | some e =>
    match e.piece with
    | .frame f => frameLine e f p s
    | _ => darkLine s

/-- The supervision timer is started or restarted with 4 × L ticks (R105). -/
def supervise (s : State) : State := { s with line.supervision := some (4 * linePeriod s) }

/-- LTU's own handling of a strobe in READY (R101). -/
def readyStrobe (paper : Bool) (s : State) : State :=
  let p := s.line.w
  let s1 := endFrame p (advanceW (truncateLine s))
  let c := countBreak paper s1
  if c.2 then stoppage .paperBreak (darkLine c.1) else supervise (readyLine p c.1)

/-- LTU's handling of a strobe in RAMPING (R100). -/
def rampStrobe (paper : Bool) (s : State) : State :=
  let p := s.line.w
  let c := countBreak paper (darkLine (advanceW s))
  if c.2 then stoppage .paperBreak c.1 else layStrobe p c.1

/-! ## The supply sample (R111) -/

/-- A LOW reading with the settle count at 0: a sag on the FRAME sampled, once (R111). -/
def sagSample (p : Word) (s : State) : State :=
  match entryAt s p with
  | none => s
  | some e =>
    if isFrame e && !e.flags.sag then flagSag e.number { s with supply.sags := s.supply.sags + 1 } else s

/-- The comparator sampled for the line at p (R111). -/
def sample (good : Bool) (p : Word) (s : State) : State :=
  if s.supply.watching then
    if 0 < s.supply.settle then { s with supply.settle := s.supply.settle - 1 }
    else if good then (if s.supply.strokeEnded then endWatch s else s)
    else sagSample p s
  else s

/-! ## Paper-out (R40) -/

/-- A paper-out is PAP's to handle: RUNNING or STOPPING, with the changeover IDLE (R40). -/
def handlesPaperOut (s : State) : Bool := moving s && s.paper.target.isNone

/-- The strobe counts against the active magazine, and a paper-out is handled where it was PAP's to handle as the strobe came
(R35, R40). Where another block has paused the engine at the same strobe, the PAPER_BREAK finds it PAUSED and is recorded or
counted there (R182, R106, log entry 11), and a request is declined (R37). -/
def paperStrobe (handles : Bool) (s : State) : State :=
  let c := countStrobe s
  if c.2 && handles then (if otherUsable c.1 then requestChange c.1 else stoppage .paperBreak c.1) else c.1

/-! ## The whole strobe -/

/-- What WTR, SMN and CUT do with a strobe while RUN is high (R123, R111, R140, R131). -/
def runningStrobe (good : Bool) (p : Word) (s : State) : State :=
  if runHigh s then cutTest (closeWindow (sample good p (clearHold s))) else s

/-- The cutter-side position at a strobe taken with RUN high, also where the strobe goes on to pause the engine (R127). -/
def reportCutterPos (running : Bool) (s : State) : State := if running then formCutterPos s else s

/-- LTU's handling by web state (R100, R101). -/
def lineTiming (paper : Bool) (s : State) : State :=
  match s.line.web with
  | .idle => darkLine (advanceW s)
  | .ramping => rampStrobe paper s
  | .ready => readyStrobe paper s

/-- A line strobe (R97, R100, R101). -/
def strobe (paper good : Bool) (s : State) : State :=
  strobeCommit (paperStrobe (handlesPaperOut s)
    (runningStrobe good s.line.w (reportCutterPos (runHigh s) (lineTiming paper s))))

/-! ## RUN and WEB_READY (R98, R99) -/

/-- The web state moves to READY: supervision starts and PLN is told (R99, R105, R58). -/
def webReady (s : State) : State := readyCommit (supervise { s with line.web := .ready })

/-- LTU raises RUN: RAMPING, the setting loaded, the first RATE pulse (R98). -/
def raiseRun (s : State) : State :=
  emit .ratePulse
    { s with line.web := .ramping, line.prescale := s.setup.params.prescale, line.divisor := s.setup.params.divisor }

/-- The engine enters RUNNING from STOPPED or PAUSED: RUN rises, a sweep starts, CUT releases its knife and reports a jam
that is still there, and a web already at speed is READY (R180, R184, R99; the order is log entry 11). -/
def enterRunning (jam : Bool) (s : State) : State :=
  let s1 := raiseRun (setEngine .running { s with cut.jam := jam })
  let s2 := releaseKnife (loadTimer (startSweep s1))
  let s3 := if jam then stoppage .jam s2 else s2
  if s3.line.web = .ramping ∧ s3.line.webReady then webReady s3 else s3

end Sys2Proof.Machine
end

