-- ==== Sys2Proof/Machine/Cell.lean ====
section
/-! DEFINITION. The meanings of the machine requests (R7, R33, R34, R184, R63, R159) and of the paper sensors and the
changeover (R34, R38, R39). -/

namespace Sys2Proof.Machine

/-- The named magazine is the active one while the engine is RUNNING or STOPPING (R7). -/
def magazineBusy (s : State) (m : Mag) : Bool := s.paper.active == m && moving s

/-- The answer to LOAD_PAPER (R7). -/
def loadPaperAnswer (s : State) (mag : Byte) (width tone : Nat) : CellAnswer :=
  match magOf mag with
  | none => .notApplicable
  | some m =>
    if (getMag s m).present = false then .notPresent
    else if magazineBusy s m then .busy
    else if widthAccepted width = false ∨ 3 < tone then .notApplicable
    else .done

/-- A record changed: LOW and the waiting orders evaluated at once (R36, R44). -/
def recordChanged (s : State) : State := evalWait (evalLow s)

/-- A magazine's record set by LOAD_PAPER (R33). -/
def loadRecord (m : Mag) (width : Nat) (surface : Surface) (tone length : Nat) (lot : Word) (s : State) : State :=
  recordChanged (setMag m
    { getMag s m with loaded := true, width := width, surface := surface, toneSet := tone, remaining := length, lot := lot } s)

/-- LOAD_PAPER (R33). -/
def execLoadPaper (mag : Byte) (width : Half) (surface tone : Byte) (length lot : Word) (s : State) : Result :=
  .next (act none (fun s =>
    cellRequest (loadPaperAnswer s mag width.toNat tone.toNat) (fun s =>
      match magOf mag with
      | some m => loadRecord m width.toNat (surfaceOf surface) tone.toNat length.toNat lot s
      | none => s) s) s)

/-- The answer to CLEAR_PAPER (R7). -/
def clearPaperAnswer (s : State) (mag : Byte) : CellAnswer :=
  match magOf mag with
  | none => .notApplicable
  | some m => if magazineBusy s m then .busy else .done

/-- A magazine's record cleared (R34). -/
def clearRecord (m : Mag) (s : State) : State := recordChanged (setMag m (clearedRecord (getMag s m)) s)

/-- CLEAR_PAPER (R34). -/
def execClearPaper (mag : Byte) (s : State) : Result :=
  .next (act none (fun s =>
    cellRequest (clearPaperAnswer s mag) (fun s =>
      match magOf mag with
      | some m => clearRecord m s
      | none => s) s) s)

/-- RESUME (R184). -/
def execResume (jam : Bool) (s : State) : Result :=
  .next (act none (fun s =>
    cellRequest (if s.eng.state = .paused then .done else .notApplicable) (enterRunning jam) s) s)

/-- CHANGEOVER_NOW (R63). -/
def execChangeoverNow (s : State) : Result :=
  .next (act none (fun s =>
    cellRequest (if s.eng.state = .running then .done else .notApplicable)
      (fun s => { s with plan.switchFlag := true }) s) s)

/-- RELEASE_BIN (R159). -/
def execReleaseBin (bin : Byte) (s : State) : Result :=
  .next (act none (fun s =>
    cellRequest (if bin.toNat ≤ 15 then .done else .notApplicable) (keyEvent bin.toNat) s) s)

/-- MACHINE_REQUEST_NOT_APPLICABLE (R7). -/
def execMachineRequestNotApplicable (_code : Byte) (s : State) : Result :=
  .next (act none (fun s => cellRequest .notApplicable id s) s)

/-- An input line takes this level in every state; its effect is made only while the part takes events (R32, R188, R189). -/
def actPin (level f : State → State) (s : State) : State :=
  if live s then perform none (fun s => f (level s)) s else level (clearOut s)

/-- A magazine's present sensor takes this level (R32). -/
def setPresent (m : Mag) (level : Bool) (s : State) : State := setMag m { getMag s m with present := level } s

/-- A present sensor going inactive clears its magazine's record in every engine state, HALTED included; the blocks that act
on the record hold in HALTED (R34, R188, log entry 18). Held in reset, the part takes the level alone (R189). -/
def senseEmpty (m : Mag) (s : State) : State :=
  if s.eng.hold = .released then setMag m { clearedRecord (getMag s m) with present := false } s else setPresent m false s

/-- PRESENT_SENSOR_INACTIVE (R34). -/
def execPresentSensorInactive (mag : Mag) (s : State) : Result := .next (actPin (senseEmpty mag) (clearRecord mag) s)

/-- PRESENT_SENSOR_ACTIVE (R34): only the present field changes. -/
def execPresentSensorActive (mag : Mag) (s : State) : Result := .next (actPin (setPresent mag true) id s)

/-- The waiting-since of every order becomes absent (R62). -/
def forgetWaiting (s : State) : State :=
  { s with plan.table := s.plan.table.map (Option.map (fun (o : Order) => { o with waitingSince := none })) }

/-- A changeover towards m completes (R38, R62, R63, R122). -/
def completeChange (m : Mag) (s : State) : State :=
  let s1 := { endChange s with paper.active := m, plan.switchFlag := false }
  laySplice (evalLow (forgetWaiting s1))

/-- CHANGE_DONE (R38). -/
def execChangeDone (s : State) : Result :=
  .next (act none (fun s =>
    match s.paper.target with
    | some m => completeChange m s
    | none => s) s)

/-- CHANGEOVER_TIMER_EXPIRY (R39). -/
def execChangeoverTimerExpiry (s : State) : Result :=
  .next (act none (fun s => if s.paper.target.isSome then stoppage .paperFeed (endChange s) else s) s)

end Sys2Proof.Machine
end

