-- ==== Sys2Proof/Machine/Mechanics.lean ====
section
/-! DEFINITION. The meanings of the transport's, the head's, the fetch unit's, the cutter's and the sorter's events
(chapters 4, 6, 8, 9) and of the web clear report (R181). -/

namespace Sys2Proof.Machine

/-- LINE_STROBE (R101). -/
def execLineStrobe (paper supplyGood : Bool) (s : State) : Result := .next (act none (strobe paper supplyGood) s)

/-- WEB_READY_RISE (R99). -/
def execWebReadyRise (s : State) : Result :=
  .next (actPin (fun s => { s with line.webReady := true })
    (fun s => if s.line.web = .ramping then webReady s else s) s)

/-- WEB_READY_FALL (R99). -/
def execWebReadyFall (s : State) : Result :=
  .next (actPin (fun s => { s with line.webReady := false })
    (fun s => if s.line.web = .ready then stoppage .stall s else s) s)

/-- STROBE_SUPERVISION_EXPIRY (R105). -/
def execStrobeSupervisionExpiry (s : State) : Result :=
  .next (act none (fun s =>
    if s.line.supervision.isSome then stoppage .stall { s with line.supervision := none } else s) s)

/-- RATE_PERIOD (R98). -/
def execRatePeriod (s : State) : Result := .next (act none (fun s => if runHigh s then emit .ratePulse s else s) s)

/-- PUNCH_END (R107). -/
def execPunchEnd (s : State) : Result := .next (act none (fun s => { s with line.punch := false }) s)

/-- PULSE_END (R103). -/
def execPulseEnd (element : BitVec 12) (channel : Chan) (s : State) : Result :=
  .next (act none (endPulse element.toNat channel) s)

/-- LINE_READ_ISSUE (R71). -/
def execLineReadIssue (s : State) : Result := .next (act none issueRead s)

/-- LINE_READ_COMPLETE (R73). -/
def execLineReadComplete (place : Nat) (result : Option (List Byte)) (s : State) : Result :=
  .next (act none (arrive place (match result with
    | some bytes => .data bytes
    | none => .busError)) s)

/-- KNIFE_HOME_SENSOR (R134, R136). -/
def execKnifeHomeSensor (active : Bool) (s : State) : Result :=
  .next (actPin (fun s => { s with cut.home := active }) (homeChange active) s)

/-- KNIFE_TIMER_EXPIRY (R135). -/
def execKnifeTimerExpiry (s : State) : Result := .next (act none strokeExpiry s)

/-- MARK (R139). -/
def execMark (s : State) : Result := .next (act none takeMark s)

/-- JAM_SENSOR_ACTIVE (R143). -/
def execJamSensorActive (s : State) : Result :=
  .next (actPin (fun s => { s with cut.jam := true }) (fun s => if runHigh s then stoppage .jam s else s) s)

/-- WEB_CLEAR (R181, R129): the report taken in STOPPING; in any other state it changes nothing. -/
def execWebClear (s : State) : Result := .next (act none clearReport s)

/-- GATE_ARRIVAL (R150). -/
def execGateArrival (s : State) : Result :=
  .next (act none (fun s => { s with sort.lane := reachNext s.sort.lane }) s)

/-- DELIVERY_CONFIRMATION (R151). -/
def execDeliveryConfirmation (bin : Fin 16) (s : State) : Result := .next (act none (confirm bin) s)

/-- SORTER_DEADLINE (R154). -/
def execSorterDeadline (s : State) : Result :=
  .next (act none (fun s => expireLane s.sort.lane.length (reachDeadline s)) s)

/-- KEY_SCAN_SAMPLE (R158, R160). -/
def execKeyScanSample (pressed : BitVec 16) (s : State) : Result :=
  .next (act none (fun s =>
    let r := scanKeys pressed s.sort.keys
    r.2.foldl (fun s b => keyEvent b s) { s with sort.keys := r.1 }) s)

/-- LAMP_BLINK_TOGGLE (R161). -/
def execLampBlinkToggle (rate : BlinkRate) (s : State) : Result :=
  .next (act none (fun s => match rate with
    | .hz1 => { s with sort.blink1 := !s.sort.blink1 }
    | .hz4 => { s with sort.blink4 := !s.sort.blink4 }) s)

end Sys2Proof.Machine
end

