-- ==== Sys2Proof/Machine/Registers.lean ====
section
/-! DEFINITION. The meanings of the register window's commands: AREA, CONTROL and STATUS (R1 to R3), GO, STOP, LOAD_SETUP
and NUDGE (R180, R181, R25, R8). -/

namespace Sys2Proof.Machine

/-- The base a written value gives: its 16 low-order bits ignored (R1). -/
def baseOf (value : Long) : Long := value &&& 0xFFFFFFFFFFFF0000

/-- A write to AREA is taken now (R1). -/
def areaTaken (s : State) : Bool :=
  s.eng.state == .stopped && s.setup.state != .loading && s.plan.table.all (fun c => c.isNone)

/-- A taken write: a base of 0 leaves AREA not set and ends what the intake unit has on the link; another makes AREA set,
loads the cell poll timer and writes the whole status block (R1, R6, R8). A move to another base that is not 0 leaves a cell
read that is out, an answer owed, slot writes that wait and a sweep as they are, and they go on at the new base: the model's
choice, as what a base of 0 ends is, log entry 14. -/
def takeArea (base : Long) (s : State) : State :=
  if base = 0 then
    { s with link.area := 0, link.areaSet := false, link.waiting := [], intake.timer := none, intake.sweep := none
             intake.cellRead := false, intake.cellOwed := false }
  else writeBlock (loadTimer { s with link.area := base, link.areaSet := true })

/-- AREA_WRITE (R1). -/
def execAreaWrite (value : Long) (s : State) : Result :=
  .next (act none (fun s => if areaTaken s then takeArea (baseOf value) s else raiseRefused s) s)

/-- GO is taken now (R2). -/
def goTaken (s : State) : Bool := s.eng.state == .stopped && s.setup.state == .valid && s.link.areaSet

/-- GO (R180). -/
def execGo (jam : Bool) (s : State) : Result :=
  .next (act none (fun s => if goTaken s then enterRunning jam s else raiseRefused s) s)

/-- STOP: RUNNING to STOPPING with the pending switch flag cleared and no further take of the running sweep, and on to STOPPED
at once where the map holds no FRAME and no SPLICE; PAUSED to STOPPED (R181, R129, R10, R184, R63). -/
def stopEngine (s : State) : State :=
  match s.eng.state with
  | .running => clearReport { dropCandidates (setEngine .stopping s) with plan.switchFlag := false }
  | .paused => enterStopped s
  | _ => raiseRefused s

/-- STOP (R181). -/
def execStop (s : State) : Result := .next (act none stopEngine s)

/-- LOAD_SETUP is taken now (R2). -/
def loadTaken (s : State) : Bool := s.eng.state == .stopped && s.link.areaSet && s.setup.state != .loading

/-- LOAD_SETUP (R25). -/
def execLoadSetup (s : State) : Result :=
  .next (act none (fun s => if loadTaken s then startLoad s else raiseRefused s) s)

/-- NUDGE (R2, R8). -/
def execNudge (s : State) : Result :=
  .next (act none (fun s => if moving s then loadTimer (startSweep s) else raiseRefused s) s)

/-- REFUSED_CONTROL_VALUE (R2). -/
def execRefusedControlValue (_value : Word) (s : State) : Result := .next (act none raiseRefused s)

/-- IGNORED_REGISTER_WRITE (R3): nothing changes. -/
def execIgnoredRegisterWrite (_value : Word) (s : State) : Result := .next (act none id s)

/-- A read of STATUS: the word as it stands, and in the same act the causes and the count cleared (R3). -/
def readStatus (s : State) : State :=
  { s with link.readData := statusWord s, link.causes := Causes.clear, link.unreported := 0 }

/-- STATUS_READ (R3): readable in HALTED, and answered 0 while the reset line is held (R189). -/
def execStatusRead (s : State) : Result :=
  .next (if s.eng.hold = .released then (if live s then perform none readStatus s else readStatus (clearOut s))
    else { clearOut s with link.readData := 0 })

/-- A read of the load in progress completes; where it ends the load, the returns that wait for it begin (R25, R28, R176). -/
def setupRead (result : Option (BitVec 64)) (s : State) : State :=
  match s.setup.cursor with
  | some f => returnsAfterLoad (evalFetch (loadRead f result s))
  | none => s

/-- SETUP_READ_COMPLETE (R25, R28); a read of an abandoned load, or an arrival with no load in progress, is discarded (R28,
R191). -/
def execSetupReadComplete (result : Option (BitVec 64)) (s : State) (stale : Bool := false) : Result :=
  .next (act none (fun s => if stale then s else setupRead result s) s)

/-- STATUS_BLOCK_WRITE_ERROR (R187): HALTED, unless the write was issued before a reset. -/
def execStatusBlockWriteError (beforeReset : Bool) (s : State) : Result :=
  .next (act none (fun s => if beforeReset then s else enterHalted s) s)

end Sys2Proof.Machine
end

