-- ==== Sys2Proof/Machine/Resets.lean ====
section
/-! DEFINITION. The three reset kinds (R189 to R191, with every owner's rule), and the commands that bring them. -/

namespace Sys2Proof.Machine

/-- A state after a reset with the levels that outside lines drive, and the queue, as they stand. -/
def keepPins (s r : State) : State :=
  { r with paper.magA.present := s.paper.magA.present, paper.magB.present := s.paper.magB.present
           line.webReady := s.line.webReady, cut.home := s.cut.home, cut.jam := s.cut.jam, pending := s.pending }

/-- What holds the part once the supply has come up, stable or not yet: the line where it is held, whose assertion is then
part of the power-on reset, and the supply until it is stable (R189). -/
def holdOfSupply (stable : Bool) : ResetHold → ResetHold
  | .released | .supply => if stable then .released else .supply
  | .pin | .powerOn | .supplyLine => if stable then .powerOn else .supplyLine

/-- What holds the part once the line is asserted (R189). -/
def holdOfAssert : ResetHold → ResetHold
  | .released | .pin => .pin
  | .powerOn => .powerOn
  | .supply | .supplyLine => .supplyLine

/-- What holds the part once the line is released (R189). -/
def holdOfRelease : ResetHold → ResetHold
  | .released | .pin | .powerOn => .released
  | .supply | .supplyLine => .supply

/-- The last reset kind after a pin reset: POWER where it is taken as part of a power-on reset (R189). -/
def kindOfPin : ResetHold → ResetKind
  | .released | .pin => .pin
  | .powerOn | .supply | .supplyLine => .power

/-- Power-on values, and the part held while the supply is not stable or the line is held (R189). -/
def powerOn (stable : Bool) (s : State) : State :=
  { keepPins s State.reset with eng.hold := holdOfSupply stable s.eng.hold }

/-- A pin reset: the setup store kept, everything else at its power-on value (R189, R191). -/
def pinValues (s : State) : State :=
  { keepPins s State.reset with setup := cutLoad s.setup, eng.resetKind := kindOfPin s.eng.hold }

/-- The reset line asserted: the pin reset taken, and held (R189). -/
def assertReset (s : State) : State :=
  { pinValues s with eng.hold := holdOfAssert s.eng.hold }

/-- The reset line released: the part starts from its values after the reset, once the supply is stable (R189). -/
def releaseReset (s : State) : State :=
  { pinValues s with eng.hold := holdOfRelease s.eng.hold }

/-- The state a soft reset leaves, before LOW is evaluated and its timer loaded (R190, R191, R164, R32). -/
def softValues (s : State) : State :=
  { keepPins s State.reset with
    link := { Link.reset with area := s.link.area, areaSet := s.link.areaSet, readData := s.link.readData }
    setup := cutLoad s.setup
    paper := { s.paper with target := none, timer := none }
    sort := { Sorter.reset with bins := s.sort.bins.map softResetBin, rejectCount := s.sort.rejectCount
                                rejectFull := s.sort.rejectFull }
    eng := { Engine.reset with resetKind := .soft } }

/-- A soft reset: LOW against the empty table, every cause clear, the cell poll timer loaded with AREA set, and then the
whole status block written (R32, R3, R8, R6). -/
def softReset (s : State) : State :=
  let s1 := { evalLow (softValues s) with link.causes := Causes.clear, link.dirty := [] }
  writeBlock (pollTimer s1)

/-- SOFT_RESET (R190): taken in every engine state but HALTED. -/
def execSoftReset (s : State) : Result := .next (if live s then softReset s else clearOut s)

/-- POWER_ON_RESET (R189). -/
def execPowerOnReset (s : State) (stable : Bool := true) : Result := .next (powerOn stable s)

/-- PIN_RESET, the release of the reset line (R189). -/
def execPinReset (s : State) : Result := .next (releaseReset s)

/-- RESET_LINE_ASSERTED (R189). -/
def execResetLineAsserted (s : State) : Result := .next (assertReset s)

end Sys2Proof.Machine
end

