-- ==== Sys2Proof/Machine/Slots.lean ====
section
/-! DEFINITION. The meanings of the intake unit's commands: sweeps, requests, takes, returns, notification and slot write
faults (R8 to R22, R186). -/

namespace Sys2Proof.Machine

/-- SWEEP_TIMER_EXPIRY (R8). -/
def execSweepTimerExpiry (s : State) : Result :=
  .next (act none (fun s => if moving s && s.intake.timer.isSome then startSweep (loadTimer s) else s) s)

/-- The cell poll runs: STOPPED or PAUSED with AREA set (R8). -/
def polling (s : State) : Bool :=
  (s.eng.state == .stopped || s.eng.state == .paused) && s.link.areaSet && s.intake.timer.isSome

/-- CELL_POLL_EXPIRY (R8): merged into a sweep that still runs. -/
def execCellPollExpiry (s : State) : Result :=
  .next (act none (fun s =>
    if polling s then (if s.intake.sweep.isSome then loadTimer s else readCell (loadTimer s)) else s) s)

/-- SWEEP_STEP_COMPLETE (R9). -/
def execSweepStepComplete (reads : List SlotRead) (room : Option Nat) (s : State) : Result :=
  .next (act room (sweepStep reads) s)

/-- HOLD (R17). -/
def execHold (slot : Fin 64) (number : Byte) (s : State) : Result := .next (act none (answerRequest .hold slot 1 number) s)

/-- RELEASE (R17). -/
def execRelease (slot : Fin 64) (number : Byte) (s : State) : Result :=
  .next (act none (answerRequest .release slot 2 number) s)

/-- CANCEL (R17). -/
def execCancel (slot : Fin 64) (number : Byte) (s : State) : Result :=
  .next (act none (answerRequest .cancel slot 3 number) s)

/-- SLOT_REQUEST_NOT_APPLICABLE (R16). -/
def execSlotRequestNotApplicable (slot : Fin 64) (code : Byte) (number : Byte) (s : State) : Result :=
  .next (act none (answerRequest .other slot code number) s)

/-- TAKE_READS_COMPLETE (R12 to R15); reads of an abandoned take, or an arrival with no take in progress, are discarded (R10,
R191). -/
def execTakeReadsComplete (result : TakeResult) (room : Option Nat) (s : State) (stale : Bool := false) : Result :=
  .next (act room (fun s => if stale then s else takeReads result s) s)

/-- SLOT_WRITE_FAULT (R186). -/
def execSlotWriteFault (slot : Fin 64) (offset : BitVec 12) (standing : WriteStanding) (s : State) : Result :=
  .next (act none (slotWriteError slot offset.toNat standing) s)

/-- IDLE_TIMER_EXPIRY (R22). -/
def execIdleTimerExpiry (s : State) : Result :=
  .next (act none (fun s =>
    if s.link.idleTimer.isSome then
      let s1 := { s with link.idleTimer := none }
      if 0 < s.link.unreported then raiseCompleted s1 else s1
    else s) s)

/-- SLOT_RETURN (R21). -/
def execSlotReturn (slot : Fin 64) (room : Option Nat) (s : State) : Result := .next (act room (slotReturn slot) s)

/-- MACHINE_REQUEST_CELL_READ (R7); a read of an abandoned access is discarded (R191). -/
def execMachineRequestCellRead (result : CellResult) (s : State) (stale : Bool := false) : Result :=
  .next (act none (fun s => if stale then s else cellReadDone result s) s)

end Sys2Proof.Machine
end

