-- ==== Sys2Proof/Machine/Dispatch.lean ====
section
/-! DEFINITION. One arm for each command of the table, in the table's order. -/

namespace Sys2Proof.Machine

def exec (i : Instr) (s : State) : Host.Outcome State Fault Refusal :=
  match i with
  | .areaWrite value => Sys2Proof.Machine.execAreaWrite value s
  | .go jam => Sys2Proof.Machine.execGo jam s
  | .stop => Sys2Proof.Machine.execStop s
  | .loadSetup => Sys2Proof.Machine.execLoadSetup s
  | .softReset => Sys2Proof.Machine.execSoftReset s
  | .nudge => Sys2Proof.Machine.execNudge s
  | .refusedControlValue value => Sys2Proof.Machine.execRefusedControlValue value s
  | .ignoredRegisterWrite value => Sys2Proof.Machine.execIgnoredRegisterWrite value s
  | .statusRead => Sys2Proof.Machine.execStatusRead s
  | .powerOnReset stable => Sys2Proof.Machine.execPowerOnReset s stable
  | .pinReset => Sys2Proof.Machine.execPinReset s
  | .sweepTimerExpiry => Sys2Proof.Machine.execSweepTimerExpiry s
  | .cellPollExpiry => Sys2Proof.Machine.execCellPollExpiry s
  | .sweepStepComplete reads room => Sys2Proof.Machine.execSweepStepComplete reads room s
  | .hold slot number => Sys2Proof.Machine.execHold slot number s
  | .release slot number => Sys2Proof.Machine.execRelease slot number s
  | .cancel slot number => Sys2Proof.Machine.execCancel slot number s
  | .slotRequestNotApplicable slot code number => Sys2Proof.Machine.execSlotRequestNotApplicable slot code number s
  | .takeReadsComplete result room stale => Sys2Proof.Machine.execTakeReadsComplete result room s stale
  | .slotWriteFault slot offset standing => Sys2Proof.Machine.execSlotWriteFault slot offset standing s
  | .statusBlockWriteError beforeReset => Sys2Proof.Machine.execStatusBlockWriteError beforeReset s
  | .machineRequestCellRead result stale => Sys2Proof.Machine.execMachineRequestCellRead result s stale
  | .loadPaper mag width surface tone length lot => Sys2Proof.Machine.execLoadPaper mag width surface tone length lot s
  | .clearPaper mag => Sys2Proof.Machine.execClearPaper mag s
  | .resume jam => Sys2Proof.Machine.execResume jam s
  | .changeoverNow => Sys2Proof.Machine.execChangeoverNow s
  | .releaseBin bin => Sys2Proof.Machine.execReleaseBin bin s
  | .machineRequestNotApplicable code => Sys2Proof.Machine.execMachineRequestNotApplicable code s
  | .idleTimerExpiry => Sys2Proof.Machine.execIdleTimerExpiry s
  | .slotReturn slot room => Sys2Proof.Machine.execSlotReturn slot room s
  | .setupReadComplete result stale => Sys2Proof.Machine.execSetupReadComplete result s stale
  | .presentSensorInactive mag => Sys2Proof.Machine.execPresentSensorInactive mag s
  | .presentSensorActive mag => Sys2Proof.Machine.execPresentSensorActive mag s
  | .changeDone => Sys2Proof.Machine.execChangeDone s
  | .changeoverTimerExpiry => Sys2Proof.Machine.execChangeoverTimerExpiry s
  | .lineStrobe paper supplyGood => Sys2Proof.Machine.execLineStrobe paper supplyGood s
  | .webReadyRise => Sys2Proof.Machine.execWebReadyRise s
  | .webReadyFall => Sys2Proof.Machine.execWebReadyFall s
  | .strobeSupervisionExpiry => Sys2Proof.Machine.execStrobeSupervisionExpiry s
  | .ratePeriod => Sys2Proof.Machine.execRatePeriod s
  | .punchEnd => Sys2Proof.Machine.execPunchEnd s
  | .pulseEnd element channel => Sys2Proof.Machine.execPulseEnd element channel s
  | .lampBlinkToggle rate => Sys2Proof.Machine.execLampBlinkToggle rate s
  | .lineReadIssue => Sys2Proof.Machine.execLineReadIssue s
  | .lineReadComplete place result => Sys2Proof.Machine.execLineReadComplete place result s
  | .knifeHomeSensor active => Sys2Proof.Machine.execKnifeHomeSensor active s
  | .knifeTimerExpiry => Sys2Proof.Machine.execKnifeTimerExpiry s
  | .mark => Sys2Proof.Machine.execMark s
  | .jamSensorActive => Sys2Proof.Machine.execJamSensorActive s
  | .webClear => Sys2Proof.Machine.execWebClear s
  | .gateArrival => Sys2Proof.Machine.execGateArrival s
  | .deliveryConfirmation bin => Sys2Proof.Machine.execDeliveryConfirmation bin s
  | .sorterDeadline => Sys2Proof.Machine.execSorterDeadline s
  | .keyScanSample pressed => Sys2Proof.Machine.execKeyScanSample pressed s
  | .resetLineAsserted => Sys2Proof.Machine.execResetLineAsserted s

end Sys2Proof.Machine
end

