-- ==== Sys2Proof/WellFormed.lean ====
section
/-! DEFINITION. The operands the outside can deliver with each command. Every check is one the meaning does not need: exec
answers on any operands (log entry 2). -/

namespace Sys2Proof

/-- The offsets of the slot fields the part writes: token, answer, results, price records, entry results (1.2.1, R4). -/
def slotFieldWritten (offset : Nat) : Bool :=
  [0x000, 0x014, 0x015, 0x020, 0x021, 0x022, 0x023, 0x024].contains offset
    || (decide (0x040 ≤ offset) && decide (offset < 0x060) && (offset % 4 == 0))
    || (decide (0x060 ≤ offset) && decide (offset < 0x080) && (offset % 4 == 0))
    || (decide (0x900 ≤ offset) && decide (offset < 0xD00) && decide (offset % 16 ≤ 8) && (offset % 2 == 0))

def TakeResult.wellFormed : TakeResult → Bool
  | .data d => d.entries.length == min d.count.toNat 64
  | .busError offset => decide (offset < 0x900)

def CellResult.wellFormed : CellResult → Bool
  | .token _ => true
  | .busError offset => decide (offset < 32)

/-- The command's operands are ones the outside can deliver. -/
def Instr.wellFormed : Instr → Bool
  | .refusedControlValue v => !([1, 2, 3, 4, 5].contains v.toNat)
  | .sweepStepComplete reads _ => reads.length == 0 || reads.length == 64
  | .slotRequestNotApplicable _ code _ => code == 0 || decide (3 < code.toNat)
  | .takeReadsComplete r _ _ => r.wellFormed
  | .slotWriteFault _ offset _ => slotFieldWritten offset.toNat
  | .machineRequestCellRead r _ => r.wellFormed
  | .machineRequestNotApplicable code => code == 0 || decide (5 < code.toNat)
  | .pulseEnd element _ => decide (element.toNat < 3072)
  | .lineReadComplete _ (some bytes) => (bytes.length % 3 == 0) && decide (bytes.length ≤ 9216)
  | .lineReadComplete _ none => true
  | .areaWrite _ => true
  | .go _ => true
  | .stop => true
  | .loadSetup => true
  | .softReset => true
  | .nudge => true
  | .ignoredRegisterWrite _ => true
  | .statusRead => true
  | .powerOnReset _ => true
  | .pinReset => true
  | .sweepTimerExpiry => true
  | .cellPollExpiry => true
  | .hold _ _ => true
  | .release _ _ => true
  | .cancel _ _ => true
  | .statusBlockWriteError _ => true
  | .loadPaper _ _ _ _ _ _ => true
  | .clearPaper _ => true
  | .resume _ => true
  | .changeoverNow => true
  | .releaseBin _ => true
  | .idleTimerExpiry => true
  | .slotReturn _ _ => true
  | .setupReadComplete _ _ => true
  | .presentSensorInactive _ => true
  | .presentSensorActive _ => true
  | .changeDone => true
  | .changeoverTimerExpiry => true
  | .lineStrobe _ _ => true
  | .webReadyRise => true
  | .webReadyFall => true
  | .strobeSupervisionExpiry => true
  | .ratePeriod => true
  | .punchEnd => true
  | .lampBlinkToggle _ => true
  | .lineReadIssue => true
  | .knifeHomeSensor _ => true
  | .knifeTimerExpiry => true
  | .mark => true
  | .jamSensorActive => true
  | .webClear => true
  | .gateArrival => true
  | .deliveryConfirmation _ => true
  | .sorterDeadline => true
  | .keyScanSample _ => true
  | .resetLineAsserted => true

end Sys2Proof
end

