-- ==== Sys2Proof/Safety.lean ====
section
/-! DEFINITION. What a sound state of the part is: the laws L2 to L12 the manual states of its records, the bounds of its
lists and counters, and how the engine state ties the blocks together. Each is a property that every step keeps. -/

namespace Sys2Proof.Machine

/-! ## Orders (chapter 3) -/

/-- L2, L3 and the remake list's bound, for one order: C = g + f + t + a, used is at most 3 × C, an entry's pending remakes
are at most its t, and every remake is of an entry of the order (R50, R52, R56). -/
structure Order.Counted (o : Order) : Prop where
  conserved : ∀ e ∈ o.entries, e.copies = e.g + e.f + e.t + e.a
  budget : ∀ e ∈ o.entries, e.used ≤ 3 * e.copies
  pending : ∀ i e, o.entries[i]? = some e → o.remakes.count i ≤ e.t
  remakes : ∀ i ∈ o.remakes, i < o.entries.length

/-- What an order's state says of its counts (R45, R47). -/
def Order.agrees (o : Order) : Bool :=
  match o.state with
  | .queued | .waitPaper | .active | .held => decide (0 < stillToExpose o)
  | .draining | .cancelling => decide (stillToExpose o = 0) && decide (0 < inFlight o)
  | .complete => decide (stillToExpose o = 0) && decide (inFlight o = 0)

/-- The held-from state is present only while HELD, and is QUEUED, WAIT_PAPER or ACTIVE (3.1). -/
def Order.heldSound (o : Order) : Bool :=
  match o.state, o.heldFrom with
  | .held, some .queued | .held, some .waitPaper | .held, some .active => true
  | .held, _ => false
  | _, none => true
  | _, some _ => false

/-- A cancelled order is CANCELLING or COMPLETE, a CANCELLING order is cancelled, and a detached order is CANCELLING (R47,
R48). -/
def Order.cancelSound (o : Order) : Bool :=
  (!o.cancelled || o.state == .cancelling || o.state == .complete) && (o.state != .cancelling || o.cancelled)
    && (!o.detached || o.state == .cancelling)

structure Order.Sound (o : Order) : Prop where
  counted : o.Counted
  agrees : o.agrees = true
  heldSound : o.heldSound = true
  cancelSound : o.cancelSound = true

/-- The commands that wait are ones the outside can deliver, and so are the values of a take past its TAKEN write. -/
structure CommandsSound (s : State) : Prop where
  pending : ∀ c ∈ s.pending, c.wellFormed = true
  taken : ∀ w slot d, s.intake.sweep = some w → w.taken = some (slot, d) → (TakeResult.data d).wellFormed = true

/-- Every order in the table is sound, a bad frame's budget is compared with a limit of at most 3 (2.2.2), and the values an
order is formed from are ones the outside can deliver. -/
structure OrdersSound (s : State) : Prop where
  sound : ∀ o, some o ∈ s.plan.table → o.Sound
  limit : s.setup.params.remakeLimit ≤ 3
  commands : CommandsSound s

/-! ## Slots (L7) -/

/-- The slots that a sweep has a take for, begun or to come. -/
def takeSlots (s : State) : List Nat :=
  match s.intake.sweep with
  | none => []
  | some w => w.taking.toList ++ (w.taken.map (·.1)).toList ++ w.candidates

def heldSlots (s : State) : List Nat := s.plan.table.filterMap (Option.map Order.slot)

/-- L7: sixteen contexts, no two orders of one slot, no take in a slot an order stands for, and takes only in step 4, one at
a time and with no candidate left over beside none in progress (R42, R11, R9). -/
structure SlotsDistinct (s : State) : Prop where
  contexts : s.plan.table.length = Config.contexts
  distinct : (heldSlots s ++ takeSlots s).Nodup
  scans : ∀ w, s.intake.sweep = some w → (w.scans.map SlotScan.slot).Nodup
  four : ∀ w, s.intake.sweep = some w → w.step ≠ .four → w.taking = none ∧ w.taken = none ∧ w.candidates = []
  idle : ∀ w, s.intake.sweep = some w → w.step = .four → w.taking = none → w.taken = none → w.candidates = []
  one : ∀ w, s.intake.sweep = some w → w.taking.isSome = true → w.taken = none

/-! ## Lists and counters -/

/-- L6, L10, L11, L12 and the first half of L1, with the ranges of the other lists and counters (R137, R148, R70, R147,
R114, R116, R157, R22, R106, R158, 8.1). -/
structure Bounded (s : State) : Prop where
  lane : s.sort.lane.length ≤ Config.lanePrints
  bins : s.sort.bins.length = 15
  bin : ∀ b, 1 ≤ b → b ≤ 15 → (getBin s b).good + inLane s b ≤ Config.binCapacity
  reject : s.sort.rejectCount ≤ Config.rejectCapacity
  full : s.sort.rejectFull = decide (s.sort.rejectCount = Config.rejectCapacity)
  keys : ∀ k ∈ s.sort.keys, k.run < 3
  reads : s.fetch.reads.length ≤ Config.lineReads
  buffer : s.fetch.buffer.length + s.fetch.reads.length ≤ Config.bufferLines
  map : s.web.map.length ≤ Config.mapEntries
  lastGap : s.web.map.length = Config.mapEntries → endsInGap s = true
  offset : -Config.offsetLimit ≤ s.cut.offset ∧ s.cut.offset ≤ Config.offsetLimit
  misses : s.cut.misses ≤ 3
  breaks : s.line.breakCount < Config.paperBreak
  unreported : s.link.unreported ≤ Config.slots

/-! ## The setup store (chapter 2) -/

/-- A parameter is in its range, or is one of the power-on values that no load has written yet (R26, 2.2.2). -/
def paramSound (x : Params) (p : Param) : Bool :=
  (decide (p.range.1 ≤ getParam p x) && decide (getParam p x ≤ p.range.2)) || getParam p x == getParam p Params.reset

def breakSound (b : Break) : Bool :=
  (decide (2 ≤ b.minimum ∧ b.minimum ≤ 1500) || b.minimum == 0) && decide (b.price ≤ 99999)

def productSound (r : Product) : Bool :=
  decide (r.breakCount ≤ 4) && decide (r.basePrice ≤ 99999) && r.breaks.all breakSound

/-- Every clamped value of the store lies in its range and the tables stand in their one form (R26, R30). -/
structure SetupSound (x : Setup) : Prop where
  params : ∀ p, paramSound x.params p = true
  discounts : ∀ d ∈ x.discounts, d ≤ 5000
  fee : x.handlingFee ≤ 99999
  rush : x.rushSurcharge ≤ 10000
  tax : x.taxRate ≤ 5000
  products : ∀ r ∈ x.products, productSound r = true
  tones : tableWf 0 0 x.tones = true ∧ ∀ k, tableGet 0 x.tones k ≤ 4095
  uniformity : tableWf 1024 0 x.uniformity = true ∧ ∀ k, 768 ≤ tableGet 1024 x.uniformity k ∧ tableGet 1024 x.uniformity k ≤ 1279
  clamps : x.clampCount ≤ 65535

/-- A field of the setup area, its indexes inside their tables (2.2). -/
def SetupField.inArea : SetupField → Bool
  | .windowBase w | .windowLength w | .windowEnable w => decide (w < 4)
  | .discount c => decide (c < 8)
  | .productDefined p | .productWidth p | .productLength p | .productBreaks p | .productPrice p => decide (p < 32)
  | .breakMinimum p k | .breakPrice p k => decide (p < 32) && decide (k < 4)
  | .tone i => decide (i < 3072)
  | .uniformity i => decide (i < 9216)
  | .revision | .param _ | .handlingFee | .rushSurcharge | .taxRate | .fullScale _ => true

/-! ## The engine state and the blocks (chapter 11) -/

/-- The engine is RUNNING, STOPPING or PAUSED. -/
def underway (s : State) : Bool := moving s || s.eng.state == .paused

/-- What the engine state says of the other blocks (11.1, R8, R24, R37, R41, R98, R105, R108, R112, R131). -/
structure EngineSound (s : State) : Prop where
  run : runHigh s = moving s
  ready : s.line.supervision.isSome = (s.line.web == .ready)
  dark : s.line.web ≠ .ready → s.line.head = []
  change : s.paper.target.isSome = true → moving s = true
  changeTimer : s.paper.timer.isSome = s.paper.target.isSome
  valid : underway s = true → s.setup.state = .valid ∧ s.link.areaSet = true
  loading : s.setup.cursor.isSome = (s.setup.state == .loading)
  loadStopped : s.setup.state = .loading → s.eng.state = .stopped
  timer : s.intake.timer.isSome = (s.link.areaSet && s.eng.state != .halted)
  flag : s.plan.switchFlag = true → s.eng.state = .running
  map : moving s = false → s.eng.state ≠ .halted → s.web.map = [] ∧ s.web.hold = none ∧ s.cut.cursor = none
  fetch : s.eng.state = .paused ∨ s.eng.state = .halted →
    s.fetch.items = [] ∧ s.fetch.buffer = [] ∧ s.fetch.cursor = none
  watch : s.supply.watching = true → moving s = true
  stroke : s.cut.timer.isSome = true → s.cut.knife = .stroke
  solenoid : s.cut.solenoid = true → s.cut.knife = .stroke ∧ s.cut.leftHome = false

/-! ## The light (chapter 5) -/

/-- A width is 0 or between P_min and P_max (R90, L4). -/
def widthSound (x : Setup) (p : Nat) : Prop := p = 0 ∨ (x.params.pMin ≤ p ∧ (p : Int) ≤ pulseCeiling x)

/-- L4: every pulse on any element is 0 or between P_min and P_max (R90). -/
def LightSound (s : State) : Prop := ∀ x ∈ s.line.head, ∀ c, widthSound s.setup (x.get c)

/-! ## Accesses -/

/-- A slot write goes to a field the part writes, of one of the 64 slots (R4, 1.2.1). -/
def SlotWrite.Confined (w : SlotWrite) : Prop :=
  w.slot < Config.slots ∧ slotFieldWritten w.offset = true ∧ w.offset + w.size ≤ 0xD00

/-- An output that is no access, an access inside the 320 KiB job area, or a read inside one enabled window (R4, R67). -/
def Output.Confined (s : State) : Output → Prop
  | .ratePulse => True
  | .read addr size =>
    (∃ offset, offset + size ≤ 0x50000 ∧ addr = jobAddr s offset)
      ∨ (∃ start, addr = busAddr start ∧ s.setup.windows.any (insideWindow start size) = true)
  | .write addr size _ => ∃ offset, offset + size ≤ 0x50000 ∧ addr = jobAddr s offset

/-- Every access goes where it may: what the step has put out, the slot writes that wait, and the slots, print entries and
setup fields that accesses are formed from (R4, R66, R67, 2.2.1). -/
structure AccessSound (s : State) : Prop where
  out : ∀ o ∈ s.out, o.Confined s
  waiting : ∀ w ∈ s.link.waiting, w.Confined
  orders : ∀ o, some o ∈ s.plan.table → o.slot < Config.slots ∧ o.entries.length ≤ 64
  takes : ∀ k ∈ takeSlots s, k < Config.slots
  scans : ∀ w, s.intake.sweep = some w → ∀ x ∈ w.scans, x.slot < Config.slots
  requests : ∀ w, s.intake.sweep = some w → ∀ q ∈ w.requests, q.slot < Config.slots
  cursor : ∀ f, s.setup.cursor = some f → f.inArea = true
  breaks : ∀ r ∈ s.setup.products, r.breakCount ≤ 4
  commands : CommandsSound s

/-! ## What a command answers -/

/-- c answers a next state: e, with the takes and slot writes the intake unit and the link carry on in the same step, and
the status block fields that the step changed written. -/
def Answers (c : Instr) (room : Option Nat) (s e : State) : Prop :=
  exec c s = .next (publish s (progress room e))

/-- No slot write waits and no take stands between its TAKEN write and its verdict. -/
structure Quiet (s : State) : Prop where
  waiting : s.link.waiting = []
  taken : ∀ w, s.intake.sweep = some w → w.taken = none

/-! ## Slot writes (R20) -/

/-- The slot writes that wait once these have taken their places, in this order. -/
def waitingWith (ws : List SlotWrite) (s : State) : List SlotWrite :=
  (ws.foldl (fun s w => pushWrite w.slot w.offset w.size w.value s) s).link.waiting

/-- A slot write as it goes out. -/
def wroteSlot (s : State) (w : SlotWrite) : Output := .write (jobAddr s (0x10000 + w.slot * 0x1000 + w.offset)) w.size w.value

/-- The order state mirror of this slot (R20). -/
def mirrorWrite (slot : Nat) (st : OrderState) : SlotWrite := { slot := slot, offset := 0x022, size := 1, value := st.code }

/-- Result k of this slot as the entry stands: g, a, budget remakes used, jam remakes shown saturated, summary (1.2.1, R20;
in offset order, log entry 48). -/
def resultWrites (slot k : Nat) (e : Entry) : List SlotWrite :=
  [⟨slot, 0x900 + 16 * k, 2, e.g⟩, ⟨slot, 0x902 + 16 * k, 2, e.a⟩, ⟨slot, 0x904 + 16 * k, 2, e.used⟩,
   ⟨slot, 0x906 + 16 * k, 2, min e.jams 65535⟩, ⟨slot, 0x908 + 16 * k, 1, bit e.unverified + 2 * bit e.misrouted⟩]

/-- The results of the entries whose copies a cancellation of the order moves to abandoned (R47, R20; lowest entry first, log
entry 48). -/
def abandonedWrites (o : Order) : List SlotWrite :=
  o.entries.zipIdx.flatMap (fun x =>
    if 0 < x.1.t then resultWrites o.slot x.2 { x.1 with a := x.1.a + x.1.t, t := 0 } else [])

/-- The writes of a reservation: the bins used count, then the list as one little-endian field of 15 bytes (R64; in this
order, log entry 48). -/
def binsWrites (slot : Nat) (bins : List Nat) : List SlotWrite :=
  [⟨slot, 0x023, 1, bins.length⟩, ⟨slot, 0x024, 15, bins.foldr (fun b rest => b + 256 * rest) 0⟩]

/-! ## Words for the next states -/

/-- The reads of the 64 tokens that begin a sweep, none while AREA is not set (R9, R1). -/
def tokenReads (s : State) : List Output :=
  if s.link.areaSet then (List.range 64).map (fun i => .read (jobAddr s (0x10000 + i * 0x1000)) 4) else []

/-- The engine has entered RUNNING with no jam: RUN high, the line-rate setting loaded, a FAULTED knife that is home
released, the timer loaded and a sweep running; a write of the engine state is due (R180, R98, R8, R136, R6). -/
def runningEntered (s : State) : State :=
  { clearOut s with
    eng.state := .running
    line.web := .ramping, line.prescale := s.setup.params.prescale, line.divisor := s.setup.params.divisor
    cut.jam := false, cut.knife := if s.cut.knife = .faulted ∧ s.cut.home = true then .idle else s.cut.knife
    intake.timer := some s.setup.params.sweepPeriod, intake.sweep := some (s.intake.sweep.getD Sweep.begun)
    link.dirty := [0x000]
    out := .ratePulse :: (if s.intake.sweep = none then tokenReads s else []) }

/-- RUN has dropped: the head dark, no line of a frame in progress, supervision stopped, the paper-break count 0, the load
watch and the changeover ended, the mark cursor at nothing, no switch pending (R98, R105, R106, R112, R41, R138, R63). -/
def runDropped (s : State) : State :=
  { s with line.web := .idle, line.head := [], line.lineFrame := none, line.supervision := none, line.breakCount := 0
           supply.watching := false, supply.settle := 0, supply.strokeEnded := false
           paper.target := none, paper.timer := none, cut.cursor := none, plan.switchFlag := false }

/-- The cell poll timer on entering STOPPED or PAUSED: the sweep period with AREA set, stopped otherwise (R8). -/
def pollLoaded (s : State) : Option Nat := if s.link.areaSet then some s.setup.params.sweepPeriod else none

/-- The engine has entered STOPPED: RUN dropped, the paper behind the head counted as waste, the map emptied, the splice hold
clear and the cell poll timer loaded; a write of the engine state is due, and of the suspect count where it was not 0
(R181, R129, R8, R126). -/
def stoppedEntered (s : State) : State :=
  { runDropped s with
    eng.state := .stopped, web.map := [], web.hold := none, intake.timer := pollLoaded s
    web.waste := match s.web.map with
      | [] => s.web.waste
      | e :: _ => s.web.waste + (s.line.w - e.start)
    link.dirty := s.link.dirty ++ [0x000] ++ (if suspectCount s = 0 then [] else [0x178]) }

/-- The sweep after an access of the cell has ended: over where step 5 has no access of the cell left (R9). -/
def sweepEnded (s : State) : Option Sweep :=
  match s.intake.sweep with
  | some w => if w.step = .five ∧ s.intake.cellRead = false ∧ s.intake.cellOwed = false then none else some w
  | none => none

/-- The machine request cell answered with this code: the answer written, then the token ANSWERED (R7). -/
def cellAnswered (code : Nat) (s : State) : State :=
  { s with
    intake.cellOwed := false, intake.sweep := sweepEnded { s with intake.cellOwed := false }
    out := s.out ++ [.write (jobAddr s 0x214) 1 code, .write (jobAddr s 0x200) 4 2] }

/-- What an input line of this command does in every state: its level, and for a present sensor going inactive its magazine's
record; no other command carries one (R32, R34, R188). -/
def levelTaken (c : Instr) (s : State) : State :=
  match c with
  | .presentSensorInactive m => senseEmpty m s
  | .presentSensorActive m => setPresent m true s
  | .webReadyRise => { s with line.webReady := true }
  | .webReadyFall => { s with line.webReady := false }
  | .knifeHomeSensor active => { s with cut.home := active }
  | .jamSensorActive => { s with cut.jam := true }
  | _ => s

end Sys2Proof.Machine
end

