-- ==== Sys2Proof/Certificates/Slice0/Obligations.lean ====
section
/-! DEFINITION. The statements about the BP640 for the provers. -/

open Sys2Proof Sys2Proof.Machine

/-! ## The step and what every command's answer is made of -/

/-- The command at the front of the queue is the one that runs, on the state with the queue's rest; and every command, in
every state and on any operands, answers a next state. -/
def Obligations.StepRunsFrontCommand : Prop :=
  (∀ (c : Instr) (rest : List Instr) (s : State), s.pending = c :: rest → step s = exec c { s with pending := rest })
  ∧ (∀ (c : Instr) (s : State), (∃ t, exec c s = .next t) ∧ ∃ t, step s = .next t)

/-- On an empty queue one period of the 1 kHz timebase passes (log entry 13, the model's choice): SRT's clock rises by one
and every running millisecond timer falls by one, not below 0; a part that takes no events stays as it is. -/
def Obligations.EmptyQueueTicks : Prop :=
  ∀ s : State, s.pending = [] →
    (live s = true →
      step s = .next (publish s (progress none
        { clearOut s with
          sort.clock := s.sort.clock + 1, intake.timer := s.intake.timer.map (· - 1)
          link.idleTimer := s.link.idleTimer.map (· - 1), paper.timer := s.paper.timer.map (· - 1)
          cut.timer := s.cut.timer.map (· - 1) })))
    ∧ (live s = false → step s = .next (clearOut s))

/-- A slot write takes its place behind the others; a waiting write of the same field is merged into, and a waiting
RETURNED write of the slot stays the slot's last (R20, R21). What the intake unit and the link carry on within a step
(`progress`, log entry 3): with no take past its TAKEN write, the waiting slot writes that hold no RETURNED token go out
in their order and change nothing else, but for those of a COMPLETE order that is not detached while a setup load runs,
which wait for its end (R176; that answers to it wait with them is log entry 45); with nothing waiting it changes
nothing. -/
def Obligations.SlotWritesMergeAndGoOutInOrder : Prop :=
  (∀ (slot offset size value : Nat) (s : State),
     let after := (pushWrite slot offset size value s).link.waiting
     let w : SlotWrite := { slot := slot, offset := offset, size := size, value := value }
     w ∈ after
       ∧ (∀ x, x.slot ≠ slot ∨ x.offset ≠ offset → (x ∈ after ↔ x ∈ s.link.waiting))
       ∧ ((∀ x ∈ s.link.waiting, x.slot = slot → x.offset ≠ offset ∧ x.offset ≠ 0) → after = s.link.waiting ++ [w])
       ∧ (∀ before rest x, s.link.waiting = before ++ x :: rest →
           (∀ y ∈ before, y.slot = slot → y.offset ≠ offset ∧ y.offset ≠ 0) → x.slot = slot →
           (x.offset = offset → after = before ++ w :: rest)
           ∧ (x.offset ≠ offset → x.offset = 0 → after = before ++ w :: x :: rest)))
  ∧ (∀ s : State, (∀ w, s.intake.sweep = some w → w.taken = none) →
       ((∀ x ∈ s.link.waiting, x.offset ≠ 0) →
         let kept (x : SlotWrite) : Bool := s.setup.state == .loading &&
           (match (orderOfSlot s x.slot).bind (getOrder s) with
             | some o => o.state == .complete && !o.detached
             | none => false)
         progress none s =
           { s with link.waiting := s.link.waiting.filter kept
                    out := s.out ++ (if s.link.areaSet then (s.link.waiting.filter (fun x => !kept x)).map (fun x =>
                      Output.write (jobAddr s (0x10000 + x.slot * 0x1000 + x.offset)) x.size x.value) else []) })
       ∧ (s.link.waiting = [] → ∀ room, progress room s = s))

/-- The write-through of R6: while AREA is set and the part is live, a step writes each status block field that it
changed, also one that a change within the step has marked and that reads as before at its end, and no other field;
otherwise it writes none. That each is written once, with its value at the step's end, after the step's other accesses, is
the model's choice, log entry 27. The changes that mark a field: the engine state, the three fields of the fault record,
the overflow count. -/
def Obligations.ChangedFieldsAreWritten : Prop :=
  ∀ before s : State,
    (s.link.areaSet = true → live s = true →
      let changed := ((statusFields s).zip (statusFields before)).filter
        (fun x => x.1.value != x.2.value || s.link.dirty.contains x.1.offset)
      publish before s =
        { s with link.dirty := []
                 out := s.out ++ changed.map (fun x => .write (jobAddr s x.1.offset) x.1.size x.1.value) })
    ∧ (s.link.areaSet = false ∨ live s = false → publish before s = { s with link.dirty := [] })
    ∧ (∀ st, setEngine st s = { s with eng.state := st, link.dirty := s.link.dirty ++ [0x000] })
    ∧ (∀ kind slot addr, (recordFault kind slot addr s).link.dirty =
        s.link.dirty ++ (if s.link.causes.fault = true then [0x1A0] else [0x190, 0x191, 0x198]))

/-! ## Resets, HALTED and the register window -/

/-- A power-on reset leaves every value of the part as R189 and R191 give it after power-on; the levels of its input lines
and the queue are not the part's own and stand as they are, and the blink phases start off (the model's choice, log entry
7). The part is held while the supply is not yet stable, and while the reset line is held. A pin reset keeps the setup
store, INVALID if a load was cut off, and leaves everything else as a power-on reset does, with the last reset kind PIN,
or POWER where the line was asserted or held within a power-on reset; while the line is asserted the part is held in it
(how the standing of the line and of the supply is kept is log entry 23). -/
def Obligations.PowerOnAndPinResetValues : Prop :=
  ∀ s : State,
    let unstable : Bool := s.eng.hold == .supply || s.eng.hold == .supplyLine
    let line : Bool := s.eng.hold == .pin || s.eng.hold == .powerOn || s.eng.hold == .supplyLine
    let within : Bool := unstable || s.eng.hold == .powerOn
    let powered (hold : ResetHold) : State :=
      { State.reset with
        paper.magA.present := s.paper.magA.present, paper.magB.present := s.paper.magB.present
        line.webReady := s.line.webReady, cut.home := s.cut.home, cut.jam := s.cut.jam, pending := s.pending
        eng.hold := hold }
    let kept (hold : ResetHold) : State :=
      { powered hold with
        setup := { s.setup with cursor := none
                                state := if s.setup.state = .loading then .invalid else s.setup.state }
        eng.resetKind := if within then .power else .pin }
    exec (.powerOnReset true) s = .next (powered (if line then .powerOn else .released))
      ∧ exec (.powerOnReset false) s = .next (powered (if line then .supplyLine else .supply))
      ∧ exec .resetLineAsserted s =
          .next (kept (if unstable then .supplyLine else if within then .powerOn else .pin))
      ∧ exec .pinReset s = .next (kept (if unstable then .supply else .released))

/-- A soft reset, taken in every engine state but HALTED: what each owner keeps is kept, every other value is its value
after a power-on reset, every order bin that is not FREE is ATTENTION, LOW is compared with 400, and the whole status
block is written once where AREA is set. That the input levels are kept and the blink phases start off is log entry 7, and
that the word of the last STATUS read is kept is log entry 31 (the model's choices). -/
def Obligations.SoftResetValues : Prop :=
  ∀ s : State, live s = true → ∃ t, exec .softReset s = .next t
    ∧ clearOut t =
      { State.reset with
        link := { Link.reset with area := s.link.area, areaSet := s.link.areaSet, readData := s.link.readData }
        intake.timer := if s.link.areaSet then some s.setup.params.sweepPeriod else none
        setup := { s.setup with cursor := none
                                state := if s.setup.state = .loading then .invalid else s.setup.state }
        paper := { s.paper with
          target := none, timer := none
          magA.low := s.paper.magA.loaded && decide (s.paper.magA.remaining < 400)
          magB.low := s.paper.magB.loaded && decide (s.paper.magB.remaining < 400) }
        line.webReady := s.line.webReady, cut.home := s.cut.home, cut.jam := s.cut.jam
        sort := { Sorter.reset with
          bins := s.sort.bins.map (fun r =>
            { r with live := false, state := if r.state = .free then .free else .attention })
          rejectCount := s.sort.rejectCount, rejectFull := s.sort.rejectFull }
        eng.resetKind := .soft, pending := s.pending }
    ∧ t.out = if s.link.areaSet then
        (statusFields t).map (fun x => .write (jobAddr s x.offset) x.size x.value) else []

/-- In HALTED, and while the part is held in reset, no command changes anything, a soft reset included: only a STATUS
read, the three commands of a power-on or pin reset, and the levels of the input lines are taken, with, in HALTED, the
clearing of a magazine's record as its present sensor goes inactive (R34). That levels are followed there, and a record
cleared, beside R188's words is the model's choice, log entry 18. -/
def Obligations.NotLiveTakesNothing : Prop :=
  ∀ (c : Instr) (s : State), live s = false →
    c ≠ .statusRead → (∀ stable, c ≠ .powerOnReset stable) → c ≠ .pinReset → c ≠ .resetLineAsserted →
    exec c s = .next (levelTaken c (clearOut s))

/-- A failed status block write, not one issued before a reset, halts the engine: the FAULT cause set with no record,
every output safe, every access abandoned, and everything else held as it stood. -/
def Obligations.StatusBlockWriteErrorHalts : Prop :=
  ∀ s : State, live s = true →
    Answers (.statusBlockWriteError true) none s (clearOut s)
    ∧ exec (.statusBlockWriteError false) s = .next
      { clearOut s with
        eng.state := .halted
        link.causes.fault := true, link.waiting := []
        intake.timer := none, intake.sweep := none, intake.cellRead := false, intake.cellOwed := false
        setup.cursor := none, setup.state := if s.setup.state = .loading then .invalid else s.setup.state
        paper.target := none, paper.timer := none, plan.switchFlag := false
        fetch.items := [], fetch.buffer := [], fetch.cursor := none
        pulse.held := 0
        line.web := .idle, line.head := [], line.lineFrame := none, line.supervision := none, line.breakCount := 0
        line.punch := false
        supply.watching := false, supply.settle := 0, supply.strokeEnded := false
        cut.solenoid := false, cut.timer := none }

/-- A STATUS read returns the word as it stands and in the same act clears the four causes and the count, in HALTED as in
any other state; while the reset line is held it returns 0 and clears nothing. The fields of the STATUS word (1.1): engine
state in bits 0 to 2, last reset kind in 3 and 4, setup valid in 5, the four causes in 8 to 11, the unreported count in 16
to 22, and every other bit 0. -/
def Obligations.StatusReadReturnsWordAndClears : Prop :=
  (∀ s : State,
     let e : State :=
       { clearOut s with
         link.readData := statusWord s, link.unreported := 0
         link.causes := { completed := false, attention := false, fault := false, refused := false } }
     (live s = true → Answers .statusRead none s e)
     ∧ (s.eng.state = .halted → s.eng.hold = .released → exec .statusRead s = .next e)
     ∧ (s.eng.hold ≠ .released → exec .statusRead s = .next { clearOut s with link.readData := 0 }))
  ∧ (∀ s : State, s.link.unreported ≤ 64 →
       let w := statusWord s
       w.extractLsb' 0 3 = BitVec.ofNat 3 s.eng.state.code
         ∧ w.extractLsb' 3 2 = BitVec.ofNat 2 s.eng.resetKind.code
         ∧ w.getLsbD 5 = (s.setup.state == .valid)
         ∧ w.extractLsb' 6 2 = 0
         ∧ w.getLsbD 8 = s.link.causes.completed ∧ w.getLsbD 9 = s.link.causes.attention
         ∧ w.getLsbD 10 = s.link.causes.fault ∧ w.getLsbD 11 = s.link.causes.refused
         ∧ w.extractLsb' 12 4 = 0
         ∧ w.extractLsb' 16 7 = BitVec.ofNat 7 s.link.unreported
         ∧ w.extractLsb' 23 9 = 0)

/-- A taken AREA write: a base of 0 leaves AREA not set and ends what the intake unit has on the link (the second half is
the model's choice, log entry 14); another makes AREA set with its 16 low-order bits 0, loads the cell poll timer and
writes the whole status block there, and leaves what is under way to go on at the new base (the model's choice, log entry
14). -/
def Obligations.AreaWriteTaken : Prop :=
  ∀ (value : BitVec 64) (s : State), live s = true → s.eng.state = .stopped → s.setup.state ≠ .loading →
    (∀ c ∈ s.plan.table, c = none) →
    let base : Long := (value >>> 16) <<< 16
    (base = 0 → Answers (.areaWrite value) none s
      { clearOut s with
        link.area := 0, link.areaSet := false, link.waiting := [], intake.timer := none, intake.sweep := none
        intake.cellRead := false, intake.cellOwed := false })
    ∧ (base ≠ 0 →
        let e : State :=
          { clearOut s with
            link.area := base, link.areaSet := true, intake.timer := some s.setup.params.sweepPeriod }
        Answers (.areaWrite value) none s
          { e with out := (statusFields e).map (fun x => .write (jobAddr e x.offset) x.size x.value) })

/-- The AREA and CONTROL writes that are refused set the REFUSED cause and do nothing else: AREA outside STOPPED, during a
load or with an order in the table; GO outside STOPPED, without a VALID setup or with AREA not set; STOP in STOPPED and
STOPPING; LOAD_SETUP outside STOPPED, with AREA not set or during a load; NUDGE outside RUNNING and STOPPING; and every
value that is no command code. A write to STATUS is ignored. -/
def Obligations.RefusedWritesOnlySetRefused : Prop :=
  (∀ s : State, live s = true →
     let e : State := { clearOut s with link.causes.refused := true }
     (∀ value, s.eng.state ≠ .stopped ∨ s.setup.state = .loading ∨ (∃ c ∈ s.plan.table, c ≠ none) →
       Answers (.areaWrite value) none s e)
     ∧ (∀ jam, s.eng.state ≠ .stopped ∨ s.setup.state ≠ .valid ∨ s.link.areaSet = false → Answers (.go jam) none s e)
     ∧ (s.eng.state = .stopped ∨ s.eng.state = .stopping → Answers .stop none s e)
     ∧ (s.eng.state ≠ .stopped ∨ s.setup.state = .loading ∨ s.link.areaSet = false → Answers .loadSetup none s e)
     ∧ (s.eng.state ≠ .running → s.eng.state ≠ .stopping → Answers .nudge none s e)
     ∧ (∀ value, Answers (.refusedControlValue value) none s e))
  ∧ (∀ (value : BitVec 32) (s : State), live s = true → Answers (.ignoredRegisterWrite value) none s (clearOut s))

/-- A GO that is taken moves the engine to RUNNING; a web that is already at speed is READY at once; a jam that is still
there pauses the engine again, and this is where GO stops short. The order of the blocks is the model's, log entry 11. -/
def Obligations.GoTaken : Prop :=
  ∀ s : State, live s = true → s.eng.state = .stopped → s.setup.state = .valid → s.link.areaSet = true →
    (s.line.webReady = false → Answers (.go false) none s (runningEntered s))
    ∧ (s.line.webReady = true → Answers (.go false) none s (webReady (runningEntered s)))
    ∧ Answers (.go true) none s (stoppage .jam { runningEntered s with cut.jam := true })

/-- A STOP in RUNNING moves the engine to STOPPING, clears the pending switch flag and leaves the remaining candidates of
a running sweep POSTED, which takes nothing from then on (log entry 38); where the map holds no FRAME and no SPLICE the
web clear report follows at once, and the engine is STOPPED. A STOP in PAUSED moves it to STOPPED. On entering STOPPED,
RUN is dropped, the paper behind the head counted as waste, the map emptied and the cell poll timer loaded. A web clear
report placed on its own does the same in STOPPING while the map holds no FRAME and no SPLICE, and nothing otherwise (that
it is a command beside the check is log entry 29). -/
def Obligations.StopAndWebClear : Prop :=
  (∀ s : State, live s = true →
     let stopping : State :=
       { clearOut s with
         eng.state := .stopping, plan.switchFlag := false, link.dirty := [0x000]
         intake.sweep := s.intake.sweep.map (fun w => { w with candidates := [], barred := true }) }
     (s.eng.state = .running →
       ((∀ e ∈ s.web.map, e.piece = .gap) → Answers .stop none s (stoppedEntered stopping))
       ∧ ((∃ e ∈ s.web.map, e.piece ≠ .gap) → Answers .stop none s stopping))
     ∧ (s.eng.state = .paused → Answers .stop none s (stoppedEntered (clearOut s))))
  ∧ (∀ s : State, live s = true →
       (s.eng.state = .stopping → (∀ e ∈ s.web.map, e.piece = .gap) →
         Answers .webClear none s (stoppedEntered (clearOut s)))
       ∧ (s.eng.state ≠ .stopping ∨ (∃ e ∈ s.web.map, e.piece ≠ .gap) → Answers .webClear none s (clearOut s)))

/-- A LOAD_SETUP that is taken: the setup LOADING, the clamp count 0, the first refused table NONE, and the read of the
layout revision word out. A NUDGE that is taken reloads the sweep timer and starts a sweep, merged into a running one. -/
def Obligations.LoadSetupAndNudgeTaken : Prop :=
  (∀ s : State, live s = true → s.eng.state = .stopped → s.link.areaSet = true → s.setup.state ≠ .loading →
     Answers .loadSetup none s
       { clearOut s with
         setup.state := .loading, setup.clampCount := 0, setup.firstRefused := .none, setup.cursor := some .revision
         out := [.read (jobAddr s 0x1000) 4] })
  ∧ (∀ s : State, live s = true → s.eng.state = .running ∨ s.eng.state = .stopping →
       Answers .nudge none s
         { clearOut s with
           intake.timer := some s.setup.params.sweepPeriod, intake.sweep := some (s.intake.sweep.getD Sweep.begun)
           out := if s.intake.sweep = none then tokenReads s else [] })

/-- A fault report finds the FAULT cause clear: the record takes its kind, slot and address and the cause is set. It finds
the cause set: the record stands and the overflow count rises by one, up to 4,294,967,295. A stoppage report. In RUNNING
and STOPPING it pauses the engine: ATTENTION raised, the report recorded or counted with W as its address, every GOOD
frame of the map settled as a jam spoil from the oldest, the map emptied, RUN dropped, the head dark, the fetch unit
emptied with its reads marked, the changeover and the load watch ended, the candidates of a running sweep left POSTED,
which takes nothing from then on (log entry 38), the lane and the knife left as they are; a write of the engine state is
due whatever it was before. In STOPPED and PAUSED it is recorded and nothing else; in HALTED it is ignored. -/
def Obligations.FaultsRecordedAndStoppagesPause : Prop :=
  (∀ (kind : FaultKind) (slot : Nat) (addr : Long) (s : State),
     (s.link.causes.fault = false →
       recordFault kind slot addr s =
         { s with eng.record := { kind := kind, slot := slot, addr := addr }, link.causes.fault := true
                  link.dirty := s.link.dirty ++ [0x190, 0x191, 0x198] })
     ∧ (s.link.causes.fault = true →
       recordFault kind slot addr s =
         { s with eng.overflow := min (s.eng.overflow + 1) 4294967295, link.dirty := s.link.dirty ++ [0x1A0] }))
  ∧ (∀ (kind : FaultKind) (s : State),
       let addr : Long := s.line.w.setWidth 64
       (moving s = true →
         let t := stoppage kind s
         let r := recordFault kind 255 addr s
         let begun : State :=
           { r with
             eng.state := .paused, link.causes.attention := true
             web.map := s.web.map.map (fun e => { e with flags := { e.flags with spoiled := true } }) }
         let spoiled := begun.web.map.foldl (fun s e =>
           match e.piece with
           | .frame f => if f.reject then s else settleFrame .jam f.order f.entry e.number s
           | _ => s) begun
         t.eng = { r.eng with state := .paused }
           ∧ t.link = { spoiled.link with causes := { r.link.causes with attention := true }, dirty := t.link.dirty }
           ∧ 0x000 ∈ t.link.dirty
           ∧ t.web = { s.web with
               map := [], hold := none, spoils := s.web.spoils + 1
               waste := (match s.web.map with
                 | [] => s.web.waste
                 | e :: _ => s.web.waste + (s.line.w - e.start)) }
           ∧ t.plan = { spoiled.plan with switchFlag := false }
           ∧ t.sort = spoiled.sort ∧ t.sort.lane = s.sort.lane
           ∧ t.fetch = { s.fetch with
               items := [], buffer := [], cursor := none, refill := false
               reads := s.fetch.reads.map (fun r => { r with discard := true }) }
           ∧ t.line = { s.line with web := .idle, head := [], lineFrame := none, supervision := none, breakCount := 0 }
           ∧ t.supply = { s.supply with watching := false, settle := 0, strokeEnded := false }
           ∧ t.paper.target = none ∧ t.paper.timer = none
           ∧ t.cut = { s.cut with cursor := none }
           ∧ t.intake = { s.intake with
               timer := pollLoaded s, sweep := s.intake.sweep.map (fun w => { w with candidates := [], barred := true }) }
           ∧ t.setup = s.setup ∧ t.pulse = s.pulse ∧ t.out = s.out)
       ∧ (s.eng.state = .stopped ∨ s.eng.state = .paused → stoppage kind s = recordFault kind 255 addr s)
       ∧ (s.eng.state = .halted → stoppage kind s = s))

/-! ## Sweeps, requests, takes and returns -/

/-- The sweep timer's expiry in RUNNING or STOPPING reloads it and starts a sweep, merged into a running one; the cell
poll's expiry in STOPPED or PAUSED with AREA set reloads it and reads the machine request cell alone, merged into a
running sweep; while a read of the cell is out, or a request in it has still to be answered, it issues no second read (the
model's choice, log entry 20); an expiry of a timer that does not run changes nothing. The idle timer's expiry sets
COMPLETED where the count is above 0, and the timer then stands. -/
def Obligations.TimerExpiries : Prop :=
  (∀ s : State, live s = true →
     (moving s = true → s.intake.timer ≠ none →
       Answers .sweepTimerExpiry none s
         { clearOut s with
           intake.timer := some s.setup.params.sweepPeriod, intake.sweep := some (s.intake.sweep.getD Sweep.begun)
           out := if s.intake.sweep = none then tokenReads s else [] })
     ∧ (moving s = false ∨ s.intake.timer = none → Answers .sweepTimerExpiry none s (clearOut s))
     ∧ (s.eng.state = .stopped ∨ s.eng.state = .paused → s.link.areaSet = true → s.intake.timer ≠ none →
       Answers .cellPollExpiry none s
         { clearOut s with
           intake.timer := some s.setup.params.sweepPeriod
           intake.cellRead := s.intake.cellRead || (s.intake.sweep.isNone && !s.intake.cellOwed)
           out := if s.intake.sweep = none ∧ s.intake.cellRead = false ∧ s.intake.cellOwed = false then
               [.read (jobAddr s 0x200) 4] else [] })
     ∧ (moving s = true ∨ s.link.areaSet = false ∨ s.intake.timer = none → Answers .cellPollExpiry none s (clearOut s)))
  ∧ (∀ s : State, live s = true →
       (s.link.idleTimer ≠ none → 0 < s.link.unreported →
         Answers .idleTimerExpiry none s { clearOut s with link.idleTimer := none, link.causes.completed := true })
       ∧ (s.link.idleTimer ≠ none → s.link.unreported = 0 →
         Answers .idleTimerExpiry none s { clearOut s with link.idleTimer := none })
       ∧ (s.link.idleTimer = none → Answers .idleTimerExpiry none s (clearOut s)))

/-- The five steps of a sweep follow in their order: each completion begins the next step, step 4 stays while a take is in
progress, step 5 reads the cell (unless a request in it has still to be answered, log entry 20) and ends the sweep when no
access of the cell is left, and the LOST pass is over after step 3. The slot writes that wait are issued before the next
step does anything, and the answers of step 2, with no setup load running, before step 3 begins: a write that waits after
it is one of a LOST return. With no sweep running a completion changes nothing. What step 1 of a sweep reads and keeps:
the request field of every held slot, ticket and class of every other slot that reads POSTED (put out in the step that
brings the token, log entry 5); the token of every slot read without error, whether the slot was held then, and class and
ticket where both were read of a slot not held; and the new requests, those of held slots of orders not detached whose
token reads TAKEN and whose number is not the last answered one. A slot whose token read failed, one not held that reads
POSTED whose ticket or class read failed, and a held one whose request field read failed, is a slot read fault with that
slot and the address of the first read of it that failed (log entry 12; 0x010 for a request field, log entry 44; slot 0
first, log entry 36). -/
def Obligations.SweepStepsFollowInOrder : Prop :=
  (∀ (reads : List SlotRead) (room : Option Nat) (s : State), live s = true →
     (s.intake.sweep = none → Answers (.sweepStepComplete reads room) room s (clearOut s))
     ∧ ∀ w, s.intake.sweep = some w → ∃ t, exec (.sweepStepComplete reads room) s = .next t ∧
       (w.step = .one → t.intake.sweep.map Sweep.step = some .two)
       ∧ (w.step = .two → t.intake.sweep.map Sweep.step = some .three
           ∧ (w.taken = none → s.setup.state ≠ .loading → ∀ x ∈ t.link.waiting,
               (x.offset = 0x020 ∧ x.value = 6) ∨ (x.offset = 0 ∧ x.value = 3)))
       ∧ (w.step = .three → t.intake.sweep.map Sweep.step = some .four ∧ t.intake.lostPending = false)
       ∧ (w.step = .four → w.taking = none → w.taken = none →
           t.intake.sweep.map Sweep.step = some .five
             ∧ t.intake.cellRead = (s.intake.cellRead || !s.intake.cellOwed))
       ∧ (w.step = .four → w.taking ≠ none ∨ w.taken ≠ none → t.intake.sweep.map Sweep.step = some .four)
       ∧ (w.step = .five → s.intake.cellRead = false → s.intake.cellOwed = false → t.intake.sweep = none)
       ∧ (w.step = .five → s.intake.cellRead = true ∨ s.intake.cellOwed = true →
           t.intake.sweep.map Sweep.step = some .five)
       ∧ (s.link.areaSet = true → s.setup.state ≠ .loading →
           s.link.waiting.map (fun x =>
             Output.write (jobAddr s (0x10000 + x.slot * 0x1000 + x.offset)) x.size x.value) <+: t.out))
  ∧ (∀ (reads : List SlotRead) (room : Option Nat) (s : State) (w : Sweep), live s = true → Quiet s →
       s.intake.sweep = some w → w.step = .one → reads.length = 64 →
       ∃ t v, exec (.sweepStepComplete reads room) s = .next t ∧ t.intake.sweep = some v
         ∧ (s.link.areaSet = true → ∀ k r tok, reads[k]? = some r → r.token = some tok →
             let read (offset size : Nat) : Output := .read (jobAddr s (0x10000 + k * 0x1000 + offset)) size
             (holdsSlot s k = true → read 0x010 1 ∈ t.out ∧ read 0x011 1 ∈ t.out)
             ∧ (holdsSlot s k = false → tok = 1 → read 0x004 4 ∈ t.out ∧ (r.ticket ≠ none → read 0x008 1 ∈ t.out)))
         ∧ (∀ x : SlotScan, x ∈ v.scans ↔ ∃ r, reads[x.slot]? = some r ∧ r.token = some x.token
             ∧ x.held = holdsSlot s x.slot
             ∧ x.header = (if holdsSlot s x.slot = true then none else match r.ticket, r.classByte with
               | some k, some c => some (c == 1, k)
               | _, _ => none))
         ∧ (let failed (k : Nat) : Option Nat := match reads[k]? with
              | none => none
              | some r => match r.token with
                | none => some 0x000
                | some tok =>
                  if holdsSlot s k = true then (if r.request = none then some 0x010 else none)
                  else if tok = 1 then
                    (if r.ticket = none then some 0x004 else if r.classByte = none then some 0x008 else none)
                  else none
            let faulted := (List.range 64).foldl (fun u k => match failed k with
              | some off => recordFault .slotRead k (jobAddr s (0x10000 + k * 0x1000 + off)) u
              | none => u) s
            t.eng = faulted.eng ∧ t.link.causes = faulted.link.causes)
         ∧ (∀ q : SlotRequest, q ∈ v.requests ↔ ∃ r i o, reads[q.slot]? = some r ∧ r.token = some 2
             ∧ r.request = some (q.code, q.number) ∧ orderOfSlot s q.slot = some i ∧ getOrder s i = some o
             ∧ o.detached = false ∧ q.number ≠ o.answered))

/-- The candidates of step 4: the slots that read POSTED, are not held and have their header read, RUSH before NORMAL,
then the lower ticket, then the lower slot. That a slot with no header read is none of them is the model's choice: one
held at step 1 and freed since, log entry 32, and one whose ticket or class read failed, log entry 12. Step 4 begins: in
RUNNING the first candidate's take begins, where the engine has not left RUNNING since the sweep began (R9, R10; what
RUNNING again by then makes of it is the model's choice, log entry 38); otherwise it takes nothing. The LOST pass of the
first sweep after a reset: every slot that step 1 read TAKEN without the part holding it, and that no order stands for, is
returned as LOST, the outcome before the token. Step 3 detaches every order not detached whose slot's token step 1 read as
other than TAKEN: it is counted, nothing more is written to its slot, and it is freed where it is COMPLETE or has no copy
in flight, goes on where it is CANCELLING, and is cancelled otherwise (also where the slot's request field read failed,
the model's choice, log entry 50); an order detached before, or whose slot was read TAKEN or not read, stays as it is. -/
def Obligations.CandidatesOrderedAndLostSlotsReturned : Prop :=
  (∀ (s : State) (scans : List SlotScan), (scans.map SlotScan.slot).Nodup →
     (∀ k, k ∈ candidates s scans ↔
       ∃ x ∈ scans, x.slot = k ∧ x.token = 1 ∧ holdsSlot s k = false ∧ x.header ≠ none)
     ∧ (candidates s scans).Pairwise (fun a b =>
         ∀ x ∈ scans, ∀ y ∈ scans, x.slot = a → y.slot = b →
         ∀ rx tx ry ty, x.header = some (rx, tx) → y.header = some (ry, ty) →
           (rx = true ∧ ry = false)
             ∨ (rx = ry ∧ (tx.toNat < ty.toNat ∨ (tx = ty ∧ a < b)))))
  ∧ (∀ (reads : List SlotRead) (room : Option Nat) (s : State) (w : Sweep), live s = true → Quiet s →
       s.intake.sweep = some w → w.step = .three →
       let begun (found : List Nat) : State :=
         { clearOut s with
           intake.lostPending := false, intake.sweep := some { w with step := .four, candidates := found } }
       (s.eng.state = .running → w.barred = false →
         Answers (.sweepStepComplete reads room) room s (nextTake (begun (candidates s w.scans))))
       ∧ (s.eng.state ≠ .running ∨ w.barred = true → Answers (.sweepStepComplete reads room) room s (begun [])))
  ∧ (∀ (reads : List SlotRead) (s : State) (w : Sweep) (x : SlotScan), live s = true → s.link.areaSet = true → Quiet s →
       s.intake.sweep = some w → w.step = .two → w.requests = [] → s.intake.lostPending = true → x ∈ w.scans →
       x.token = 2 → x.held = false → orderOfSlot s x.slot = none →
       ∃ t, exec (.sweepStepComplete reads none) s = .next t
         ∧ [Output.write (jobAddr s (0x10000 + x.slot * 0x1000 + 0x020)) 1 6,
            Output.write (jobAddr s (0x10000 + x.slot * 0x1000)) 4 3].Sublist t.out)
  ∧ (∀ (reads : List SlotRead) (s : State) (w : Sweep), live s = true → Quiet s → s.intake.sweep = some w →
       w.step = .two → w.requests = [] → (w.scans.map SlotScan.slot).Nodup → (∀ x ∈ w.scans, x.slot < 64) →
       ∃ t, exec (.sweepStepComplete reads none) s = .next t
         ∧ t.intake.detached = s.intake.detached + BitVec.ofNat 32 (w.scans.countP (fun (x : SlotScan) => x.token != (2 : Word) &&
             (match (orderOfSlot s x.slot).bind (getOrder s) with
               | some o => !o.detached
               | none => false)))
         ∧ (∀ x ∈ w.scans, x.token ≠ 2 → ∀ i o, orderOfSlot s x.slot = some i → getOrder s i = some o → o.detached = false →
             getOrder t i = (if o.state = .complete then none
               else if o.state = .cancelling then some { o with detached := true }
               else if inFlight o = 0 then none
               else some { o with
                 detached := true, cancelled := true, state := .cancelling, heldFrom := none, waitingSince := none
                 remakes := [], entries := o.entries.map (fun e => { e with a := e.a + e.t, t := 0 }) })
             ∧ (s.link.area.toNat + 0x50000 ≤ 2 ^ 64 → ∀ k n v, k < 0x1000 →
                 Output.write (jobAddr s (0x10000 + x.slot * 0x1000 + k)) n v ∉ t.out))
         ∧ (∀ i o, getOrder s i = some o → o.detached = true ∨ (∀ x ∈ w.scans, x.slot = o.slot → x.token = 2) →
             getOrder t i = some o))

/-- The requests that step 2 answers are those the sweep has read; any other command of a request, and one in a slot with
no order, of a detached order or with the number last answered, is left alone. The answers that hand nothing to the
planner, and HOLD: what the table of R17 gives for the order's state is answered once, the answered number before the
answer code, and nothing else changes; a HOLD answered DONE holds the order, its mirror written first. The answer to a
COMPLETE order waits with its return while a setup load runs (R176 against R9 and R16: the model's choice, log entry 45).
A RELEASE of a HELD order gives it back the state it was held from, evaluated at once, with ATTENTION where it comes back
in WAIT_PAPER; a CANCEL moves every copy still to expose to abandoned, empties the remake list, and leaves the order
CANCELLING, or COMPLETE where no copy is in flight. Both are
answered DONE, the answered number before the answer code, behind the mirror and, of a CANCEL, the results of the entries
it changes (in the order of log entry 48). -/
def Obligations.SlotRequestsAnswered : Prop :=
  ∀ (slot : Fin 64) (number : Byte) (s : State), live s = true →
    let asked (code : Byte) : Prop := ∃ w, s.intake.sweep = some w ∧ w.step = .two
      ∧ ({ slot := slot, code := code, number := number } : SlotRequest) ∈ w.requests
    (∀ c code, (c, code) ∈ [(Instr.hold slot number, (1 : Byte)), (.release slot number, 2), (.cancel slot number, 3)]
        ∨ c = .slotRequestNotApplicable slot code number →
      (¬asked code ∨ orderOfSlot s slot = none ∨ (∃ i o, orderOfSlot s slot = some i ∧ getOrder s i = some o
        ∧ (o.detached = true ∨ o.answered = number)) → Answers c none s (clearOut s))
      ∧ (c = .slotRequestNotApplicable slot code number → code = 1 ∨ code = 2 ∨ code = 3 → Answers c none s (clearOut s)))
    ∧ ∀ i o, s.link.areaSet = true → Quiet s → orderOfSlot s slot = some i → getOrder s i = some o →
      o.detached = false → o.answered ≠ number →
      let field (k : Nat) (v : Nat) : Output := .write (jobAddr s (0x10000 + slot * 0x1000 + k)) 1 v
      let put (p : Order) : State :=
        { clearOut s with
          plan.table := s.plan.table.set i (some { p with answered := number })
          intake.sweep := s.intake.sweep.map (fun w =>
            { w with requests := w.requests.filter (fun q => q.slot != slot) }) }
      let answered (a : Nat) : State :=
        if o.state = .complete ∧ s.setup.state = .loading then
          { put o with link.waiting := [⟨slot, 0x014, 1, number.toNat⟩, ⟨slot, 0x015, 1, a⟩] }
        else { put o with out := [field 0x014 number.toNat, field 0x015 a] }
      (asked 1 →
        (o.state = .held ∨ o.state = .cancelling → exec (.hold slot number) s = .next (publish s (answered 3)))
        ∧ (o.state = .draining ∨ o.state = .complete → exec (.hold slot number) s = .next (publish s (answered 2)))
        ∧ (o.state = .queued ∨ o.state = .waitPaper ∨ o.state = .active → o.returnDue = false →
            exec (.hold slot number) s = .next (publish s
              { put { o with state := .held, heldFrom := some o.state } with
                out := [field 0x022 3, field 0x014 number.toNat, field 0x015 1] })))
      ∧ (asked 2 →
        (o.state = .queued ∨ o.state = .waitPaper ∨ o.state = .active ∨ o.state = .cancelling →
            exec (.release slot number) s = .next (publish s (answered 3)))
        ∧ (o.state = .draining ∨ o.state = .complete → exec (.release slot number) s = .next (publish s (answered 2)))
        ∧ (o.state = .held → ∀ h, o.heldFrom = some h → h = .queued ∨ h = .waitPaper ∨ h = .active →
            let lacks := ∃ e ∈ o.entries, 0 < e.t ∧ widthLoaded s e.width = false
            let st : OrderState := if h = .active then
                (if 0 < stillToExpose o then .active else if 0 < inFlight o then .draining else .complete)
              else if lacks then .waitPaper else .queued
            ∃ t, exec (.release slot number) s = .next t
              ∧ getOrder t i = some { o with answered := number, heldFrom := none, state := st }
              ∧ (st = .waitPaper → t.link.causes.attention = true)
              ∧ (s.setup.state ≠ .loading ∨ st ≠ .complete → [field 0x014 number.toNat, field 0x015 1].Sublist t.out)
              ∧ (o.returnDue = false →
                let ws := [mirrorWrite slot st, ⟨slot, 0x014, 1, number.toNat⟩, ⟨slot, 0x015, 1, 1⟩]
                (s.setup.state ≠ .loading ∨ st ≠ .complete → ws.map (wroteSlot s) <+: t.out)
                ∧ (s.setup.state = .loading → st = .complete → t.link.waiting = ws))))
      ∧ (asked 3 →
        (o.state = .cancelling → exec (.cancel slot number) s = .next (publish s (answered 3)))
        ∧ (o.state = .draining ∨ o.state = .complete → exec (.cancel slot number) s = .next (publish s (answered 2)))
        ∧ (o.state = .queued ∨ o.state = .waitPaper ∨ o.state = .active ∨ o.state = .held →
            ∃ t, exec (.cancel slot number) s = .next t
              ∧ getOrder t i = some { o with
                  answered := number, cancelled := true, heldFrom := none, waitingSince := none, remakes := []
                  entries := o.entries.map (fun e => { e with a := e.a + e.t, t := 0 })
                  state := if inFlight o = 0 then .complete else .cancelling }
              ∧ (s.setup.state ≠ .loading ∨ inFlight o ≠ 0 →
                  [field 0x014 number.toNat, field 0x015 1].Sublist t.out)
              ∧ (o.returnDue = false →
                let ws := mirrorWrite slot (if inFlight o = 0 then .complete else .cancelling) :: abandonedWrites o
                  ++ [⟨slot, 0x014, 1, number.toNat⟩, ⟨slot, 0x015, 1, 1⟩]
                (s.setup.state ≠ .loading ∨ inFlight o ≠ 0 → ws.map (wroteSlot s) <+: t.out)
                ∧ (s.setup.state = .loading → inFlight o = 0 → t.link.waiting = ws))))
      ∧ (∀ code, asked code → code ≠ 1 → code ≠ 2 → code ≠ 3 →
        exec (.slotRequestNotApplicable slot code number) s = .next (publish s (answered 3)))

/-- The checks of a take in their order: the refuse code is that of the first one that fails. The window test of R67: a
line of width 0 passes; any other passes when its whole byte range, on exact numbers, lies inside one enabled window and
below the top of the address space. -/
def Obligations.RefuseCodeOfFirstFailingCheck : Prop :=
  (∀ (x : Setup) (d : TakeData),
     let bad1 := d.count.toNat = 0 ∨ 64 < d.count.toNat
       ∨ ∃ e ∈ d.entries, e.copies.toNat = 0 ∨ 99 < e.copies.toNat
     let bad2 := 1500 < (d.entries.map (fun e => e.copies.toNat)).sum
     let bad3 := ∃ e ∈ d.entries, 31 < e.product.toNat ∨ (getProduct x e.product.toNat).isDefined = false
       ∨ (getProduct x e.product.toNat).usable = false
     let bad4 := ∃ e ∈ d.entries, e.flags ≠ 1 ∧
       (e.image.height.toNat ≠ (getProduct x e.product.toNat).length
         ∨ 10 * (getProduct x e.product.toNat).width < e.image.left.toNat + e.image.width.toNat
         ∨ e.image.stride.toNat < 3 * e.image.width.toNat
         ∨ ∃ i < e.image.height.toNat, windowTest x e.image i = false)
     (validate x d = some .badCount ↔ bad1)
     ∧ (validate x d = some .tooLarge ↔ ¬bad1 ∧ bad2)
     ∧ (validate x d = some .badProduct ↔ ¬bad1 ∧ ¬bad2 ∧ bad3)
     ∧ (validate x d = some .badImage ↔ ¬bad1 ∧ ¬bad2 ∧ ¬bad3 ∧ bad4)
     ∧ (validate x d = none ↔ ¬bad1 ∧ ¬bad2 ∧ ¬bad3 ∧ ¬bad4))
  ∧ (∀ (x : Setup) (im : ImageRec) (i : Nat),
       windowTest x im i = true ↔ im.width.toNat = 0 ∨
         ∃ w ∈ x.windows, w.enable = true
           ∧ w.base.toNat ≤ im.addr.toNat + i * im.stride.toNat
           ∧ im.addr.toNat + i * im.stride.toNat + 3 * im.width.toNat ≤ w.base.toNat + w.length.toNat
           ∧ im.addr.toNat + i * im.stride.toNat + 3 * im.width.toNat ≤ 2 ^ 64)

/-- The reads of a take complete. First its print entries are read, those below the entry count or 64, or those up to the
read that failed (the offsets of them are log entry 5). Values that fail a check: TAKEN is written, then the outcome
REFUSED, the refuse code and RETURNED, and the return counts. Values that pass: TAKEN is written and the order admitted
into the lowest free context (the choice of context is the model's, log entry 8) with t = C for every entry, at its place
in the queue, QUEUED or, where paper is missing, WAIT_PAPER; written to the slot are the answered number with code NONE,
the outcome PENDING with refuse code NONE, the mirror, the bins used count 0, every one of the 64 entry results 0 (log
entry 17) and the estimate from the ordered copies. With no take in progress, or of a take since abandoned, the arrival is
discarded. A failed read of a take is a slot read fault: the take is skipped and the next candidate's begins. A take
begins only in RUNNING and with a free context, with the reads of ticket, class, customer class, entry count and request
field; otherwise the remaining candidates are left POSTED. A take that ends while a setup load runs is no exception to any
of this, the model's choice, log entry 33. So are the order among the writes that R15 names together (log entry 48) and
that the next take's reads go out before them (log entry 51). -/
def Obligations.TakesRefusedAdmittedOrSkipped : Prop :=
  let entry (k : Nat) : List (Nat × Nat) :=
    [(0x00, 1), (0x01, 1), (0x02, 1), (0x03, 3), (0x06, 1), (0x08, 8), (0x10, 4), (0x14, 2), (0x16, 2), (0x18, 2)].map
      (fun x => (0x100 + 32 * k + x.1, x.2))
  let reads (s : State) (slot : Nat) (fields : List (Nat × Nat)) : List Output :=
    if s.link.areaSet then fields.map (fun x => .read (jobAddr s (0x10000 + slot * 0x1000 + x.1)) x.2) else []
  (∀ (d : TakeData) (s : State), live s = true →
     (∀ result room, Answers (.takeReadsComplete result room true) room s (clearOut s))
     ∧ ((∀ w, s.intake.sweep = some w → w.taking = none) →
       ∀ result room, Answers (.takeReadsComplete result room false) room s (clearOut s))
     ∧ ∀ (w : Sweep) (slot : Nat), s.link.areaSet = true → Quiet s → s.intake.sweep = some w → w.taking = some slot →
       let field (k n v : Nat) : Output := .write (jobAddr s (0x10000 + slot * 0x1000 + k)) n v
       let taken : List Output := reads s slot ((List.range (min d.count.toNat 64)).flatMap entry) ++ [field 0 4 2]
       (∀ code, validate s.setup d = some code →
         ∃ t, exec (.takeReadsComplete (.data d) none false) s = .next t
           ∧ taken <+: t.out
           ∧ [field 0x020 1 5, field 0x021 1 code.code, field 0 4 3].Sublist t.out
           ∧ t.link.unreported = min (s.link.unreported + 1) 64
           ∧ t.link.idleTimer = some s.setup.params.notifyIdle)
       ∧ (∀ i, validate s.setup d = none → freeContext s = some i → orderOfSlot s slot = none →
         ∃ t o, exec (.takeReadsComplete (.data d) none false) s = .next t
           ∧ taken <+: t.out
           ∧ getOrder t i = some o
           ∧ o = { orderOf s.setup slot s.intake.takeSeq d with
               state := if ∃ e ∈ o.entries, 0 < e.t ∧ widthLoaded s e.width = false then .waitPaper else .queued }
           ∧ t.intake.takeSeq = s.intake.takeSeq + 1
           ∧ t.plan.queue = joinQueue s i o.rush o.takeSeq s.plan.queue
           ∧ let p := priceOf s.setup o.rush o.custClass Entry.copies o.entries
             ([field 0x014 1 d.reqNumber.toNat, field 0x015 1 0, field 0x020 1 0, field 0x021 1 0,
                 field 0x022 1 o.state.code, field 0x023 1 0]
               ++ (List.range 64).flatMap (fun k =>
                 [(0, 2), (2, 2), (4, 2), (6, 2), (8, 1)].map (fun x => field (0x900 + 16 * k + x.1) x.2 0))
               ++ [field 0x040 4 p.subtotal, field 0x044 4 p.discount, field 0x048 4 p.rush, field 0x04C 4 p.fee,
                   field 0x050 4 p.net, field 0x054 4 p.tax, field 0x058 4 p.total,
                   field 0x05C 1 (4 * bit p.saturated)]).Sublist t.out))
  ∧ (∀ (offset : Nat) (room : Option Nat) (s : State) (w : Sweep) (slot : Nat), live s = true →
       s.intake.sweep = some w → w.taking = some slot →
       let f := recordFault .slotRead slot (jobAddr s (0x10000 + slot * 0x1000 + offset)) (clearOut s)
       let skipped : State :=
         { f with intake.sweep := some { w with taking := none, taken := none }
                  out := reads s slot (((List.range 64).flatMap entry).filter (fun x => decide (x.1 ≤ offset))) }
       (w.candidates = [] → Answers (.takeReadsComplete (.busError offset) room false) room s skipped)
       ∧ (w.candidates ≠ [] → Answers (.takeReadsComplete (.busError offset) room false) room s (nextTake skipped)))
  ∧ (∀ (s : State) (w : Sweep) (c : Nat) (rest : List Nat), s.intake.sweep = some w → w.candidates = c :: rest →
       (s.eng.state = .running → none ∈ s.plan.table →
         nextTake s =
           { s with
             intake.sweep := some { w with candidates := rest, taking := some c }
             out := s.out ++ reads s c [(0x004, 4), (0x008, 1), (0x009, 1), (0x00A, 1), (0x010, 1), (0x011, 1)] })
       ∧ (s.eng.state ≠ .running ∨ none ∉ s.plan.table →
         nextTake s = { s with intake.sweep := some { w with candidates := [] } }))

/-- A failed slot write, in every slot, at every offset and wherever the write stands, is answered with a next state. It
is a slot write fault unless it was issued before a reset. After the slot's RETURNED write it has no other effect. Before
it, with no order held for the slot, the slot's waiting writes are given up, and a take between TAKEN and its verdict
there forms no order. An order held for the slot is detached: the counter up by one, its waiting writes given up, its flag
set; a COMPLETE order is freed, a CANCELLING one goes on, and any other is cancelled, CANCELLING while copies are in
flight, or COMPLETE, reported to its bins and freed at once where none is. At the token offset the write is taken for
TAKEN (the model's choice, log entry 16): an order with no bin and no frame is taken out uncounted, any other is detached.
A detached order stays as it is. No step of these puts out a write to the slot of the order. -/
def Obligations.SlotWriteFaultDetaches : Prop :=
  ∀ (slot : Fin 64) (offset : BitVec 12) (s : State), live s = true →
    let f := recordFault .slotWrite slot (jobAddr s (0x10000 + slot * 0x1000 + offset.toNat)) (clearOut s)
    let given : State := { f with link.waiting := s.link.waiting.filter (fun x => x.slot != slot) }
    let fails (e : State) : Prop := Answers (.slotWriteFault slot offset .current) none s e
    (∀ standing, ∃ t, exec (.slotWriteFault slot offset standing) s = .next t)
    ∧ Answers (.slotWriteFault slot offset .beforeReset) none s (clearOut s)
    ∧ Answers (.slotWriteFault slot offset .returned) none s f
    ∧ (orderOfSlot s slot = none →
        ((∀ w k d, s.intake.sweep = some w → w.taken = some (k, d) → k ≠ slot.val) → fails given)
        ∧ (∀ w d, s.intake.sweep = some w → w.taken = some (slot.val, d) →
            fails (nextTake { f with intake.sweep := some { w with taking := none, taken := none } })))
    ∧ (∀ i o, orderOfSlot s slot = some i → getOrder s i = some o →
        let without (s : State) : State :=
          evalLow { s with plan.table := s.plan.table.set i none, plan.queue := s.plan.queue.filter (fun j => j != i) }
        let counted (p : Order) : State :=
          { given with intake.detached := s.intake.detached + 1, plan.table := s.plan.table.set i (some p) }
        let gone : Order :=
          { o with
            detached := true, cancelled := true, state := .cancelling, heldFrom := none, waitingSince := none, remakes := []
            entries := o.entries.map (fun e => { e with a := e.a + e.t, t := 0 }) }
        (o.detached = true → fails f)
        ∧ (o.detached = false → offset = 0 → o.bins = [] → o.unsettled = [] → fails (without given))
        ∧ (o.detached = false → offset ≠ 0 ∨ o.bins ≠ [] ∨ o.unsettled ≠ [] →
            (o.state = .complete → fails (without (counted { o with detached := true })))
            ∧ (o.state = .cancelling → fails (evalLow (counted { o with detached := true })))
            ∧ (o.state ≠ .complete → o.state ≠ .cancelling →
                (0 < inFlight o → fails (evalLow (counted gone)))
                ∧ (inFlight o = 0 → fails (without (completionReport o.bins true
                    (putOrder i (some { gone with state := .complete }) (evalLow (counted gone))))))))
        ∧ (o.detached = false → (∀ w, s.intake.sweep = some w → w.taken = none) →
            s.link.area.toNat + 0x50000 ≤ 2 ^ 64 → (∀ x ∈ s.link.waiting, x.slot < 64 ∧ x.offset < 0x1000) →
            ∃ t, exec (.slotWriteFault slot offset .current) s = .next t
              ∧ ∀ k n v, k < 0x1000 → Output.write (jobAddr s (0x10000 + slot * 0x1000 + k)) n v ∉ t.out))

/-- The slot return of a COMPLETE order that is not detached, no load in progress: the answer still owed (TOO_LATE, or
NOT_APPLICABLE for a code of NONE or above 3), then the final price from the delivered counts with its flags, the outcome
and RETURNED; the context is free and the return counts. While a load runs the return waits, and the end of the load,
VALID or INVALID, lets it go out, after the writes of the slot that wait. Any other call of it changes nothing. -/
def Obligations.SlotReturnWritesPriceOutcomeToken : Prop :=
  let final (s : State) (o : Order) : List Output :=
    let field (k n v : Nat) : Output := .write (jobAddr s (0x10000 + o.slot * 0x1000 + k)) n v
    let p := priceOf s.setup o.rush o.custClass Entry.g o.entries
    let short := o.entries.any (fun e => decide (0 < e.a))
    [field 0x060 4 p.subtotal, field 0x064 4 p.discount, field 0x068 4 p.rush, field 0x06C 4 p.fee,
     field 0x070 4 p.net, field 0x074 4 p.tax, field 0x078 4 p.total,
     field 0x07C 1 (bit short + 2 * bit o.cancelled + 4 * bit p.saturated),
     field 0x020 1 (if o.faultMark then 4 else if o.cancelled then 3 else if short then 2 else 1), field 0 4 3]
  (∀ (slot : Fin 64) (s : State), live s = true →
    (orderOfSlot s slot = none ∨ returnWaiting s slot = true → ∀ room, Answers (.slotReturn slot room) room s (clearOut s))
    ∧ ∀ i o, orderOfSlot s slot = some i → getOrder s i = some o →
      (o.state ≠ .complete ∨ o.detached = true → ∀ room, Answers (.slotReturn slot room) room s (clearOut s))
      ∧ (o.state = .complete → o.detached = false → s.setup.state = .loading → returnWaiting s slot = false →
        ∀ room, Answers (.slotReturn slot room) room s
          { clearOut s with plan.table := s.plan.table.set i (some { o with returnDue := true }) })
      ∧ (o.state = .complete → o.detached = false → s.setup.state ≠ .loading → s.link.areaSet = true → Quiet s →
        let owed : Option SlotRequest := s.intake.sweep.bind (fun w => w.requests.find? (fun q => q.slot == slot.val))
        let field (k n v : Nat) : Output := .write (jobAddr s (0x10000 + slot * 0x1000 + k)) n v
        ∃ t, exec (.slotReturn slot none) s = .next t
          ∧ ((match owed with
                | some q => [field 0x014 1 q.number.toNat,
                    field 0x015 1 (if q.code = 1 ∨ q.code = 2 ∨ q.code = 3 then 2 else 3)]
                | none => []) ++ final s o).Sublist t.out
          ∧ getOrder t i = none ∧ i ∉ t.plan.queue
          ∧ t.link.unreported = min (s.link.unreported + 1) 64
          ∧ t.link.idleTimer = some s.setup.params.notifyIdle
          ∧ (s.setup.params.notifyTrigger ≤ min (s.link.unreported + 1) 64 → t.link.causes.completed = true)))
  ∧ (∀ (result : Option (BitVec 64)) (s : State) (f : SetupField) (i : Nat) (o : Order), live s = true →
      s.link.areaSet = true → s.setup.cursor = some f →
      (result = none ∨ ∃ v, result = some v ∧ (f = .uniformity 9215 ∨ (f = .revision ∧ v.toNat % 2 ^ 32 ≠ 1))) →
      i < 16 → orderOfSlot s o.slot = some i → getOrder s i = some o → o.state = .complete → o.detached = false →
      o.returnDue = true → (∀ j p, j ≠ i → getOrder s j = some p → p.returnDue = false) →
      (∀ w, s.intake.sweep = some w → w.taken = none ∧ ∀ q ∈ w.requests, q.slot ≠ o.slot) →
      (∀ x ∈ s.link.waiting, x.slot = o.slot →
        x.offset ≠ 0 ∧ x.offset ≠ 0x020 ∧ ¬(0x060 ≤ x.offset ∧ x.offset < 0x080)) →
      ∃ t, exec (.setupReadComplete result false) s = .next t
        ∧ (s.link.waiting.map (fun x =>
              Output.write (jobAddr s (0x10000 + x.slot * 0x1000 + x.offset)) x.size x.value) ++ final s o).Sublist t.out
        ∧ getOrder t i = none)

/-! ## The machine request cell -/

/-- The read of the cell completes: after a POSTED token the request's code and operands are read, eight reads of
these sizes in that step (the model's choice, log entry 5), and its answer is owed; any
other token is left alone; a bus error of the token's read, or of an operand's after a POSTED token, is a slot read fault
with slot 255 and the request is not answered. An arrival that no read of the cell is out for, and one of an access since
abandoned, is discarded. Every answer of the cell other than DONE is written, the answer before the token, and changes
nothing else; a request whose token has not been read POSTED, and any while AREA is not set, is left alone. -/
def Obligations.CellReadAndRefusals : Prop :=
  (∀ s : State, live s = true →
     let c : State := { clearOut s with intake.cellRead := false }
     let failed : State := { c with intake.cellOwed := false }
     (s.intake.cellRead = true →
       Answers (.machineRequestCellRead (.token 1) false) none s
         { c with
           intake.cellOwed := true
           out := if s.link.areaSet then
               [(0x204, 1), (0x205, 1), (0x206, 2), (0x208, 1), (0x209, 1), (0x20A, 1), (0x20C, 4), (0x210, 4)].map
                 (fun x => Output.read (jobAddr s x.1) x.2) else [] }
       ∧ (∀ t : Word, t ≠ 1 →
           Answers (.machineRequestCellRead (.token t) false) none s { c with intake.sweep := sweepEnded c }))
     ∧ (s.intake.cellRead = true ∨ s.intake.cellOwed = true → ∀ offset,
         Answers (.machineRequestCellRead (.busError offset) false) none s
           (recordFault .slotRead 255 (jobAddr s (0x200 + offset)) { failed with intake.sweep := sweepEnded failed }))
     ∧ (s.intake.cellRead = false → ∀ t, Answers (.machineRequestCellRead (.token t) false) none s (clearOut s))
     ∧ (s.intake.cellRead = false → s.intake.cellOwed = false → ∀ offset,
         Answers (.machineRequestCellRead (.busError offset) false) none s (clearOut s))
     ∧ (∀ r, Answers (.machineRequestCellRead r true) none s (clearOut s)))
  ∧ (∀ s : State, live s = true →
       let gives (c : Instr) (code : Nat) : Prop := Answers c none s (cellAnswered code (clearOut s))
       let magA (m : Byte) : Prop := m = 0
       let magB (m : Byte) : Prop := m = 1
       let present (m : Byte) : Bool := if m = 0 then s.paper.magA.present else s.paper.magB.present
       let busy (m : Byte) : Prop := moving s = true ∧ (magA m ∧ s.paper.active = .a ∨ magB m ∧ s.paper.active = .b)
       let widthOk (w : Half) : Prop := w.toNat ∈ [89, 102, 127, 152, 203, 254, 305]
       (s.link.areaSet = true → s.intake.cellOwed = true →
         (∀ m w f t l k, 1 < m.toNat → gives (.loadPaper m w f t l k) 4)
         ∧ (∀ m w f t l k, m.toNat ≤ 1 → present m = false → gives (.loadPaper m w f t l k) 2)
         ∧ (∀ m w f t l k, m.toNat ≤ 1 → present m = true → busy m → gives (.loadPaper m w f t l k) 3)
         ∧ (∀ m w f t l k, m.toNat ≤ 1 → present m = true → ¬busy m → ¬widthOk w ∨ 3 < t.toNat →
             gives (.loadPaper m w f t l k) 4)
         ∧ (∀ m, 1 < m.toNat → gives (.clearPaper m) 4)
         ∧ (∀ m, m.toNat ≤ 1 → busy m → gives (.clearPaper m) 3)
         ∧ (s.eng.state ≠ .paused → ∀ jam, gives (.resume jam) 4)
         ∧ (s.eng.state ≠ .running → gives .changeoverNow 4)
         ∧ (∀ b, 15 < b.toNat → gives (.releaseBin b) 4)
         ∧ (∀ code, gives (.machineRequestNotApplicable code) 4))
       ∧ (s.link.areaSet = false ∨ s.intake.cellOwed = false → ∀ m w f t l k jam b code,
           ∀ c ∈ [Instr.loadPaper m w f t l k, .clearPaper m, .resume jam, .changeoverNow, .releaseBin b,
               .machineRequestNotApplicable code],
             Answers c none s (clearOut s)))

/-- The requests answered DONE, their token having read POSTED, the effect before the answer: LOAD_PAPER and CLEAR_PAPER
set the named record, evaluate LOW and the waiting orders at once (these by context index, log entry 41); RESUME in PAUSED
enters RUNNING; CHANGEOVER_NOW in RUNNING sets the pending switch flag; RELEASE_BIN acts as one key event of its bin. A
jam still there pauses the engine again, and this is where RESUME stops short. The order of the blocks as RUN rises is the
model's, log entry 11. -/
def Obligations.CellRequestsDone : Prop :=
  ∀ s : State, live s = true → s.link.areaSet = true → s.intake.cellOwed = true →
    (∀ (w : Half) (f t : Byte) (l k : Word), w.toNat ∈ [89, 102, 127, 152, 203, 254, 305] → t.toNat ≤ 3 →
      let load (r : Magazine) : Magazine :=
        { r with loaded := true, width := w.toNat, surface := if f = 0 then .gloss else .lustre
                 toneSet := t.toNat, remaining := l.toNat, lot := k }
      (s.paper.magA.present = true → (s.paper.active = .a → moving s = false) →
        Answers (.loadPaper 0 w f t l k) none s
          (cellAnswered 1 (evalWait (evalLow { clearOut s with paper.magA := load s.paper.magA }))))
      ∧ (s.paper.magB.present = true → (s.paper.active = .b → moving s = false) →
        Answers (.loadPaper 1 w f t l k) none s
          (cellAnswered 1 (evalWait (evalLow { clearOut s with paper.magB := load s.paper.magB })))))
    ∧ ((s.paper.active = .a → moving s = false) →
        Answers (.clearPaper 0) none s (cellAnswered 1 (evalWait (evalLow { clearOut s with
          paper.magA := { s.paper.magA with loaded := false, width := 0, remaining := 0, low := false } }))))
    ∧ ((s.paper.active = .b → moving s = false) →
        Answers (.clearPaper 1) none s (cellAnswered 1 (evalWait (evalLow { clearOut s with
          paper.magB := { s.paper.magB with loaded := false, width := 0, remaining := 0, low := false } }))))
    ∧ (s.eng.state = .paused →
        (s.line.webReady = false → Answers (.resume false) none s (cellAnswered 1 (runningEntered s)))
        ∧ (s.line.webReady = true → Answers (.resume false) none s (cellAnswered 1 (webReady (runningEntered s))))
        ∧ Answers (.resume true) none s (cellAnswered 1 (stoppage .jam { runningEntered s with cut.jam := true })))
    ∧ (s.eng.state = .running →
        Answers .changeoverNow none s (cellAnswered 1 { clearOut s with plan.switchFlag := true }))
    ∧ (∀ b : Byte, b.toNat ≤ 15 →
        Answers (.releaseBin b) none s (cellAnswered 1 (keyEvent b.toNat (clearOut s))))

/-! ## The setup store, paper and the changeover -/

/-- A read of a load completes. A revision word other than 1 ends the load INVALID with HEADER named and every table kept;
a revision word of 1 goes on with the first parameter; a bus error ends it INVALID with a setup read fault at the failing
address. With no load in progress, or of a load since abandoned, the arrival is discarded. A value read for any field but
the revision word goes into the store, and the load goes on with the next field in ascending offset order, or ends VALID
after the last uniformity entry; that one read is out at a time is the model's choice, log entry 40. The returns that wait
for a load begin at its end, and only then, several of them by context index (the model's choice, log entry 39). -/
def Obligations.SetupReadsStoredInOrder : Prop :=
  (∀ s : State, live s = true →
     (∀ r, Answers (.setupReadComplete r true) none s (clearOut s))
     ∧ (s.setup.cursor = none → ∀ r, Answers (.setupReadComplete r false) none s (clearOut s))
     ∧ (s.setup.cursor = some .revision → ∀ v : BitVec 64,
         (v.toNat % 2 ^ 32 ≠ 1 → Answers (.setupReadComplete (some v) false) none s (returnsAfterLoad (evalFetch
           { clearOut s with setup.state := .invalid, setup.cursor := none, setup.firstRefused := .header })))
         ∧ (v.toNat % 2 ^ 32 = 1 → s.link.areaSet = true →
             Answers (.setupReadComplete (some v) false) none s (returnsAfterLoad (evalFetch
               { clearOut s with setup.cursor := some (.param .sweepPeriod), out := [.read (jobAddr s 0x1010) 2] }))))
     ∧ (∀ f, s.setup.cursor = some f →
         Answers (.setupReadComplete none false) none s (returnsAfterLoad (evalFetch (recordFault .setupRead 255
           (jobAddr s (0x1000 + f.offset)) { clearOut s with setup.state := .invalid, setup.cursor := none })))))
  ∧ (∀ (f : SetupField) (v : BitVec 64) (s : State), live s = true → s.setup.cursor = some f → f ≠ .revision →
       f.inArea = true → s.link.areaSet = true →
       let x := storeField f v.toNat s.setup
       match nextField f x with
       | some g => f.offset < g.offset ∧
           Answers (.setupReadComplete (some v) false) none s (returnsAfterLoad (evalFetch
             { clearOut s with setup := { x with cursor := some g }
                               out := [.read (jobAddr s (0x1000 + g.offset)) g.size] }))
       | none => f = .uniformity 9215 ∧
           Answers (.setupReadComplete (some v) false) none s (returnsAfterLoad (evalFetch
             { clearOut s with setup := { x with state := .valid, cursor := none } })))
  ∧ (∀ s : State,
       s.setup.state = .loading ∨ (∀ o, some o ∈ s.plan.table → o.returnDue = false) → returnsAfterLoad s = s)

/-- A parameter read in a load: below its range it is stored as the lowest value, above it as the highest; each such
change counts once, up to 65,535, and the first refused table becomes the parameters where nothing is named yet. No other
parameter and nothing else of the store changes. The usable flag of a product record read to its end: it is defined, its
width is accepted, its frame length is 890 to 9,000 web steps, and the minimum quantities of its breaks below the break
count are strictly ascending. A defined record that fails names PRODUCTS where nothing is named yet. -/
def Obligations.ClampsAndUsableFlags : Prop :=
  (∀ (p : Param) (raw : Nat) (x : Setup),
     let v := raw % 2 ^ (8 * p.size)
     let c := if v < p.range.1 then p.range.1 else if p.range.2 < v then p.range.2 else v
     let y := storeField (.param p) raw x
     getParam p y.params = c
       ∧ (∀ q, q ≠ p → getParam q y.params = getParam q x.params)
       ∧ y.clampCount = (if c = v then x.clampCount else min (x.clampCount + 1) 65535)
       ∧ y.firstRefused = (if c ≠ v ∧ x.firstRefused = .none then .parameters else x.firstRefused)
       ∧ y = { x with params := y.params, clampCount := y.clampCount, firstRefused := y.firstRefused })
  ∧ (∀ (p : Nat) (x : Setup), p < x.products.length →
       let r := getProduct x p
       let y := flagProduct p x
       let sound := r.width ∈ [89, 102, 127, 152, 203, 254, 305] ∧ 890 ≤ r.length ∧ r.length ≤ 9000
         ∧ ((r.breaks.take r.breakCount).map Break.minimum).Pairwise (· < ·)
       ((getProduct y p).usable = true ↔ r.isDefined = true ∧ sound)
         ∧ (∀ q, q ≠ p → getProduct y q = getProduct x q)
         ∧ (y.firstRefused = .products ↔
             x.firstRefused = .products ∨ (x.firstRefused = .none ∧ r.isDefined = true ∧ ¬sound)))

/-- A magazine's demand: the longest frame length among the print entries of its width with copies still to expose, over
the orders that are neither CANCELLING nor detached, plus 400 web steps, and 400 with no such entry. LOW of both
magazines: set for a loaded magazine whose remaining length is less than its demand, clear otherwise; a change from clear
to set raises ATTENTION, and any change makes a write of the flag due. -/
def Obligations.DemandAndLow : Prop :=
  (∀ (s : State) (r : Magazine) (n : Nat),
     demand s r ≤ n ↔ 400 ≤ n ∧ ∀ o, some o ∈ s.plan.table → o.state ≠ .cancelling → o.detached = false →
       ∀ e ∈ o.entries, e.width = r.width → 0 < e.t → e.length + 400 ≤ n)
  ∧ (∀ s : State,
       let low (r : Magazine) : Bool := r.loaded && decide (r.remaining < demand s r)
       let rises (r : Magazine) : Bool := low r && !r.low
       evalLow s =
         { s with
           paper.magA.low := low s.paper.magA, paper.magB.low := low s.paper.magB
           link.causes.attention := s.link.causes.attention || rises s.paper.magA || rises s.paper.magB
           link.dirty := s.link.dirty ++ (if low s.paper.magA = s.paper.magA.low then [] else [0x16])
             ++ (if low s.paper.magB = s.paper.magB.low then [] else [0x26]) })

/-- A present sensor going inactive clears its magazine's record, and LOW and the waiting orders are evaluated at once,
the orders by context index (the model's choice, log entry 41): a QUEUED order with an entry still to expose whose width
no loaded record has becomes WAIT_PAPER, with ATTENTION, a WAIT_PAPER order without one QUEUED, each with its mirror
written to the slot, and any other stays. A sensor becoming active changes nothing but the present field. -/
def Obligations.PresentSensorClearsRecord : Prop :=
  ∀ s : State, live s = true →
    let cleared (r : Magazine) : Magazine :=
      { r with loaded := false, width := 0, remaining := 0, low := false, present := false }
    Answers (.presentSensorInactive .a) none s
        (evalWait (evalLow { clearOut s with paper.magA := cleared s.paper.magA }))
    ∧ Answers (.presentSensorInactive .b) none s
        (evalWait (evalLow { clearOut s with paper.magB := cleared s.paper.magB }))
    ∧ Answers (.presentSensorActive .a) none s { clearOut s with paper.magA.present := true }
    ∧ Answers (.presentSensorActive .b) none s { clearOut s with paper.magB.present := true }
    ∧ evalWait s = (List.range 16).foldl evalWaitOf s
    ∧ ∀ i, (getOrder s i = none → evalWaitOf s i = s) ∧ ∀ o, getOrder s i = some o →
        let lacks := ∃ e ∈ o.entries, 0 < e.t ∧ ¬(s.paper.magA.loaded = true ∧ s.paper.magA.width = e.width)
          ∧ ¬(s.paper.magB.loaded = true ∧ s.paper.magB.width = e.width)
        let moved (st : OrderState) : State :=
          { s with
            plan.table := s.plan.table.set i (some { o with state := st })
            link.waiting := if o.detached = true then s.link.waiting else waitingWith [mirrorWrite o.slot st] s }
        (o.state = .queued → lacks → evalWaitOf s i = { moved .waitPaper with link.causes.attention := true })
        ∧ (o.state = .waitPaper → ¬lacks → evalWaitOf s i = moved .queued)
        ∧ ((o.state = .queued → ¬lacks) → (o.state = .waitPaper → lacks) → evalWaitOf s i = s)

/-- A changeover request is taken while the changeover is IDLE, the engine is RUNNING or STOPPING and the magazine that is
not active is loaded: it becomes the target and the timer is loaded with the timeout in milliseconds. Any other request
changes nothing. CHANGE_DONE while CHANGING makes the target the active magazine, stops the timer, drops CHANGE, clears
the pending switch flag and every order's waiting-since, evaluates LOW and lays the splice; the timer's expiry ends the
changeover with the stoppage PAPER_FEED. While IDLE both are ignored. The splice of a completed changeover lies at z: the
head, or the end of the last entry that is no GAP where that is ahead of it. A map that ends behind z has gap laid up to
z, a trailing GAP that ends ahead of z is shortened to end there or removed at length 0; then 400 web steps follow, a
SPLICE, the 256th entry a GAP, and at 256 entries added to the trailing GAP (a GAP beside a GAP at 255 is log entry 19),
and the splice hold is set to their end. -/
def Obligations.ChangeoverRequestedDoneOrExpired : Prop :=
  (∀ s : State,
     let other : Mag := if s.paper.active = .a then .b else .a
     let loaded := if s.paper.active = .a then s.paper.magB.loaded else s.paper.magA.loaded
     (s.paper.target = none → moving s = true → loaded = true →
       requestChange s =
         { s with paper.target := some other, paper.timer := some (s.setup.params.changeTimeout * 1000) })
     ∧ (s.paper.target ≠ none ∨ moving s = false ∨ loaded = false → requestChange s = s))
  ∧ (∀ s : State, live s = true →
       (s.paper.target = none → ∀ c ∈ [Instr.changeDone, Instr.changeoverTimerExpiry], Answers c none s (clearOut s))
       ∧ ∀ m, s.paper.target = some m →
         let ended : State := { clearOut s with paper.target := none, paper.timer := none }
         Answers .changeDone none s (laySplice (evalLow
           { ended with
             paper.active := m, plan.switchFlag := false
             plan.table := s.plan.table.map (Option.map (fun o => { o with waitingSince := none })) }))
         ∧ Answers .changeoverTimerExpiry none s (stoppage .paperFeed ended))
  ∧ (∀ s : State,
       let z := splicePos s
       let ended (e : MapEntry) : Word := e.start + BitVec.ofNat 32 e.length
       let unflagged : Flags :=
         { sag := false, underrun := false, truncated := false, spoiled := false, unverified := false, miscut := false }
       let gap (start : Word) (n : Nat) : MapEntry :=
         { number := s.web.nextNumber, piece := .gap, start := start, length := n, flags := unflagged }
       let spliced (m : List MapEntry) (next : Word) : State :=
         { s with
           web.map := m ++ [{ number := next, piece := if m.length ≤ 254 then .splice else .gap, start := z, length := 400
                              flags := unflagged }]
           web.nextNumber := next + 1, web.hold := some (z + 400) }
       let grown (m : List MapEntry) (next : Word) : State :=
         { s with web.map := m, web.nextNumber := next, web.hold := some (z + 400) }
       ((∀ e ∈ s.web.map, e.piece = .gap) → z = s.line.w)
       ∧ (∀ before e after, s.web.map = before ++ e :: after → e.piece ≠ .gap → (∀ x ∈ after, x.piece = .gap) →
           z = if 0 < signedDiff (ended e) s.line.w then ended e else s.line.w)
       ∧ (s.web.map = [] → laySplice s = spliced [] s.web.nextNumber)
       ∧ (∀ before e, s.web.map = before ++ [e] → e.piece ≠ .gap → s.web.map.length ≤ 255 →
           (0 ≤ signedDiff (ended e) z → laySplice s = spliced s.web.map s.web.nextNumber)
           ∧ (signedDiff (ended e) z < 0 →
             let n := (signedDiff z (ended e)).toNat
             (s.web.map.length ≤ 254 →
               laySplice s = spliced (s.web.map ++ [gap (ended e) n]) (s.web.nextNumber + 1))
             ∧ (s.web.map.length = 255 →
               laySplice s = grown (s.web.map ++ [gap (ended e) (n + 400)]) (s.web.nextNumber + 1))))
       ∧ (∀ before g, s.web.map = before ++ [g] → g.piece = .gap → s.web.map.length ≤ 256 →
           let lies (n : Nat) : Prop :=
             (s.web.map.length ≤ 255 → laySplice s = spliced (before ++ [{ g with length := n }]) s.web.nextNumber)
             ∧ (s.web.map.length = 256 → laySplice s = grown (before ++ [{ g with length := n + 400 }]) s.web.nextNumber)
           (signedDiff (ended g) z < 0 → lies (g.length + (signedDiff z (ended g)).toNat))
           ∧ (signedDiff (ended g) z = 0 → lies g.length)
           ∧ (0 < signedDiff (ended g) z → 0 < signedDiff z g.start → lies (signedDiff z g.start).toNat)
           ∧ (0 < signedDiff (ended g) z → signedDiff z g.start ≤ 0 →
               laySplice s = spliced before s.web.nextNumber)))

/-! ## The transport and the head -/

/-- A line strobe is taken in every engine state but HALTED: W rises by one and wraps, the active magazine's remaining
length falls by one unless it is not loaded or at 0; no other magazine's length, no parameter and no bin key is touched,
and the prints on the lane stay, one cut in this step joining behind them. With the web IDLE that, the dark line and LOW
are all of it. -/
def Obligations.StrobeAdvancesWebAndPaper : Prop :=
  ∀ (paper good : Bool) (s : State), live s = true →
    (∃ t, exec (.lineStrobe paper good) s = .next t
      ∧ t.line.w = s.line.w + 1
      ∧ t.paper.active = s.paper.active
      ∧ (∀ m, (getMag t m).remaining =
          if m = s.paper.active ∧ (getMag s m).loaded = true then (getMag s m).remaining - 1 else (getMag s m).remaining)
      ∧ t.setup = s.setup ∧ s.sort.lane <+: t.sort.lane ∧ t.sort.clock = s.sort.clock ∧ t.sort.keys = s.sort.keys
      ∧ t.pending = s.pending)
    ∧ (s.line.web = .idle → moving s = false →
      let dark : State := { clearOut s with line.w := s.line.w + 1, line.head := [], line.lineFrame := none }
      ((activeMag s).loaded = false ∨ (activeMag s).remaining = 0 → Answers (.lineStrobe paper good) none s dark)
      ∧ (∀ r, s.paper.active = .a → r = s.paper.magA → r.loaded = true → 0 < r.remaining →
          Answers (.lineStrobe paper good) none s
            (evalLow { dark with paper.magA := { r with remaining := r.remaining - 1 } }))
      ∧ (∀ r, s.paper.active = .b → r = s.paper.magB → r.loaded = true → 0 < r.remaining →
          Answers (.lineStrobe paper good) none s
            (evalLow { dark with paper.magB := { r with remaining := r.remaining - 1 } })))

/-- LTU's own handling of a strobe by web state. RAMPING: the line dark, the paper-break count kept, and the position laid
into gap, or a PAPER_BREAK at the 50th strobe without paper in a row, which ends the handling (in RAMPING the model's
choice, log entry 22). READY: an ending line that is still lit is truncated, W rises, and where the line ends a FRAME its
exposure end is reported and its item leaves the frame list, a fetch cursor that names the item moving to line 0 of the
first FETCHING one; then the same count; then a GAP or SPLICE gives a dark line, an uncovered position is laid into gap,
and line i of a FRAME takes the widths computed from FCH's answer, UNDERRUN set on an underrun, the punch fired at line 0;
supervision restarts. -/
def Obligations.StrobeHandledByWebState : Prop :=
  ∀ s : State,
    let p := s.line.w
    let darkened (s : State) : State := { s with line.head := [], line.lineFrame := none }
    let counting (k : Nat) (s : State) : State := { s with line.breakCount := k }
    let watched (s : State) : State := { s with line.supervision := some (4 * ((s.line.divisor + 1) * 4 ^ s.line.prescale)) }
    let dark : State := darkened { s with line.w := p + 1 }
    let dropped (n : Word) (s : State) : State :=
      let s1 : State := { s with fetch.items := s.fetch.items.filter (fun x => x.number != n) }
      let first : Option (Word × Nat) :=
        (s1.fetch.items.find? (fun x => x.state == .fetching)).map (fun x => (x.number, 0))
      match s.fetch.cursor with
      | some (k, _) => if k = n then evalFetch { s1 with fetch.cursor := first } else s1
      | none => s1
    (∀ paper, s.line.web = .idle → lineTiming paper s = dark)
    ∧ (s.line.web = .ramping →
      lineTiming true s = layStrobe p (counting 0 dark)
      ∧ (s.line.breakCount + 1 ≠ 50 → lineTiming false s = layStrobe p (counting (s.line.breakCount + 1) dark))
      ∧ (s.line.breakCount + 1 = 50 → lineTiming false s = stoppage .paperBreak (counting 0 dark)))
    ∧ (s.line.web = .ready →
      let past : State :=
        if ∃ x ∈ s.line.head, x ≠ { red := 0, green := 0, blue := 0 } then { truncateLine s with line.w := p + 1 }
        else { s with line.w := p + 1 }
      let after : State := match entryAt past (p - 1) with
        | some e => (match e.piece with
          | .frame _ => if e.start + BitVec.ofNat 32 e.length = p then dropped e.number (exposureEnd e.number past) else past
          | _ => past)
        | none => past
      (s.line.breakCount + 1 = 50 → lineTiming false s = stoppage .paperBreak (darkened (counting 0 after)))
      ∧ ∀ paper : Bool, ¬(paper = false ∧ s.line.breakCount + 1 = 50) →
        let begun : State := counting (if paper = true then 0 else s.line.breakCount + 1) after
        (entryAt after p = none → lineTiming paper s = watched (layStrobe p (darkened begun)))
        ∧ (∀ e, entryAt after p = some e → (e.piece = .gap ∨ e.piece = .splice) →
          lineTiming paper s = watched (darkened begun))
        ∧ (∀ e f, entryAt after p = some e → e.piece = .frame f →
          let i := (signedDiff p e.start).toNat
          let a := serve e.number i begun
          let fl : State := if a.1 = .underrun then flagUnderrun e.number a.2 else a.2
          let x := exposeLine e.number f.toneSet i a.1 fl
          lineTiming paper s = watched { x.2 with
            line.head := x.1, line.lineFrame := some e.number, line.punch := s.line.punch || i == 0 }))

/-- A strobe that arrives while a pulse is on truncates the ending line: TRUNCATED on its FRAME, every element off. The
exposure end of a FRAME sets exposure ended; a frame still GOOD with SAG, UNDERRUN or TRUNCATED becomes REJECT and is
reported bad, and any other is not reported. -/
def Obligations.TruncationAndExposureEnd : Prop :=
  ∀ (n : Word) (s : State),
    (s.line.lineFrame = some n → (∃ x ∈ s.line.head, x ≠ { red := 0, green := 0, blue := 0 }) →
      truncateLine s =
        { s with
          line.head := []
          web.map := s.web.map.map (fun e =>
            if e.number = n then { e with flags := { e.flags with truncated := true } } else e) })
    ∧ ((∀ x ∈ s.line.head, x = { red := 0, green := 0, blue := 0 }) → truncateLine s = s)
    ∧ ∀ before after e f, s.web.map = before ++ e :: after → (∀ x ∈ before ++ after, x.number ≠ n) → e.number = n →
        e.piece = .frame f →
        let ended (reject : Bool) : State :=
          { s with web.map := before ++ { e with piece := .frame { f with ended := true, reject := reject } } :: after }
        let bad := e.flags.sag || e.flags.underrun || e.flags.truncated
        exposureEnd n s =
          if f.reject = true then ended true
          else if bad = true then settleFrame (.bad false) f.order f.entry n (ended true)
          else ended false

/-- A whole strobe: LTU's handling by web state; then, with RUN high as the strobe came, the cutter-side position; with
RUN still high, the splice hold cleared one step past the splice (in RAMPING too: the model's choice, log entry 47), the
supply sample, the mark window and the cut test; then the paper count, where the last step of the magazine, the engine
moving and the changeover IDLE as the strobe came, asks for a changeover or is a PAPER_BREAK, also behind a stoppage of
the same strobe; and a commit point at a READY strobe that leaves the map end 32 or fewer steps ahead. The order of the
blocks within a strobe is the model's choice, log entry 11. The supply sample acts while a load watch runs: it counts the
settling down, then ends the watch at the first good reading after the stroke's end, and at a low reading sets SAG on the
FRAME sampled and counts it, once for each FRAME. -/
def Obligations.StrobeRunsEveryBlock : Prop :=
  (∀ (paper good : Bool) (s : State), live s = true →
     let timed := lineTiming paper (clearOut s)
     let placed : State := if s.line.web = .idle then timed else
       { timed with web.cutterPos :=
           timed.line.w - BitVec.ofNat 32 s.setup.params.cutLength - BitVec.ofInt 32 timed.cut.offset }
     let joined : State := match placed.web.hold with
       | some e => if placed.line.w = e + 1 then { placed with web.hold := none } else placed
       | none => placed
     let cutOf : State := if placed.line.web = .idle then placed else
       cutTest (closeWindow (sample good s.line.w joined))
     let counted := paperStrobe (moving s && s.paper.target.isNone) cutOf
     Answers (.lineStrobe paper good) none s
       (if counted.line.web = .ready ∧ signedDiff (mapEnd counted) counted.line.w ≤ 32 then commitPoint counted else counted))
  ∧ (∀ (good : Bool) (p : Word) (s : State),
       (s.supply.watching = false → sample good p s = s)
       ∧ (s.supply.watching = true → 0 < s.supply.settle →
           sample good p s = { s with supply.settle := s.supply.settle - 1 })
       ∧ (s.supply.watching = true → s.supply.settle = 0 →
           (s.supply.strokeEnded = true → sample true p s =
             { s with supply.watching := false, supply.settle := 0, supply.strokeEnded := false })
           ∧ (s.supply.strokeEnded = false → sample true p s = s)
           ∧ (∀ e f, entryAt s p = some e → e.piece = .frame f → e.flags.sag = false →
               sample false p s =
                 { s with
                   supply.sags := s.supply.sags + 1
                   web.map := s.web.map.map (fun x =>
                     if x.number = e.number then { x with flags := { x.flags with sag := true } } else x) })
           ∧ ((∀ e f, entryAt s p = some e → e.piece = .frame f → e.flags.sag = true) → sample false p s = s)))
  ∧ (∀ (handles : Bool) (s : State),
       let r := activeMag s
       let t := evalLow (setMag s.paper.active { r with remaining := r.remaining - 1 } s)
       let out := r.remaining = 1 ∧ handles = true
       let other := (otherMag s).loaded = true ∧ 400 ≤ (otherMag s).remaining
       (r.loaded = false ∨ r.remaining = 0 → paperStrobe handles s = s)
       ∧ (r.loaded = true → 0 < r.remaining →
         (¬out → paperStrobe handles s = t)
         ∧ (out → other → paperStrobe handles s = requestChange t)
         ∧ (out → ¬other → paperStrobe handles s = stoppage .paperBreak t)))

/-- WEB_READY, supervision, the jam sensor, RATE, PUNCH, a pulse's end and the lamps' blink: each level is followed;
WEB_READY rising in RAMPING makes the web READY with supervision at 4 × L ticks and a commit point where the map ends at
or behind W; WEB_READY falling in READY and the supervision timer's expiry are STALL, the jam sensor with RUN high is JAM;
a RATE pulse goes out while RUN is high; PUNCH ends; the one pulse goes off; the one blink phase turns. -/
def Obligations.LineEvents : Prop :=
  ∀ s : State, live s = true →
    (s.line.web = .ramping →
      let ready : State :=
        { clearOut s with
          line.webReady := true, line.web := .ready
          line.supervision := some (4 * ((s.line.divisor + 1) * 4 ^ s.line.prescale)) }
      (signedDiff (mapEnd s) s.line.w ≤ 0 → Answers .webReadyRise none s (commitPoint ready))
      ∧ (0 < signedDiff (mapEnd s) s.line.w → Answers .webReadyRise none s ready))
    ∧ (s.line.web ≠ .ramping → Answers .webReadyRise none s { clearOut s with line.webReady := true })
    ∧ (s.line.web = .ready → Answers .webReadyFall none s (stoppage .stall { clearOut s with line.webReady := false }))
    ∧ (s.line.web ≠ .ready → Answers .webReadyFall none s { clearOut s with line.webReady := false })
    ∧ (s.line.supervision ≠ none →
        Answers .strobeSupervisionExpiry none s (stoppage .stall { clearOut s with line.supervision := none }))
    ∧ (s.line.supervision = none → Answers .strobeSupervisionExpiry none s (clearOut s))
    ∧ (s.line.web ≠ .idle → Answers .jamSensorActive none s (stoppage .jam { clearOut s with cut.jam := true }))
    ∧ (s.line.web = .idle → Answers .jamSensorActive none s { clearOut s with cut.jam := true })
    ∧ (s.line.web ≠ .idle → Answers .ratePeriod none s { clearOut s with out := [.ratePulse] })
    ∧ (s.line.web = .idle → Answers .ratePeriod none s (clearOut s))
    ∧ Answers .punchEnd none s { clearOut s with line.punch := false }
    ∧ (∀ (e : BitVec 12) (c : Chan), Answers (.pulseEnd e c) none s
        { clearOut s with
          line.head := s.line.head.modify e.toNat (fun x =>
            (match c with
              | .red => { x with red := 0 }
              | .green => { x with green := 0 }
              | .blue => { x with blue := 0 })) })
    ∧ Answers (.lampBlinkToggle .hz1) none s { clearOut s with sort.blink1 := !s.sort.blink1 }
    ∧ Answers (.lampBlinkToggle .hz4) none s { clearOut s with sort.blink4 := !s.sort.blink4 }

/-! ## The fetch unit -/

/-- A line read is issued for the cursor's line only while refill is active, the engine RUNNING or STOPPING, fewer than 2
reads out and the buffer with them below 16: a line inside an enabled window is read and put in the outstanding list, and
a line outside them is an access fault on its frame at that address. The cursor then moves to the next line, and past the
last line the item is FETCHED and the cursor names line 0 of the oldest FETCHING item, or nothing. Refill comes to rest at
16 lines with the reads out, and below that is active at or below the refill mark. A line of width 0 is not read: in the
very evaluation that finds the cursor on it and these conditions met it joins the buffer, whatever brought the cursor
there, and the next such line behind it. (That it joins also while an earlier frame's read is out, and behind completed
reads that leave in the same step, is the model's choice, log entry 34.) -/
def Obligations.LineReadIssuedForCursor : Prop :=
  (∀ s : State, live s = true →
    let may := s.fetch.refill = true ∧ moving s = true ∧ s.fetch.reads.length < 2
      ∧ s.fetch.buffer.length + s.fetch.reads.length < 16
    (¬may ∨ s.fetch.cursor = none → Answers .lineReadIssue none s (clearOut s))
    ∧ ∀ n i x, may → s.fetch.cursor = some (n, i) → findItem s n = some x →
        let addr := busAddr (x.image.addr.toNat + i * x.image.stride.toNat)
        (x.image.width = 0 → Answers .lineReadIssue none s (evalFetch (moveCursor n (i + 1)
          { clearOut s with fetch.buffer := s.fetch.buffer ++ [{ number := n, index := i, pixels := [] }] })))
        ∧ (x.image.width ≠ 0 → windowTest s.setup x.image i = true → s.link.areaSet = true →
            Answers .lineReadIssue none s (evalFetch (moveCursor n (i + 1)
              { clearOut s with
                fetch.reads := s.fetch.reads ++ [{ number := n, index := i, addr := addr, discard := false, ended := none }]
                out := [.read addr (3 * x.image.width.toNat)] })))
        ∧ (windowTest s.setup x.image i = false → Answers .lineReadIssue none s (accessFault n addr (clearOut s))))
  ∧ (∀ (n : Word) (i : Nat) (s : State),
       let first (items : List FrameItem) : Option (Word × Nat) :=
         (items.find? (fun x => x.state == .fetching)).map (fun x => (x.number, 0))
       (findItem s n = none → moveCursor n i s = { s with fetch.cursor := first s.fetch.items })
       ∧ ∀ x, findItem s n = some x →
         (i < x.image.height.toNat → moveCursor n i s = { s with fetch.cursor := some (n, i) })
         ∧ (x.image.height.toNat ≤ i →
           let items := s.fetch.items.map (fun y => if y.number = n then { y with state := .fetched } else y)
           moveCursor n i s = { s with fetch.items := items, fetch.cursor := first items }))
  ∧ (∀ s : State,
       let lines := s.fetch.buffer.length + s.fetch.reads.length
       (16 ≤ lines → evalRefill s = { s with fetch.refill := false })
       ∧ (lines < 16 → s.fetch.buffer.length ≤ s.setup.params.refillMark → evalRefill s = { s with fetch.refill := true })
       ∧ (lines < 16 → s.setup.params.refillMark < s.fetch.buffer.length → evalRefill s = s))
  ∧ (∀ s : State,
       let e := evalRefill s
       let joins (n : Word) (i : Nat) : Prop := e.fetch.refill = true ∧ moving s = true ∧ s.fetch.reads.length < 2
         ∧ s.fetch.buffer.length + s.fetch.reads.length < 16 ∧ (∀ r ∈ s.fetch.reads.head?, r.ended = none)
         ∧ s.fetch.cursor = some (n, i) ∧ ∃ x, findItem s n = some x ∧ x.image.width = 0
       ((∀ n i, ¬joins n i) → evalFetch s = e)
       ∧ ∀ n i, joins n i → evalFetch s = evalFetch (moveCursor n (i + 1)
         { e with fetch.buffer := s.fetch.buffer ++ [{ number := n, index := i, pixels := [] }] }))

/-- An access fault on a frame in the list: its item STOPPED, its lines out of the buffer, the refill conditions evaluated,
its entry SPOILED and REJECT, the fault recorded with the slot and the address or counted, the frame settled once as
abandoned, and its order marked FAULT and cancelled; of an order that is not detached the results that change and the
mirror are written to the slot (in the order of log entry 48). -/
def Obligations.AccessFaultStopsFrame : Prop :=
  ∀ (n : Word) (addr : Long) (s : State) (x : FrameItem), findItem s n = some x →
    let t := accessFault n addr s
    let r := recordFault .imageRead x.slot addr s
    (∃ u, t = evalFetch u
        ∧ u.fetch.items = s.fetch.items.map (fun y => if y.number = n then { y with state := .stopped } else y)
        ∧ u.fetch.buffer = s.fetch.buffer.filter (fun l => l.number != n)
        ∧ (∀ k i, u.fetch.cursor = some (k, i) → k ≠ n))
      ∧ (∀ y ∈ t.fetch.items, y.number = n → y.state = .stopped) ∧ (∀ l ∈ t.fetch.buffer, l.number ≠ n)
      ∧ t.fetch.reads = s.fetch.reads
      ∧ (∀ k i, t.fetch.cursor = some (k, i) → k ≠ n)
      ∧ t.web.map = s.web.map.map (fun e => if e.number = n then
          { e with
            flags := { e.flags with spoiled := true }
            piece := (match e.piece with
              | .frame f => .frame { f with reject := true }
              | other => other) } else e)
      ∧ t.eng = r.eng ∧ t.link.causes.fault = true
      ∧ ∀ e f o pe, entryNumbered s n = some e → e.piece = .frame f → getOrder s f.order = some o → n ∈ o.unsettled →
          o.entries[f.entry]? = some pe → 0 < pe.f →
          (o.detached = false → ∃ p, getOrder t f.order = some p) ∧
          (let q : Entry := { pe with f := pe.f - 1, a := pe.a + 1 }
           let settled : Order := { o with entries := o.entries.set f.entry q }
           let ends := if inFlight settled = 0 then [mirrorWrite o.slot .complete] else []
           t.link.waiting = (if o.detached = true then s.link.waiting else waitingWith (resultWrites o.slot f.entry q
             ++ (if o.state = .complete then []
               else if o.state = .cancelling then ends
               else mirrorWrite o.slot .cancelling :: abandonedWrites settled ++ ends)) s)) ∧
          ∀ p, getOrder t f.order = some p →
            p.faultMark = true ∧ n ∉ p.unsettled ∧ (p.state = .cancelling ∨ p.state = .complete)
            ∧ (o.state ≠ .cancelling → o.state ≠ .complete → p.cancelled = true ∧ stillToExpose p = 0)
            ∧ ∃ q, p.entries[f.entry]? = some q ∧ q.f = pe.f - 1 ∧ q.used = pe.used
              ∧ q.a + q.t = pe.a + pe.t + 1

/-- A line read completes. The oldest read leaves the list: discarded where it was marked, its frame is STOPPED or gone or
its line has been passed, in a bus error too (of a passed line's read the model's choice, log entry 42); otherwise its
line joins the buffer, or a bus error is an access fault on its frame. A younger read that completes waits for it, and is
judged when it leaves (the model's choice, log entry 49). The refill conditions are evaluated as each leaves. An arrival that matches no read is discarded. What a strobe takes that needs line i of a frame: dark where the frame has no
item or is STOPPED, the pattern of a PATTERN frame, and otherwise the line itself, the lines behind it dropped, or an
underrun, counted, where it is not there; the cursor moves past the line. -/
def Obligations.LineReadsLeaveInOrder : Prop :=
  (∀ (result : Option (List Byte)) (s : State), live s = true →
    let how : ReadEnd := match result with
      | some bytes => .data bytes
      | none => .busError
    let discarded (s : State) (r : LineRead) : Prop := r.discard = true ∨ findItem s r.number = none
      ∨ ∃ x, findItem s r.number = some x ∧ (x.state = .stopped ∨ r.index < x.served)
    (∀ (r : LineRead) (how : ReadEnd) (s : State),
      (discarded s r → leaveRead r how s = evalFetch s)
      ∧ (¬discarded s r → (∀ bytes, how = .data bytes → leaveRead r how s = evalFetch
          { s with fetch.buffer := s.fetch.buffer ++ [{ number := r.number, index := r.index, pixels := bytes }] })
        ∧ (how = .busError → leaveRead r how s = accessFault r.number r.addr s)))
    ∧ (∀ place, s.fetch.reads.length ≤ place → (∀ r ∈ s.fetch.reads.head?, r.ended = none) →
        Answers (.lineReadComplete place result) none s (clearOut s))
    ∧ (∀ r, s.fetch.reads = [r] → r.ended = none →
        Answers (.lineReadComplete 0 result) none s (leaveRead r how { clearOut s with fetch.reads := [] }))
    ∧ (∀ r1 r2, s.fetch.reads = [r1, r2] → r1.ended = none →
        (r2.ended = none →
          Answers (.lineReadComplete 0 result) none s (leaveRead r1 how { clearOut s with fetch.reads := [r2] })
          ∧ Answers (.lineReadComplete 1 result) none s
            { clearOut s with fetch.reads := [r1, { r2 with ended := some how }] })
        ∧ (∀ earlier, r2.ended = some earlier →
          let first := leaveRead r1 how { clearOut s with fetch.reads := [r2] }
          Answers (.lineReadComplete 0 result) none s
            (leaveRead r2 earlier { first with fetch.reads := [] }))))
  ∧ (∀ (n : Word) (i : Nat) (s : State),
       let passed (s : State) : State :=
         let s1 : State :=
           { s with fetch.items := s.fetch.items.map (fun x =>
               if x.number = n then { x with served := max x.served (i + 1) } else x) }
         match s.fetch.cursor with
         | some (k, j) => if k = n ∧ j ≤ i then moveCursor n (i + 1) s1 else s1
         | none => s1
       let kept := s.fetch.buffer.dropWhile (fun l =>
         if l.number = n then decide (l.index < i) else decide (signedDiff l.number n < 0))
       (findItem s n = none → serve n i s = (.dark, s))
       ∧ ∀ x, findItem s n = some x →
         (x.state = .stopped → serve n i s = (.dark, evalFetch (passed s)))
         ∧ (x.state ≠ .stopped → x.pattern = true → serve n i s = (.pattern x, evalFetch (passed s)))
         ∧ (x.state ≠ .stopped → x.pattern = false →
           (∀ l rest, kept = l :: rest → l.number = n → l.index = i →
             serve n i s = (.line x l.pixels, evalFetch (passed { s with fetch.buffer := rest })))
           ∧ ((∀ l, kept.head? = some l → l.number ≠ n ∨ l.index ≠ i) →
             serve n i s = (.underrun, evalFetch (passed
               { s with fetch.buffer := kept, fetch.underruns := s.fetch.underruns + 1 })))))

/-! ## The cutter -/

/-- The knife home sensor and the knife timer: the blade leaves home and the solenoid goes off; its return ends the
stroke, tells SMN and makes the cut test at once; a reading of home before it has left is no stroke end; in FAULTED home
makes the knife IDLE; the timer's expiry in STROKE makes it FAULTED with KNIFE_FAULT. -/
def Obligations.KnifeSensorAndTimer : Prop :=
  ∀ s : State, live s = true →
    let at_ (active : Bool) : State := { clearOut s with cut.home := active }
    (∀ active, s.cut.knife = .idle ∨ (s.cut.knife = .faulted ∧ active = false)
        ∨ (s.cut.knife = .stroke ∧ active ≠ s.cut.leftHome) →
      Answers (.knifeHomeSensor active) none s (at_ active))
    ∧ (s.cut.knife = .stroke → s.cut.leftHome = false →
        Answers (.knifeHomeSensor false) none s { at_ false with cut.leftHome := true, cut.solenoid := false })
    ∧ (s.cut.knife = .stroke → s.cut.leftHome = true →
        Answers (.knifeHomeSensor true) none s (cutTest
          { at_ true with
            cut.timer := none, cut.leftHome := false, cut.knife := .idle, cut.solenoid := false
            supply.strokeEnded := s.supply.strokeEnded || s.supply.watching }))
    ∧ (s.cut.knife = .faulted → Answers (.knifeHomeSensor true) none s { at_ true with cut.knife := .idle })
    ∧ (s.cut.knife = .stroke → s.cut.timer ≠ none →
        Answers .knifeTimerExpiry none s (stoppage .knifeFault
          { clearOut s with
            cut.solenoid := false, cut.leftHome := false, cut.knife := .faulted, cut.timer := none }))
    ∧ (s.cut.knife ≠ .stroke ∨ s.cut.timer = none → Answers .knifeTimerExpiry none s (clearOut s))

/-- The cut test and the cut. The oldest boundary is due when W has reached its due position: an IDLE knife fires for it,
a knife in STROKE lets it wait, a FAULTED one reports KNIFE_FAULT. The fire starts the stroke and the load watch, and the
oldest entry leaves the map: a print is offered to the lane, other paper is counted as waste. More than 3 steps late, the
two pieces are first flagged MISCUT, and each GOOD frame among them becomes REJECT and is reported bad, that of the entry
leaving first (the model's choice, log entry 43). While STOPPING, an entry's leaving that takes the last FRAME or SPLICE
out of the map leaves the engine STOPPED, in the very step of the cut (the model's reading, log entry 29). -/
def Obligations.CutTestFiresForDueBoundary : Prop :=
  ∀ s : State,
    (s.web.map = [] → cutTest s = s)
    ∧ ∀ e rest, s.web.map = e :: rest →
      let b := e.start + BitVec.ofNat 32 e.length
      let late := signedDiff s.line.w (b + BitVec.ofNat 32 s.setup.params.cutLength + BitVec.ofInt 32 s.cut.offset)
      let fired : State :=
        { s with
          cut.solenoid := true, cut.timer := some s.setup.params.strokeTime, cut.leftHome := false, cut.knife := .stroke
          supply.watching := true, supply.settle := s.setup.params.settle, supply.strokeEnded := false }
      let leaves (s : State) : State :=
        let s1 : State :=
          { s with
            web.map := s.web.map.tail
            link.dirty := s.link.dirty ++ (if anyFlag e.flags = true ∨ 3 < late then [0x178] else []) }
        let t := match e.piece with
          | .frame f => offerPrint f.order f.entry e.number (f.reject || decide (3 < late)) e.flags.unverified s1
          | _ => { s1 with web.waste := s.web.waste + BitVec.ofNat 32 e.length }
        if t.eng.state = .stopping ∧ (∀ x ∈ t.web.map, x.piece = .gap) then stoppedEntered t else t
      let miscut (x : MapEntry) (s : State) : State :=
        let flagged (reject : Bool) : State :=
          { s with web.map := s.web.map.map (fun y => if y.number = x.number then
              { y with
                flags := { y.flags with miscut := true }
                piece := (match y.piece with
                  | .frame f => .frame { f with reject := f.reject || reject }
                  | other => other) } else y) }
        match x.piece with
        | .frame f => if f.reject then flagged false else settleFrame (.bad false) f.order f.entry x.number (flagged true)
        | _ => flagged false
      (late < 0 → cutTest s = s)
      ∧ (0 ≤ late → s.cut.knife = .stroke → cutTest s = s)
      ∧ (0 ≤ late → s.cut.knife = .faulted → cutTest s = stoppage .knifeFault s)
      ∧ (0 ≤ late → s.cut.knife = .idle → (s.web.map.map MapEntry.number).Nodup →
          (late ≤ 3 → cutTest s = leaves fired)
          ∧ (3 < late → rest = [] → cutTest s = leaves (miscut e fired))
          ∧ (3 < late → ∀ e2 more, rest = e2 :: more → cutTest s = leaves (miscut e2 (miscut e fired))))

/-- A mark inside the window of the cursor's frame corrects the offset, held to −100 to +100, clears the misses and the
mark-lost mode, moves the cursor to the next FRAME and makes the cut test; any other mark changes nothing. A window that
closes without one flags the frame UNVERIFIED and counts a miss up to 3; the third enters mark-lost mode and raises
ATTENTION. (That the status block's mark-lost flag goes out only where it changes is the model's choice, log entry 52.) -/
def Obligations.MarksCorrectAndMissesCount : Prop :=
  ∀ s : State, live s = true →
    (s.line.web = .idle ∨ s.cut.cursor = none → Answers .mark none s (clearOut s))
    ∧ ∀ before e rest, s.web.map = before ++ e :: rest → (∀ x ∈ before ++ rest, x.number ≠ e.number) →
        s.cut.cursor = some e.number →
        let expected := e.start + BitVec.ofNat 32 s.setup.params.cutLength - BitVec.ofNat 32 s.setup.params.markLead
          + BitVec.ofInt 32 s.cut.offset
        let off := signedDiff s.line.w expected
        let window : Int := s.setup.params.regWindow
        let next := (rest.find? (fun x => match x.piece with
          | .frame _ => true
          | _ => false)).map MapEntry.number
        (s.line.web ≠ .idle → -window ≤ off → off ≤ window →
          Answers .mark none s (cutTest
            { clearOut s with
              cut.offset := max (-100) (min 100 (s.cut.offset + off)), cut.misses := 0, cut.markLost := false
              cut.cursor := next }))
        ∧ (off < -window ∨ window < off → Answers .mark none s (clearOut s))
        ∧ (off ≤ window → closeWindow s = s)
        ∧ (window < off →
            let misses := if s.cut.misses < 3 then s.cut.misses + 1 else s.cut.misses
            closeWindow s =
              { s with
                web.map := before ++ { e with flags := { e.flags with unverified := true } } :: rest
                cut.misses := misses, cut.markLost := s.cut.markLost || misses == 3, cut.cursor := next
                link.causes.attention := s.link.causes.attention || (misses == 3 && !s.cut.markLost) })

/-! ## The sorter -/

/-- A gate arrival is taken for the oldest item not yet reached. The clock reaching the oldest item's deadline (the
command moves it there, the model's choice, log entry 10) gives that item up, and with it every item behind whose deadline
has passed, oldest first; each GOOD print so lost is reported. -/
def Obligations.GateArrivalsAndDeadlines : Prop :=
  ∀ s : State, live s = true →
    ((∀ i ∈ s.sort.lane, i.reached = true) → Answers .gateArrival none s (clearOut s))
    ∧ (∀ before i rest, s.sort.lane = before ++ i :: rest → (∀ x ∈ before, x.reached = true) → i.reached = false →
        Answers .gateArrival none s { clearOut s with sort.lane := before ++ { i with reached := true } :: rest })
    ∧ (s.sort.lane = [] → Answers .sorterDeadline none s (clearOut s))
    ∧ (∀ i rest, s.sort.lane = i :: rest →
        let clock := if signedDiff s.sort.clock i.deadline < 0 then i.deadline else s.sort.clock
        let passed (x : LaneItem) : Bool := decide (0 ≤ signedDiff clock x.deadline)
        let lost (t : State) (x : LaneItem) : State :=
          let t1 : State := { t with sort.lane := t.sort.lane.tail }
          if x.reject then t1 else settleFrame (.bad false) x.order x.entry x.number t1
        Answers .sorterDeadline none s
          ((s.sort.lane.takeWhile passed).foldl lost { clearOut s with sort.clock := clock })
        ∧ ∃ t, exec .sorterDeadline s = .next t ∧ t.sort.lane = s.sort.lane.dropWhile passed ∧ t.sort.clock = clock)

/-- A delivery confirmation is matched against the oldest print and nothing else. From its destination it is a delivery:
the bin's count first, a RESERVED bin FILLING, then the report of a GOOD print. From another bin it is a misroute, counted
where it landed, a GOOD print reported bad. With the lane empty it is a stray, counted where it landed. A
print that becomes the oldest with its deadline passed is given up at once, as at a deadline. A print handed
over at a cut joins the end of the lane with its entry time and deadline where the lane has room and it has a destination:
the reject bin while its count and the prints on their way to it are below 50, or the first bin of its order with fewer
than 100. Any other print goes to the waste chute, a GOOD one reported as lost (also one with no bin that has room, which
the manual excludes: the model's choice, log entry 24). -/
def Obligations.DeliveriesAndPrintsOffered : Prop :=
  (∀ (b : Fin 16) (s : State), live s = true →
     let landed (s : State) : State :=
       if b.val = 0 then
         let n := min (s.sort.rejectCount + 1) 50
         let fills := s.sort.rejectCount == 49
         { s with
           sort.rejectCount := if s.sort.rejectCount < 50 then n else s.sort.rejectCount
           sort.rejectFull := s.sort.rejectFull || fills
           link.causes.attention := s.link.causes.attention || fills }
       else
         let r := getBin s b
         { s with
           sort.bins := s.sort.bins.set (b.val - 1) { r with misroutes := min (r.misroutes + 1) 65535, state := .attention }
           link.causes.attention := s.link.causes.attention || r.state != .attention }
     let reports (how : Settle) (i : LaneItem) (s : State) : State :=
       if i.reject then s else settleFrame how i.order i.entry i.number s
     let passed (x : LaneItem) : Bool := decide (0 ≤ signedDiff s.sort.clock x.deadline)
     let lost (t : State) (x : LaneItem) : State :=
       reports (.bad false) x { t with sort.lane := t.sort.lane.tail }
     s.sort.bins.length = 15 →
     (s.sort.lane = [] → Answers (.deliveryConfirmation b) none s (landed (clearOut s)))
     ∧ ∀ i rest, s.sort.lane = i :: rest →
         let popped : State := { clearOut s with sort.lane := rest }
         let next (t : State) : State := (rest.takeWhile passed).foldl lost t
         (i.dest = b.val → b.val = 0 →
           Answers (.deliveryConfirmation b) none s (next (reports (.good i.unverified) i (landed popped))))
         ∧ (i.dest = b.val → b.val ≠ 0 →
             let r := getBin s b
             Answers (.deliveryConfirmation b) none s (next (reports (.good i.unverified) i
               { popped with sort.bins := s.sort.bins.set (b.val - 1) { r with
                   good := r.good + 1, state := if r.state = .reserved then .filling else r.state } })))
         ∧ (i.dest ≠ b.val →
             Answers (.deliveryConfirmation b) none s (next (reports (.bad true) i
               (landed { popped with sort.misroutes := s.sort.misroutes + 1 })))))
  ∧ (∀ (order entry : Nat) (n : Word) (reject unv : Bool) (s : State),
       let joins (d : Nat) : State :=
         { s with sort.lane := s.sort.lane ++
             [{ order := order, entry := entry, number := n, reject := reject, unverified := unv, dest := d, reached := false
                entryTime := s.sort.clock
                deadline := s.sort.clock + BitVec.ofNat 32 (s.setup.params.sorterTimeout * 1000) }] }
       let chute : State := if reject = true then s else settleFrame (.bad false) order entry n s
       let room (b : Nat) : Prop := (getBin s b).good + inLane s b < 100
       let t := offerPrint order entry n reject unv s
       (8 ≤ s.sort.lane.length → t = chute)
       ∧ (s.sort.lane.length < 8 → reject = true →
           t = if s.sort.rejectCount + inLane s 0 < 50 then joins 0 else s)
       ∧ (s.sort.lane.length < 8 → reject = false →
           (∀ o before b after, getOrder s order = some o → o.bins = before ++ b :: after → room b →
             (∀ x ∈ before, ¬room x) → t = joins b)
           ∧ ((∀ o b, getOrder s order = some o → b ∈ o.bins → ¬room b) → t = chute)))

/-- The key scan: a key that reads pressed and is not latched counts up; the third such sample in a row makes one key
event and latches it; a key that reads released is cleared. The events act on their bins, the lowest number first. -/
def Obligations.KeyScanMakesEvents : Prop :=
  ∀ (pressed : BitVec 16) (s : State), live s = true →
    let after (i : Nat) (k : Key) : Key :=
      if pressed.getLsbD i = false then { run := 0, latched := false }
      else if k.latched = true then k
      else if k.run = 2 then { run := 0, latched := true }
      else { k with run := k.run + 1 }
    let fires (i : Nat) : Bool := pressed.getLsbD i && (match s.sort.keys[i]? with
      | some k => !k.latched && k.run == 2
      | none => false)
    Answers (.keyScanSample pressed) none s
      (((List.range s.sort.keys.length).filter fires).foldl (fun t b => keyEvent b t)
        { clearOut s with sort.keys := s.sort.keys.mapIdx after })

/-- A key event on an order bin acts by the bin's state, and on the reject bin clears its count and its FULL state. -/
def Obligations.KeyEventsActOnBinState : Prop :=
  ∀ (b : Nat) (s : State), b ≤ 15 → s.sort.bins.length = 15 →
    let r := getBin s b
    let t := keyEvent b s
    let becomes (x : Bin) : Prop := t = { s with sort.bins := s.sort.bins.set (b - 1) x }
    let free : Bin := { state := .free, owner := none, live := false, good := 0, misroutes := 0, disturbed := false }
    (b = 0 → t = { s with sort.rejectCount := 0, sort.rejectFull := false })
    ∧ (b ≠ 0 →
        (r.state = .free → t = s)
        ∧ (r.state = .ready → becomes free)
        ∧ (r.state = .reserved ∨ r.state = .filling →
            t = { s with
              sort.bins := s.sort.bins.set (b - 1) { r with state := .attention, disturbed := true }
              link.causes.attention := true })
        ∧ (r.state = .attention → r.live = false → becomes free)
        ∧ (r.state = .attention → r.live = true → 0 < r.good → becomes { r with state := .filling })
        ∧ (r.state = .attention → r.live = true → r.good = 0 → becomes { r with state := .reserved }))

/-! ## The planner -/

/-- A report about a frame of an order: the first one settles it, by its kind; a later one changes nothing. A bad frame is
remade while the order is not cancelled and the budget is not spent, and abandoned otherwise; a good delivery counts; an
access fault abandons; a jam spoil is remade outside the budget unless the order is cancelled. The order's state follows
from its counts, and a detached order that completes is freed. Unless the order is detached, the entry's result is written
to its slot (its five fields in the order of log entry 48), and the mirror where the state changes. An order that
completes is reported to its bins: of a cancelled order a bin with no print goes FREE; any other is no longer live, and
goes to ATTENTION where it is there already, disturbed or misrouted into, and otherwise from RESERVED or FILLING to READY,
ATTENTION raised at each entry. -/
def Obligations.FramesSettledOnceByKind : Prop :=
  (∀ (how : Settle) (i ei : Nat) (n : Word) (s : State) (o : Order) (e : Entry), getOrder s i = some o →
    o.entries[ei]? = some e → 0 < e.f →
    let t := settleFrame how i ei n s
    let budget : Bool := !o.cancelled && decide (e.used < s.setup.params.remakeLimit * e.copies)
    let remade : Bool := match how with
      | .bad _ => budget
      | .jam => !o.cancelled
      | _ => false
    let e' : Entry := match how with
      | .bad mis => if budget then
          { e with f := e.f - 1, used := e.used + 1, t := e.t + 1, misrouted := e.misrouted || mis }
        else { e with f := e.f - 1, a := e.a + 1, misrouted := e.misrouted || mis }
      | .good unv => { e with f := e.f - 1, g := e.g + 1, unverified := e.unverified || unv }
      | .fault => { e with f := e.f - 1, a := e.a + 1 }
      | .jam => if o.cancelled then { e with f := e.f - 1, a := e.a + 1 }
        else { e with f := e.f - 1, t := e.t + 1, jams := min (e.jams + 1) 4294967295 }
    let o' : Order :=
      { o with entries := o.entries.set ei e', unsettled := o.unsettled.filter (fun m => m != n)
               remakes := if remade then o.remakes ++ [ei] else o.remakes }
    let byCounts : OrderState := if 0 < stillToExpose o' then .active else if 0 < inFlight o' then .draining else .complete
    let state : OrderState := match o.state with
      | .active => byCounts
      | .draining => byCounts
      | .cancelling => if inFlight o' = 0 then .complete else .cancelling
      | other => other
    (n ∉ o.unsettled → t = s)
    ∧ (n ∈ o.unsettled →
        getOrder t i = (if o.detached = true ∧ state = .complete ∧ o.state ≠ .complete then none
          else some { o' with state := state })
        ∧ (∀ j, j ≠ i → getOrder t j = getOrder s j)
        ∧ t.plan.budgetRemakes = (if remade = true ∧ how ≠ .jam then s.plan.budgetRemakes + 1 else s.plan.budgetRemakes)
        ∧ t.plan.jamRemakes = (if remade = true ∧ how = .jam then s.plan.jamRemakes + 1 else s.plan.jamRemakes)
        ∧ t.plan.framesExposed = s.plan.framesExposed ∧ t.web = s.web ∧ t.fetch = s.fetch ∧ t.sort.lane = s.sort.lane
        ∧ t.sort = (if state = .complete ∧ o.state ≠ .complete then (completionReport o.bins o.cancelled s).sort else s.sort)
        ∧ t.link.waiting = (if o.detached = true then s.link.waiting else
            waitingWith (resultWrites o.slot ei e' ++ (if state = o.state then [] else [mirrorWrite o.slot state])) s)
        ∧ e'.g + e'.f + e'.t + e'.a = e.g + e.f + e.t + e.a))
  ∧ (∀ (bins : List Nat) (cancelled : Bool) (s : State),
       completionReport bins cancelled s = bins.foldl (fun s b => completeBin cancelled s b) s)
  ∧ (∀ (cancelled : Bool) (s : State) (b : Nat), 1 ≤ b → b ≤ 15 → s.sort.bins.length = 15 →
       let r := getBin s b
       let t := completeBin cancelled s b
       let bad := 0 < r.misroutes ∨ r.disturbed = true
       let becomes (x : Bin) : State := { s with sort.bins := s.sort.bins.set (b - 1) x }
       let raised (x : Bin) : State := { becomes x with link.causes.attention := true }
       (cancelled = true → r.good = 0 →
         { t with link.dirty := s.link.dirty } =
           becomes { state := .free, owner := none, live := false, good := 0, misroutes := 0, disturbed := false })
       ∧ (cancelled = false ∨ 0 < r.good →
         (r.state = .attention → t = becomes { r with live := false })
         ∧ (r.state ≠ .attention → bad → t = raised { r with live := false, state := .attention })
         ∧ (r.state = .reserved ∨ r.state = .filling → ¬bad → t = raised { r with live := false, state := .ready })
         ∧ (r.state = .free ∨ r.state = .ready → ¬bad → t = becomes { r with live := false })))

/-- A FRAME commit of a copy of an ACTIVE order: the copy moves from t to f, a remake's oldest index leaves the list, the
new entry stands at the map end under the next number with the active magazine and its tone set, the number is unsettled,
the frame is handed to FCH, a mark cursor that names nothing takes it, and the frames exposed counter rises by one. In FCH
the item joins the end of the frame list, FETCHED for a PATTERN frame and FETCHING otherwise; a fetch cursor that names
nothing is placed on line 0 of a FETCHING one, and the refill conditions are evaluated. The slot's mirror is written where
the order goes to DRAINING. -/
def Obligations.FrameCommitMovesOneCopy : Prop :=
  ∀ (i ei : Nat) (remake : Bool) (s : State) (o : Order) (e : Entry), getOrder s i = some o →
    o.entries[ei]? = some e → o.state = .active →
    let n := s.web.nextNumber
    let t := commitFrame i ei remake s
    let o' : Order :=
      { o with entries := o.entries.set ei { e with t := e.t - 1, f := e.f + 1 }
               remakes := if remake then o.remakes.erase ei else o.remakes
               unsettled := o.unsettled ++ [n] }
    getOrder t i = some { o' with state := if 0 < stillToExpose o' then .active else .draining }
      ∧ (∀ j, j ≠ i → getOrder t j = getOrder s j)
      ∧ t.plan.framesExposed = s.plan.framesExposed + 1
      ∧ t.web = { s.web with
          nextNumber := n + 1
          map := s.web.map ++
            [{ number := n, start := mapEnd s, length := e.length
               piece := .frame { mag := s.paper.active, width := e.width, toneSet := (activeMag s).toneSet, order := i
                                 entry := ei, remake := remake, clips := 0, ended := false, reject := false }
               flags := { sag := false, underrun := false, truncated := false, spoiled := false, unverified := false
                          miscut := false } }] }
      ∧ t.fetch = (evalFetch { s with
          fetch.items := s.fetch.items ++
            [{ number := n, order := i, slot := o.slot, image := e.image, pattern := e.pattern, density := e.density
               colourR := e.colourR, colourG := e.colourG, colourB := e.colourB, paperElems := 10 * e.width
               length := e.length, state := if e.pattern then .fetched else .fetching, served := 0 }]
          fetch.cursor := if s.fetch.cursor = none ∧ e.pattern = false then some (n, 0) else s.fetch.cursor }).fetch
      ∧ t.cut.cursor = some (s.cut.cursor.getD n) ∧ t.sort = s.sort
      ∧ t.link.waiting = (if o.detached = true ∨ 0 < stillToExpose o' then s.link.waiting else
          waitingWith [mirrorWrite o.slot .draining] s)

/-- A commit point: a choice in RUNNING, a GAP of 200 steps in STOPPING, merged into a trailing GAP, and nothing in any
other state. The choice in RUNNING takes the first rule that applies: the gap of a changeover, a splice hold or a full
map; a forced switch, which is due by the pending flag or by an order that has waited its threshold for the other paper; a
remake; an unstarted copy; an order to start; a changeover for work of the other magazine; a gap. -/
def Obligations.ChoiceTakesFirstRuleThatApplies : Prop :=
  ∀ s : State,
    (s.eng.state = .running → commitPoint s = choose (stampAll s))
    ∧ (s.eng.state = .stopping → commitPoint s = commitGap s)
    ∧ (s.eng.state ≠ .running → s.eng.state ≠ .stopping → commitPoint s = s)
    ∧ (∀ before e, s.web.map = before ++ [e] → e.piece = .gap →
        commitGap s = { s with web.map := before ++ [{ e with length := e.length + 200 }] })
    ∧ ((∀ e, s.web.map.getLast? = some e → e.piece ≠ .gap) → s.web.map.length < 256 →
        commitGap s =
          { s with
            web.map := s.web.map ++
              [{ number := s.web.nextNumber, piece := .gap, start := mapEnd s, length := 200
                 flags := { sag := false, underrun := false, truncated := false, spoiled := false, unverified := false
                            miscut := false } }]
            web.nextNumber := s.web.nextNumber + 1 })
    ∧ let rule1 := s.paper.target ≠ none ∨ s.web.hold ≠ none ∨ 255 ≤ s.web.map.length
      let waits (o : Order) : Prop := (o.state = .queued ∨ o.state = .active)
        ∧ (∃ e ∈ o.entries, 0 < e.t) ∧ (∀ e ∈ o.entries, 0 < e.t → fits (activeMag s) e = false)
        ∧ ∃ e ∈ o.entries, 0 < e.t ∧ fits (otherMag s) e = true
      let rule2 := s.plan.switchFlag = true ∨ ∃ o, some o ∈ s.plan.table ∧ waits o ∧ ∃ since, o.waitingSince = some since
        ∧ (if o.rush = true then s.setup.params.patience / 4 else s.setup.params.patience)
          ≤ (s.plan.framesExposed - since).toNat
      let ends (s : State) : State := commitGap (requestChange { s with plan.switchFlag := false })
      (rule1 → choose s = commitGap s)
      ∧ (¬rule1 → rule2 → choose s = ends s)
      ∧ (¬rule1 → ¬rule2 →
        (∀ i ei, chooseRemake s = some (i, ei) → choose s = commitFrame i ei true s)
        ∧ (chooseRemake s = none →
          (∀ i ei, chooseCopy s = some (i, ei) → choose s = commitFrame i ei false s)
          ∧ (chooseCopy s = none →
            (∀ i o ei, chooseStart s = some (i, o, ei) → ∃ s1, startOrder i o s = some s1 ∧ choose s = commitFrame i ei false s1)
            ∧ (chooseStart s = none →
              choose s = if otherWork s = true then ends s else commitGap s))))

/-- What the rules of the choice pick: the first order in queue order that has a frame for the active magazine, its oldest
remake that fits or its lowest entry with an unstarted copy that fits, of a product that is defined and usable (that a
remake is no start of a copy is log entry 37); and an order to start reserves the FREE bins of the lowest numbers, one for
each hundred copies, and the bins used count and list (in this order, log entry 48) and the mirror ACTIVE are written to
its slot. Nothing is picked only where no order of the queue has such work. There is work for the other
magazine exactly where the same rules would pick something there. Before a choice every order waiting for the other paper
that has no waiting-since yet takes the frames exposed counter. -/
def Obligations.ChoicePicksFirstWorkThatFits : Prop :=
  ∀ s : State,
    let fitting (m : Magazine) (o : Order) (ei : Nat) : Prop := ∃ e, o.entries[ei]? = some e ∧ fits m e = true
    let free (o : Order) (ei : Nat) : Prop := ∃ e, o.entries[ei]? = some e ∧ o.remakes.count ei < e.t
      ∧ (getProduct s.setup e.product).isDefined = true ∧ (getProduct s.setup e.product).usable = true
    let need (o : Order) : Nat := (copiesTotal o + 99) / 100
    let remakes (m : Magazine) (st : OrderState) (j : Nat) : Prop :=
      ∃ p, getOrder s j = some p ∧ p.state = st ∧ ∃ k ∈ p.remakes, fitting m p k
    let copies (m : Magazine) (st : OrderState) (j : Nat) : Prop :=
      ∃ p, getOrder s j = some p ∧ p.state = st ∧ ∃ k, fitting m p k ∧ free p k
    let starts (m : Magazine) (j : Nat) : Prop :=
      ∃ p, getOrder s j = some p ∧ p.state = .queued ∧ need p ≤ (freeBins s).length ∧ ∃ k, fitting m p k ∧ free p k
    let m := activeMag s
    (∀ i ei, chooseRemake s = some (i, ei) →
       ∃ before after o, s.plan.queue = before ++ i :: after ∧ getOrder s i = some o ∧ o.state = .active
         ∧ (∃ x y, o.remakes = x ++ ei :: y ∧ fitting m o ei ∧ ∀ k ∈ x, ¬fitting m o k)
         ∧ ∀ j ∈ before, ¬remakes m .active j)
    ∧ (chooseRemake s = none ↔ ∀ j ∈ s.plan.queue, ¬remakes m .active j)
    ∧ (∀ i ei, chooseCopy s = some (i, ei) →
       ∃ before after o, s.plan.queue = before ++ i :: after ∧ getOrder s i = some o ∧ o.state = .active
         ∧ fitting m o ei ∧ free o ei ∧ (∀ k < ei, ¬(fitting m o k ∧ free o k))
         ∧ ∀ j ∈ before, ¬copies m .active j)
    ∧ (chooseCopy s = none ↔ ∀ j ∈ s.plan.queue, ¬copies m .active j)
    ∧ (∀ i o ei, chooseStart s = some (i, o, ei) →
       ∃ before after, s.plan.queue = before ++ i :: after ∧ getOrder s i = some o ∧ o.state = .queued
         ∧ need o ≤ (freeBins s).length ∧ fitting m o ei ∧ free o ei ∧ (∀ k < ei, ¬(fitting m o k ∧ free o k))
         ∧ (∀ j ∈ before, ¬starts m j)
         ∧ ∀ s1, startOrder i o s = some s1 → s.sort.bins.length = 15 →
             getOrder s1 i = some { o with bins := (freeBins s).take (need o), state := .active }
             ∧ s1.link.waiting = (if o.detached = true then s.link.waiting else
                 waitingWith (binsWrites o.slot ((freeBins s).take (need o)) ++ [mirrorWrite o.slot .active]) s)
             ∧ (∀ b, 1 ≤ b → b ≤ 15 → getBin s1 b =
                 if b ∈ (freeBins s).take (need o) then
                   { state := .reserved, owner := some (o.ticket, o.slot), live := true, good := 0, misroutes := 0
                     disturbed := false }
                 else getBin s b))
    ∧ (chooseStart s = none ↔ ∀ j ∈ s.plan.queue, ¬starts m j)
    ∧ (otherWork s = true ↔ ∃ j ∈ s.plan.queue,
        remakes (otherMag s) .active j ∨ copies (otherMag s) .active j ∨ starts (otherMag s) j)
    ∧ (stampAll s = { s with plan.table := (stampAll s).plan.table }
       ∧ (∀ i, getOrder s i = none → getOrder (stampAll s) i = none)
       ∧ ∀ i o, getOrder s i = some o →
         let waits : Prop := (o.state = .queued ∨ o.state = .active)
           ∧ (∃ e ∈ o.entries, 0 < e.t) ∧ (∀ e ∈ o.entries, 0 < e.t → fits m e = false)
           ∧ ∃ e ∈ o.entries, 0 < e.t ∧ fits (otherMag s) e = true
         (waits → o.waitingSince = none →
           getOrder (stampAll s) i = some { o with waitingSince := some s.plan.framesExposed })
         ∧ (¬waits ∨ o.waitingSince ≠ none → getOrder (stampAll s) i = some o))

/-- A print entry's work fits a magazine that is loaded, of the entry's width, with the frame length and 400 web steps
left. -/
def Obligations.WorkFitsMagazine : Prop :=
  ∀ (m : Magazine) (e : Entry), fits m e = true ↔ m.loaded = true ∧ m.width = e.width ∧ e.length + 400 ≤ m.remaining

/-! ## Exposure and price -/

/-- The pulse of an element and channel from its raw pulse, and whether it counts as clipped. -/
def Obligations.PulseBetweenFloorAndCeiling : Prop :=
  ∀ (pMin p0 : Nat) (pMax : Int), 1 ≤ pMin →
    ((pMin : Int) ≤ pMax →
      (p0 = 0 → limitPulse pMin pMax p0 = (0, false))
      ∧ (1 ≤ p0 → p0 < pMin → limitPulse pMin pMax p0 = (0, false))
      ∧ (pMin ≤ p0 → (p0 : Int) ≤ pMax → limitPulse pMin pMax p0 = (p0, false))
      ∧ (pMax < p0 → limitPulse pMin pMax p0 = (pMax.toNat, true)))
    ∧ (pMax < pMin →
      ((p0 : Int) ≤ pMax → limitPulse pMin pMax p0 = (0, false))
      ∧ (p0 = 0 → limitPulse pMin pMax p0 = (0, false))
      ∧ (pMax < p0 → p0 ≠ 0 → limitPulse pMin pMax p0 = (0, true)))
    ∧ ((limitPulse pMin pMax p0).1 = 0
        ∨ (pMin ≤ (limitPulse pMin pMax p0).1 ∧ ((limitPulse pMin pMax p0).1 : Int) ≤ pMax))

/-- What a computed line is made of: each pulse the raw pulse of the exposure value of its tone set, the step gain, the
uniformity gain and the channel's scale, held between floor and ceiling; the step gain of the clamped steps, the raw pulse
by one rounding of the exact product, the ceiling below the nominal line period, a width for every element on the paper
and none past it, pixels and border of an image line, the bands and steps of a pattern line, and the pixels that clip in
any channel counted once. -/
def Obligations.LineComputedFromFactors : Prop :=
  (∀ (k : LineInputs) (e : Nat) (c : Chan) (v : Nat),
    let scale := match c with
      | .red => k.setup.fullScale.red
      | .green => k.setup.fullScale.green
      | .blue => k.setup.fullScale.blue
    let colour := match c with
      | .red => k.item.colourR
      | .green => k.item.colourG
      | .blue => k.item.colourB
    let tone := tableGet 0 k.setup.tones ((k.toneSet * 3 + chanIndex c) * 256 + v)
    let gain := stepGain k.item.density colour
    let uniform := tableGet 1024 k.setup.uniformity (chanIndex c * 3072 + e)
    pulseOf k e c v = limitPulse k.setup.params.pMin (pulseCeiling k.setup) (rawPulse tone gain uniform scale))
  ∧ (∀ (d i v j : Nat) (t : SparseTable), tableWf d 0 t = true →
      tableGet d (tableSet d t i v) j = (if j = i then v else tableGet d t j) ∧ tableGet d [] j = d)
  ∧ (∀ density colour : Byte,
    let clamp (lo hi x : Int) : Int := max lo (min hi x)
    (stepGain density colour : Int)
      = 1024 + 64 * clamp (-12) 12 (clamp (-8) 8 density.toInt + clamp (-8) 8 colour.toInt))
  ∧ (∀ e g u k : Nat, rawPulse e g u k = (e * g * u * k + 2147483648) / 4294967296)
  ∧ (∀ e g u k : Nat, e ≤ 4095 → g ≤ 1792 → u ≤ 1279 → k ≤ 65535 → rawPulse e g u k ≤ 143211)
  ∧ (∀ x : Setup, pulseCeiling x = ((x.params.divisor + 1) * 4 ^ x.params.prescale : Nat) - (x.params.offTime : Int))
  ∧ (∀ (x : FrameItem) (px : List Byte) (e : Nat) (c : Chan),
      (∀ j, e = x.image.left.toNat + j → j < x.image.width.toNat →
        imageValue x px e c = (px.getD (3 * j + chanIndex c) 0).toNat)
      ∧ (e < x.image.left.toNat ∨ x.image.left.toNat + x.image.width.toNat ≤ e → imageValue x px e c = 0))
  ∧ (∀ (x : FrameItem) (i e : Nat) (c : Chan), i < x.length → e < x.paperElems →
      let band := i * 4 / x.length
      let step := e * 16 / x.paperElems
      patternValue x i e c = (if band = 3 ∨ band = chanIndex c then 17 * step else 0) ∧ patternValue x i e c ≤ 255)
  ∧ (∀ (n : Word) (set i : Nat) (a : LineAnswer) (s : State) (x : FrameItem), answerItem a = some x →
      let k : LineInputs := { item := x, toneSet := set, setup := s.setup }
      let px (e : Nat) (c : Chan) : Nat × Bool := pulseOf k e c (answerValues a i e c)
      let clips := (List.range x.paperElems).countP (fun e => (px e .red).2 || (px e .green).2 || (px e .blue).2)
      (exposeLine n set i a s).1 = (List.range x.paperElems).map (fun e =>
          { red := (px e .red).1, green := (px e .green).1, blue := (px e .blue).1 })
        ∧ (exposeLine n set i a s).2 =
          { s with
            pulse.clipped := s.pulse.clipped + BitVec.ofNat 32 clips, pulse.held := 0
            web.map := s.web.map.map (fun e => if e.number = n then
              (match e.piece with
                | .frame f => { e with piece := .frame { f with clips := f.clips + clips } }
                | _ => e) else e) })
  ∧ (∀ (n : Word) (set i : Nat) (a : LineAnswer) (s : State), a = .dark ∨ a = .underrun → exposeLine n set i a s = ([], s))

/-- The price of an order: the quantity of each product over its entries, the unit price of the highest-indexed break
whose minimum it meets (also a minimum of 0 that a load cut short has left, which even a quantity of 1 meets against
R167's words: the model's choice, log entry 35), the line amounts, the discount, the rush surcharge, the fee once, the
net, the tax and the total, each amount at most 99,999,999, and net and total exact where nothing saturates. -/
def Obligations.PriceFormedInStages : Prop :=
  ∀ (x : Setup) (rush : Bool) (cls : Nat) (count : Entry → Nat) (es : List Entry),
    let p := priceOf x rush cls count es
    let q (k : Nat) : Nat := ((es.filter (fun e => e.product == k)).map count).sum
    let half (n : Nat) : Nat := (n + 5000) / 10000
    let lines := (List.range 32).map (fun k => q k * unitPrice (getProduct x k) (q k))
    let anyProduct := ((List.range 32).map q).sum
    p.subtotal = min ((lines.map (min · 99999999)).sum) 99999999
    ∧ p.discount = half (p.subtotal * x.discounts.getD cls 0)
    ∧ p.rush = (if rush = true then half ((p.subtotal - p.discount) * x.rushSurcharge) else 0)
    ∧ p.fee = (if 0 < anyProduct then x.handlingFee else 0)
    ∧ p.net = min (p.subtotal - p.discount + p.rush + p.fee) 99999999
    ∧ p.tax = half (p.net * x.taxRate)
    ∧ p.total = min (p.net + p.tax) 99999999
    ∧ p.short = false ∧ p.cancelled = false
    ∧ (p.saturated = true ↔ (∃ a ∈ lines, 99999999 < a) ∨ 99999999 < (lines.map (min · 99999999)).sum
        ∨ 99999999 < p.subtotal - p.discount + p.rush + p.fee ∨ 99999999 < p.net + p.tax)
    ∧ (SetupSound x →
        p.discount ≤ p.subtotal ∧ p.rush ≤ 99999999 ∧ p.fee ≤ 99999 ∧ p.tax ≤ 99999999
        ∧ (p.saturated = false → p.net + p.discount = p.subtotal + p.rush + p.fee ∧ p.total = p.net + p.tax))
    ∧ ∀ (r : Product) (n : Nat),
        (∀ before b after, r.breaks.take r.breakCount = before ++ b :: after → b.minimum ≤ n →
          (∀ c ∈ after, n < c.minimum) → unitPrice r n = b.price)
        ∧ ((∀ c ∈ r.breaks.take r.breakCount, n < c.minimum) → unitPrice r n = r.basePrice)

/-! ## What every step keeps -/

/-- Every order stays sound: C = g + f + t + a for each print entry, the budget, the remake list, and what the order state
says of the counts (L2, L3). -/
def Obligations.OrdersStaySound : Prop :=
  ∀ s t : State, OrdersSound s → step s = .next t → OrdersSound t

/-- The table stays sixteen contexts, no two orders of one slot, no take in a slot an order stands for, and takes stay one
at a time in step 4, with no candidate left over beside none in progress (L7). -/
def Obligations.SlotsStayDistinct : Prop :=
  ∀ s t : State, SlotsDistinct s → step s = .next t → SlotsDistinct t

/-- Every list and counter stays in its bounds: the web map at most 256 entries with a GAP last when full, the lane at
most 8, each order bin's good prints with those on their way at most 100, the reject bin at most 50 and FULL exactly then,
the line buffer and the reads at most 16 and 2, the registration offset within 100 (the first half of L1, L6, L10, L11,
L12). -/
def Obligations.ListsAndCountersStayBounded : Prop :=
  ∀ s t : State, Bounded s → step s = .next t → Bounded t

/-- Every value of the setup store stays in its range, in the one form of its tables. -/
def Obligations.SetupStoreStaysSound : Prop :=
  ∀ s t : State, SetupSound s.setup → step s = .next t → SetupSound t.setup

/-- The engine state goes on agreeing with the blocks, and every pulse that is on stays between P_min and P_max (L4). -/
def Obligations.EngineAndLightStaySound : Prop :=
  ∀ s t : State, EngineSound s → LightSound s → step s = .next t → EngineSound t ∧ LightSound t

/-- Every access a step puts out goes to the job area, or reads inside an enabled window, and every slot write goes to a
field the part writes. -/
def Obligations.AccessesStayConfined : Prop :=
  ∀ s t : State, AccessSound s → step s = .next t → AccessSound t

/-- The state right after a power-on reset is sound in every one of these senses. Its command queue is empty and it
puts nothing out, both the model's own fields (log entries 26 and 5). -/
def Obligations.ResetStateIsSound : Prop :=
  State.reset.pending = [] ∧ State.reset.out = [] ∧ OrdersSound State.reset ∧ SlotsDistinct State.reset ∧ Bounded State.reset ∧ SetupSound State.reset.setup
    ∧ EngineSound State.reset ∧ LightSound State.reset ∧ AccessSound State.reset
end

