-- ==== Sys2Proof/Laws/State.lean ====
section
/-! SUPPORT. The fields of State after each small update. -/

open Sys2Proof Sys2Proof.Machine

namespace Sys2Proof.Machine

/-! ## What a fold of updates keeps -/

theorem foldl_keep {α β γ : Type} (p : β → γ) (f : β → α → β) (h : ∀ b a, p (f b a) = p b) (l : List α) (b : β) :
    p (l.foldl f b) = p b := by
  induction l generalizing b with
  | nil => rfl
  | cons x rest ih => simp [ih, h]

/-! ## The causes -/

@[simp] theorem raiseCompleted_completed (s : State) : (raiseCompleted s).link.causes.completed = true := rfl
@[simp] theorem raiseCompleted_attention (s : State) : (raiseCompleted s).link.causes.attention = s.link.causes.attention := rfl
@[simp] theorem raiseCompleted_fault (s : State) : (raiseCompleted s).link.causes.fault = s.link.causes.fault := rfl
@[simp] theorem raiseCompleted_refused (s : State) : (raiseCompleted s).link.causes.refused = s.link.causes.refused := rfl
@[simp] theorem raiseAttention_completed (s : State) : (raiseAttention s).link.causes.completed = s.link.causes.completed := rfl
@[simp] theorem raiseAttention_attention (s : State) : (raiseAttention s).link.causes.attention = true := rfl
@[simp] theorem raiseAttention_fault (s : State) : (raiseAttention s).link.causes.fault = s.link.causes.fault := rfl
@[simp] theorem raiseAttention_refused (s : State) : (raiseAttention s).link.causes.refused = s.link.causes.refused := rfl
@[simp] theorem raiseRefused_refused (s : State) : (raiseRefused s).link.causes.refused = true := rfl
@[simp] theorem raiseRefused_fault (s : State) : (raiseRefused s).link.causes.fault = s.link.causes.fault := rfl

/-! ## Outputs, orders, magazines, bins -/

@[simp] theorem clearOut_out (s : State) : (clearOut s).out = [] := rfl
@[simp] theorem clearOut_dirty (s : State) : (clearOut s).link.dirty = [] := rfl
@[simp] theorem markFields_dirty (offsets : List Nat) (s : State) : (markFields offsets s).link.dirty = s.link.dirty ++ offsets := rfl
@[simp] theorem setEngine_state (st : EngineState) (s : State) : (setEngine st s).eng.state = st := rfl
@[simp] theorem setEngine_record (st : EngineState) (s : State) : (setEngine st s).eng.record = s.eng.record := rfl
@[simp] theorem setEngine_overflow (st : EngineState) (s : State) : (setEngine st s).eng.overflow = s.eng.overflow := rfl
@[simp] theorem setEngine_hold (st : EngineState) (s : State) : (setEngine st s).eng.hold = s.eng.hold := rfl
@[simp] theorem setEngine_resetKind (st : EngineState) (s : State) : (setEngine st s).eng.resetKind = s.eng.resetKind := rfl
@[simp] theorem setEngine_dirty (st : EngineState) (s : State) : (setEngine st s).link.dirty = s.link.dirty ++ [0x000] := rfl
@[simp] theorem dropCandidates_sweep (s : State) :
    (dropCandidates s).intake.sweep = s.intake.sweep.map (fun w => { w with candidates := [], barred := true }) := rfl
@[simp] theorem emit_out (o : Output) (s : State) : (emit o s).out = s.out ++ [o] := rfl
@[simp] theorem putOrder_table (i : Nat) (o : Option Order) (s : State) : (putOrder i o s).plan.table = s.plan.table.set i o := rfl
@[simp] theorem setMag_a (r : Magazine) (s : State) : (setMag .a r s).paper.magA = r := rfl
@[simp] theorem setMag_a_b (r : Magazine) (s : State) : (setMag .a r s).paper.magB = s.paper.magB := rfl
@[simp] theorem setMag_b (r : Magazine) (s : State) : (setMag .b r s).paper.magB = r := rfl
@[simp] theorem setMag_b_a (r : Magazine) (s : State) : (setMag .b r s).paper.magA = s.paper.magA := rfl
@[simp] theorem getMag_a (s : State) : getMag s .a = s.paper.magA := rfl
@[simp] theorem getMag_b (s : State) : getMag s .b = s.paper.magB := rfl
@[simp] theorem setBin_bins (b : Nat) (r : Bin) (s : State) : (setBin b r s).sort.bins = s.sort.bins.set (b - 1) r := rfl
@[simp] theorem endChange_target (s : State) : (endChange s).paper.target = none := rfl
@[simp] theorem endChange_timer (s : State) : (endChange s).paper.timer = none := rfl
@[simp] theorem dropRun_web (s : State) : (dropRun s).line.web = .idle := rfl
@[simp] theorem dropRun_head (s : State) : (dropRun s).line.head = [] := rfl
@[simp] theorem dropRun_supervision (s : State) : (dropRun s).line.supervision = none := rfl
@[simp] theorem endWatch_watching (s : State) : (endWatch s).supply.watching = false := rfl
@[simp] theorem emptyMap_map (s : State) : (emptyMap s).web.map = [] := rfl
@[simp] theorem emptyMap_hold (s : State) : (emptyMap s).web.hold = none := rfl
@[simp] theorem emptyFetch_items (s : State) : (emptyFetch s).fetch.items = [] := rfl
@[simp] theorem emptyFetch_buffer (s : State) : (emptyFetch s).fetch.buffer = [] := rfl
@[simp] theorem loadTimer_timer (s : State) : (loadTimer s).intake.timer = some s.setup.params.sweepPeriod := rfl
@[simp] theorem advanceW_w (s : State) : (advanceW s).line.w = s.line.w + 1 := rfl
@[simp] theorem darkLine_head (s : State) : (darkLine s).line.head = [] := rfl
@[simp] theorem appendEntry_map (p : Piece) (start : Word) (n : Nat) (s : State) :
    (appendEntry p start n s).web.map
      = s.web.map ++ [{ number := s.web.nextNumber, piece := p, start := start, length := n, flags := Flags.none }] := rfl
@[simp] theorem appendEntry_number (p : Piece) (start : Word) (n : Nat) (s : State) :
    (appendEntry p start n s).web.nextNumber = s.web.nextNumber + 1 := rfl
@[simp] theorem enterState_table (i : Nat) (o : Order) (st : OrderState) (s : State) :
    (enterState i o st s).plan.table = s.plan.table.set i (some { o with state := st }) := by
  unfold enterState writeMirror
  split <;> rfl

end Sys2Proof.Machine
end

