-- ==== Sys2Proof/Laws/Frames.lean ====
section
/-! SUPPORT. What each operation leaves alone: one lemma for each, the fields it never changes. -/

open Sys2Proof Sys2Proof.Machine

namespace Sys2Proof.Machine

@[simp] theorem raiseCompleted_frame (s : State) :
    (raiseCompleted s).link.area = s.link.area ∧ (raiseCompleted s).link.areaSet = s.link.areaSet
      ∧ (raiseCompleted s).link.unreported = s.link.unreported ∧ (raiseCompleted s).link.idleTimer = s.link.idleTimer
      ∧ (raiseCompleted s).link.waiting = s.link.waiting ∧ (raiseCompleted s).link.readData = s.link.readData
      ∧ (raiseCompleted s).intake = s.intake
      ∧ (raiseCompleted s).setup = s.setup ∧ (raiseCompleted s).paper = s.paper ∧ (raiseCompleted s).plan = s.plan
      ∧ (raiseCompleted s).fetch = s.fetch ∧ (raiseCompleted s).pulse = s.pulse ∧ (raiseCompleted s).line = s.line
      ∧ (raiseCompleted s).supply = s.supply ∧ (raiseCompleted s).web = s.web ∧ (raiseCompleted s).cut = s.cut
      ∧ (raiseCompleted s).sort = s.sort
      ∧ (raiseCompleted s).eng = s.eng ∧ (raiseCompleted s).out = s.out ∧ (raiseCompleted s).pending = s.pending := by
  simp [raiseCompleted]

@[simp] theorem raiseAttention_frame (s : State) :
    (raiseAttention s).link.area = s.link.area ∧ (raiseAttention s).link.areaSet = s.link.areaSet
      ∧ (raiseAttention s).link.unreported = s.link.unreported ∧ (raiseAttention s).link.idleTimer = s.link.idleTimer
      ∧ (raiseAttention s).link.waiting = s.link.waiting ∧ (raiseAttention s).link.readData = s.link.readData
      ∧ (raiseAttention s).intake = s.intake
      ∧ (raiseAttention s).setup = s.setup ∧ (raiseAttention s).paper = s.paper ∧ (raiseAttention s).plan = s.plan
      ∧ (raiseAttention s).fetch = s.fetch ∧ (raiseAttention s).pulse = s.pulse ∧ (raiseAttention s).line = s.line
      ∧ (raiseAttention s).supply = s.supply ∧ (raiseAttention s).web = s.web ∧ (raiseAttention s).cut = s.cut
      ∧ (raiseAttention s).sort = s.sort
      ∧ (raiseAttention s).eng = s.eng ∧ (raiseAttention s).out = s.out ∧ (raiseAttention s).pending = s.pending := by
  simp [raiseAttention]

@[simp] theorem raiseRefused_frame (s : State) :
    (raiseRefused s).link.area = s.link.area ∧ (raiseRefused s).link.areaSet = s.link.areaSet
      ∧ (raiseRefused s).link.unreported = s.link.unreported
      ∧ (raiseRefused s).link.idleTimer = s.link.idleTimer ∧ (raiseRefused s).link.waiting = s.link.waiting
      ∧ (raiseRefused s).link.readData = s.link.readData ∧ (raiseRefused s).intake = s.intake
      ∧ (raiseRefused s).setup = s.setup
      ∧ (raiseRefused s).paper = s.paper ∧ (raiseRefused s).plan = s.plan ∧ (raiseRefused s).fetch = s.fetch
      ∧ (raiseRefused s).pulse = s.pulse
      ∧ (raiseRefused s).line = s.line ∧ (raiseRefused s).supply = s.supply ∧ (raiseRefused s).web = s.web
      ∧ (raiseRefused s).cut = s.cut
      ∧ (raiseRefused s).sort = s.sort ∧ (raiseRefused s).eng = s.eng ∧ (raiseRefused s).out = s.out
      ∧ (raiseRefused s).pending = s.pending := by
  simp [raiseRefused]

@[simp] theorem emit_frame (o : Output) (s : State) :
    (emit o s).link = s.link ∧ (emit o s).intake = s.intake ∧ (emit o s).setup = s.setup ∧ (emit o s).paper = s.paper
      ∧ (emit o s).plan = s.plan
      ∧ (emit o s).fetch = s.fetch ∧ (emit o s).pulse = s.pulse ∧ (emit o s).line = s.line ∧ (emit o s).supply = s.supply
      ∧ (emit o s).web = s.web
      ∧ (emit o s).cut = s.cut ∧ (emit o s).sort = s.sort ∧ (emit o s).eng = s.eng ∧ (emit o s).pending = s.pending := by
  simp [emit]

@[simp] theorem clearOut_frame (s : State) :
    (clearOut s).intake = s.intake ∧ (clearOut s).setup = s.setup ∧ (clearOut s).paper = s.paper ∧ (clearOut s).plan = s.plan
      ∧ (clearOut s).fetch = s.fetch ∧ (clearOut s).pulse = s.pulse ∧ (clearOut s).line = s.line
      ∧ (clearOut s).supply = s.supply ∧ (clearOut s).web = s.web ∧ (clearOut s).cut = s.cut ∧ (clearOut s).sort = s.sort
      ∧ (clearOut s).eng = s.eng ∧ (clearOut s).pending = s.pending ∧ (clearOut s).link.area = s.link.area
      ∧ (clearOut s).link.areaSet = s.link.areaSet ∧ (clearOut s).link.causes = s.link.causes
      ∧ (clearOut s).link.unreported = s.link.unreported ∧ (clearOut s).link.idleTimer = s.link.idleTimer
      ∧ (clearOut s).link.waiting = s.link.waiting ∧ (clearOut s).link.readData = s.link.readData := by
  simp [clearOut]

@[simp] theorem markFields_frame (offsets : List Nat) (s : State) :
    (markFields offsets s).intake = s.intake ∧ (markFields offsets s).setup = s.setup ∧ (markFields offsets s).paper = s.paper
      ∧ (markFields offsets s).plan = s.plan ∧ (markFields offsets s).fetch = s.fetch ∧ (markFields offsets s).pulse = s.pulse
      ∧ (markFields offsets s).line = s.line ∧ (markFields offsets s).supply = s.supply ∧ (markFields offsets s).web = s.web
      ∧ (markFields offsets s).cut = s.cut ∧ (markFields offsets s).sort = s.sort ∧ (markFields offsets s).eng = s.eng
      ∧ (markFields offsets s).out = s.out ∧ (markFields offsets s).pending = s.pending
      ∧ (markFields offsets s).link.area = s.link.area ∧ (markFields offsets s).link.areaSet = s.link.areaSet
      ∧ (markFields offsets s).link.causes = s.link.causes ∧ (markFields offsets s).link.unreported = s.link.unreported
      ∧ (markFields offsets s).link.idleTimer = s.link.idleTimer ∧ (markFields offsets s).link.waiting = s.link.waiting
      ∧ (markFields offsets s).link.readData = s.link.readData := by
  simp [markFields]

@[simp] theorem setEngine_frame (st : EngineState) (s : State) :
    (setEngine st s).intake = s.intake ∧ (setEngine st s).setup = s.setup ∧ (setEngine st s).paper = s.paper
      ∧ (setEngine st s).plan = s.plan ∧ (setEngine st s).fetch = s.fetch ∧ (setEngine st s).pulse = s.pulse
      ∧ (setEngine st s).line = s.line ∧ (setEngine st s).supply = s.supply ∧ (setEngine st s).web = s.web
      ∧ (setEngine st s).cut = s.cut ∧ (setEngine st s).sort = s.sort ∧ (setEngine st s).out = s.out
      ∧ (setEngine st s).pending = s.pending ∧ (setEngine st s).link.area = s.link.area
      ∧ (setEngine st s).link.areaSet = s.link.areaSet ∧ (setEngine st s).link.causes = s.link.causes
      ∧ (setEngine st s).link.unreported = s.link.unreported ∧ (setEngine st s).link.idleTimer = s.link.idleTimer
      ∧ (setEngine st s).link.waiting = s.link.waiting ∧ (setEngine st s).link.readData = s.link.readData
      ∧ (setEngine st s).eng.resetKind = s.eng.resetKind ∧ (setEngine st s).eng.record = s.eng.record
      ∧ (setEngine st s).eng.overflow = s.eng.overflow ∧ (setEngine st s).eng.hold = s.eng.hold := by
  simp [setEngine]

@[simp] theorem emitAccess_frame (o : Output) (s : State) :
    (emitAccess o s).link = s.link ∧ (emitAccess o s).intake = s.intake ∧ (emitAccess o s).setup = s.setup
      ∧ (emitAccess o s).paper = s.paper
      ∧ (emitAccess o s).plan = s.plan ∧ (emitAccess o s).fetch = s.fetch ∧ (emitAccess o s).pulse = s.pulse
      ∧ (emitAccess o s).line = s.line
      ∧ (emitAccess o s).supply = s.supply ∧ (emitAccess o s).web = s.web ∧ (emitAccess o s).cut = s.cut
      ∧ (emitAccess o s).sort = s.sort
      ∧ (emitAccess o s).eng = s.eng ∧ (emitAccess o s).pending = s.pending := by
  unfold emitAccess
  (repeat' split) <;> simp

@[simp] theorem emitRead_frame (offset size : Nat) (s : State) :
    (emitRead offset size s).link = s.link ∧ (emitRead offset size s).intake = s.intake
      ∧ (emitRead offset size s).setup = s.setup
      ∧ (emitRead offset size s).paper = s.paper ∧ (emitRead offset size s).plan = s.plan
      ∧ (emitRead offset size s).fetch = s.fetch
      ∧ (emitRead offset size s).pulse = s.pulse ∧ (emitRead offset size s).line = s.line
      ∧ (emitRead offset size s).supply = s.supply
      ∧ (emitRead offset size s).web = s.web ∧ (emitRead offset size s).cut = s.cut ∧ (emitRead offset size s).sort = s.sort
      ∧ (emitRead offset size s).eng = s.eng ∧ (emitRead offset size s).pending = s.pending := by
  simp [emitRead]

@[simp] theorem emitWrite_frame (offset size value : Nat) (s : State) :
    (emitWrite offset size value s).link = s.link ∧ (emitWrite offset size value s).intake = s.intake
      ∧ (emitWrite offset size value s).setup = s.setup ∧ (emitWrite offset size value s).paper = s.paper
      ∧ (emitWrite offset size value s).plan = s.plan ∧ (emitWrite offset size value s).fetch = s.fetch
      ∧ (emitWrite offset size value s).pulse = s.pulse ∧ (emitWrite offset size value s).line = s.line
      ∧ (emitWrite offset size value s).supply = s.supply ∧ (emitWrite offset size value s).web = s.web
      ∧ (emitWrite offset size value s).cut = s.cut
      ∧ (emitWrite offset size value s).sort = s.sort ∧ (emitWrite offset size value s).eng = s.eng
      ∧ (emitWrite offset size value s).pending = s.pending := by
  simp [emitWrite]

@[simp] theorem emitReads_frame (slot : Nat) (fields : List (Nat × Nat)) (s : State) :
    (emitReads slot fields s).link = s.link ∧ (emitReads slot fields s).intake = s.intake
      ∧ (emitReads slot fields s).setup = s.setup ∧ (emitReads slot fields s).paper = s.paper
      ∧ (emitReads slot fields s).plan = s.plan ∧ (emitReads slot fields s).fetch = s.fetch
      ∧ (emitReads slot fields s).pulse = s.pulse ∧ (emitReads slot fields s).line = s.line
      ∧ (emitReads slot fields s).supply = s.supply ∧ (emitReads slot fields s).web = s.web
      ∧ (emitReads slot fields s).cut = s.cut ∧ (emitReads slot fields s).sort = s.sort
      ∧ (emitReads slot fields s).eng = s.eng ∧ (emitReads slot fields s).pending = s.pending := by
  refine ⟨?_, ?_, ?_, ?_, ?_, ?_, ?_, ?_, ?_, ?_, ?_, ?_, ?_, ?_⟩
  · unfold emitReads; exact (foldl_keep (fun s : State => s.link) _ (fun s x => by simp) _ _)
  · unfold emitReads; exact (foldl_keep (fun s : State => s.intake) _ (fun s x => by simp) _ _)
  · unfold emitReads; exact (foldl_keep (fun s : State => s.setup) _ (fun s x => by simp) _ _)
  · unfold emitReads; exact (foldl_keep (fun s : State => s.paper) _ (fun s x => by simp) _ _)
  · unfold emitReads; exact (foldl_keep (fun s : State => s.plan) _ (fun s x => by simp) _ _)
  · unfold emitReads; exact (foldl_keep (fun s : State => s.fetch) _ (fun s x => by simp) _ _)
  · unfold emitReads; exact (foldl_keep (fun s : State => s.pulse) _ (fun s x => by simp) _ _)
  · unfold emitReads; exact (foldl_keep (fun s : State => s.line) _ (fun s x => by simp) _ _)
  · unfold emitReads; exact (foldl_keep (fun s : State => s.supply) _ (fun s x => by simp) _ _)
  · unfold emitReads; exact (foldl_keep (fun s : State => s.web) _ (fun s x => by simp) _ _)
  · unfold emitReads; exact (foldl_keep (fun s : State => s.cut) _ (fun s x => by simp) _ _)
  · unfold emitReads; exact (foldl_keep (fun s : State => s.sort) _ (fun s x => by simp) _ _)
  · unfold emitReads; exact (foldl_keep (fun s : State => s.eng) _ (fun s x => by simp) _ _)
  · unfold emitReads; exact (foldl_keep (fun s : State => s.pending) _ (fun s x => by simp) _ _)

@[simp] theorem pushWrite_frame (slot offset size value : Nat) (s : State) :
    (pushWrite slot offset size value s).link.area = s.link.area
      ∧ (pushWrite slot offset size value s).link.areaSet = s.link.areaSet
      ∧ (pushWrite slot offset size value s).link.causes = s.link.causes
      ∧ (pushWrite slot offset size value s).link.unreported = s.link.unreported
      ∧ (pushWrite slot offset size value s).link.idleTimer = s.link.idleTimer
      ∧ (pushWrite slot offset size value s).link.readData = s.link.readData
      ∧ (pushWrite slot offset size value s).intake = s.intake ∧ (pushWrite slot offset size value s).setup = s.setup
      ∧ (pushWrite slot offset size value s).paper = s.paper ∧ (pushWrite slot offset size value s).plan = s.plan
      ∧ (pushWrite slot offset size value s).fetch = s.fetch ∧ (pushWrite slot offset size value s).pulse = s.pulse
      ∧ (pushWrite slot offset size value s).line = s.line ∧ (pushWrite slot offset size value s).supply = s.supply
      ∧ (pushWrite slot offset size value s).web = s.web ∧ (pushWrite slot offset size value s).cut = s.cut
      ∧ (pushWrite slot offset size value s).sort = s.sort ∧ (pushWrite slot offset size value s).eng = s.eng
      ∧ (pushWrite slot offset size value s).out = s.out ∧ (pushWrite slot offset size value s).pending = s.pending := by
  simp [pushWrite]

@[simp] theorem dropWrites_frame (slot : Nat) (s : State) :
    (dropWrites slot s).link.area = s.link.area ∧ (dropWrites slot s).link.areaSet = s.link.areaSet
      ∧ (dropWrites slot s).link.causes = s.link.causes
      ∧ (dropWrites slot s).link.unreported = s.link.unreported ∧ (dropWrites slot s).link.idleTimer = s.link.idleTimer
      ∧ (dropWrites slot s).link.readData = s.link.readData ∧ (dropWrites slot s).intake = s.intake
      ∧ (dropWrites slot s).setup = s.setup
      ∧ (dropWrites slot s).paper = s.paper ∧ (dropWrites slot s).plan = s.plan ∧ (dropWrites slot s).fetch = s.fetch
      ∧ (dropWrites slot s).pulse = s.pulse ∧ (dropWrites slot s).line = s.line ∧ (dropWrites slot s).supply = s.supply
      ∧ (dropWrites slot s).web = s.web ∧ (dropWrites slot s).cut = s.cut ∧ (dropWrites slot s).sort = s.sort
      ∧ (dropWrites slot s).eng = s.eng
      ∧ (dropWrites slot s).out = s.out ∧ (dropWrites slot s).pending = s.pending := by
  simp [dropWrites]

@[simp] theorem recordFault_frame (kind : FaultKind) (slot : Nat) (addr : Long) (s : State) :
    (recordFault kind slot addr s).link.area = s.link.area ∧ (recordFault kind slot addr s).link.areaSet = s.link.areaSet
      ∧ (recordFault kind slot addr s).link.unreported = s.link.unreported
      ∧ (recordFault kind slot addr s).link.idleTimer = s.link.idleTimer
      ∧ (recordFault kind slot addr s).link.waiting = s.link.waiting
      ∧ (recordFault kind slot addr s).link.readData = s.link.readData
      ∧ (recordFault kind slot addr s).intake = s.intake ∧ (recordFault kind slot addr s).setup = s.setup
      ∧ (recordFault kind slot addr s).paper = s.paper ∧ (recordFault kind slot addr s).plan = s.plan
      ∧ (recordFault kind slot addr s).fetch = s.fetch
      ∧ (recordFault kind slot addr s).pulse = s.pulse ∧ (recordFault kind slot addr s).line = s.line
      ∧ (recordFault kind slot addr s).supply = s.supply ∧ (recordFault kind slot addr s).web = s.web
      ∧ (recordFault kind slot addr s).cut = s.cut
      ∧ (recordFault kind slot addr s).sort = s.sort ∧ (recordFault kind slot addr s).eng.state = s.eng.state
      ∧ (recordFault kind slot addr s).eng.resetKind = s.eng.resetKind ∧ (recordFault kind slot addr s).eng.hold = s.eng.hold
      ∧ (recordFault kind slot addr s).out = s.out ∧ (recordFault kind slot addr s).pending = s.pending := by
  unfold recordFault
  (repeat' split) <;> simp

@[simp] theorem putOrder_frame (i : Nat) (o : Option Order) (s : State) :
    (putOrder i o s).link = s.link ∧ (putOrder i o s).intake = s.intake ∧ (putOrder i o s).setup = s.setup
      ∧ (putOrder i o s).paper = s.paper
      ∧ (putOrder i o s).plan.queue = s.plan.queue ∧ (putOrder i o s).plan.switchFlag = s.plan.switchFlag
      ∧ (putOrder i o s).plan.framesExposed = s.plan.framesExposed
      ∧ (putOrder i o s).plan.budgetRemakes = s.plan.budgetRemakes
      ∧ (putOrder i o s).plan.jamRemakes = s.plan.jamRemakes ∧ (putOrder i o s).fetch = s.fetch
      ∧ (putOrder i o s).pulse = s.pulse
      ∧ (putOrder i o s).line = s.line ∧ (putOrder i o s).supply = s.supply ∧ (putOrder i o s).web = s.web
      ∧ (putOrder i o s).cut = s.cut
      ∧ (putOrder i o s).sort = s.sort ∧ (putOrder i o s).eng = s.eng ∧ (putOrder i o s).out = s.out
      ∧ (putOrder i o s).pending = s.pending := by
  simp [putOrder]

@[simp] theorem setMag_frame (m : Mag) (r : Magazine) (s : State) :
    (setMag m r s).link = s.link ∧ (setMag m r s).intake = s.intake ∧ (setMag m r s).setup = s.setup
      ∧ (setMag m r s).paper.active = s.paper.active
      ∧ (setMag m r s).paper.target = s.paper.target ∧ (setMag m r s).paper.timer = s.paper.timer
      ∧ (setMag m r s).plan = s.plan
      ∧ (setMag m r s).fetch = s.fetch ∧ (setMag m r s).pulse = s.pulse ∧ (setMag m r s).line = s.line
      ∧ (setMag m r s).supply = s.supply
      ∧ (setMag m r s).web = s.web ∧ (setMag m r s).cut = s.cut ∧ (setMag m r s).sort = s.sort ∧ (setMag m r s).eng = s.eng
      ∧ (setMag m r s).out = s.out ∧ (setMag m r s).pending = s.pending := by
  refine ⟨?_, ?_, ?_, ?_, ?_, ?_, ?_, ?_, ?_, ?_, ?_, ?_, ?_, ?_, ?_, ?_, ?_⟩ <;> (cases m <;> rfl)

@[simp] theorem setBin_frame (b : Nat) (r : Bin) (s : State) :
    (setBin b r s).link = s.link ∧ (setBin b r s).intake = s.intake ∧ (setBin b r s).setup = s.setup
      ∧ (setBin b r s).paper = s.paper
      ∧ (setBin b r s).plan = s.plan ∧ (setBin b r s).fetch = s.fetch ∧ (setBin b r s).pulse = s.pulse
      ∧ (setBin b r s).line = s.line
      ∧ (setBin b r s).supply = s.supply ∧ (setBin b r s).web = s.web ∧ (setBin b r s).cut = s.cut
      ∧ (setBin b r s).sort.lane = s.sort.lane
      ∧ (setBin b r s).sort.rejectCount = s.sort.rejectCount ∧ (setBin b r s).sort.rejectFull = s.sort.rejectFull
      ∧ (setBin b r s).sort.misroutes = s.sort.misroutes ∧ (setBin b r s).sort.clock = s.sort.clock
      ∧ (setBin b r s).sort.keys = s.sort.keys
      ∧ (setBin b r s).sort.blink1 = s.sort.blink1 ∧ (setBin b r s).sort.blink4 = s.sort.blink4 ∧ (setBin b r s).eng = s.eng
      ∧ (setBin b r s).out = s.out ∧ (setBin b r s).pending = s.pending := by
  simp [setBin]

@[simp] theorem issueSetupRead_frame (f : SetupField) (s : State) :
    (issueSetupRead f s).link = s.link ∧ (issueSetupRead f s).intake = s.intake
      ∧ (issueSetupRead f s).setup.params = s.setup.params
      ∧ (issueSetupRead f s).setup.state = s.setup.state ∧ (issueSetupRead f s).paper = s.paper
      ∧ (issueSetupRead f s).plan = s.plan
      ∧ (issueSetupRead f s).fetch = s.fetch ∧ (issueSetupRead f s).pulse = s.pulse ∧ (issueSetupRead f s).line = s.line
      ∧ (issueSetupRead f s).supply = s.supply ∧ (issueSetupRead f s).web = s.web ∧ (issueSetupRead f s).cut = s.cut
      ∧ (issueSetupRead f s).sort = s.sort ∧ (issueSetupRead f s).eng = s.eng ∧ (issueSetupRead f s).pending = s.pending := by
  simp [issueSetupRead]

@[simp] theorem endLoad_frame (st : SetupState) (s : State) :
    (endLoad st s).link = s.link ∧ (endLoad st s).intake = s.intake ∧ (endLoad st s).setup.params = s.setup.params
      ∧ (endLoad st s).paper = s.paper
      ∧ (endLoad st s).plan = s.plan ∧ (endLoad st s).fetch = s.fetch ∧ (endLoad st s).pulse = s.pulse
      ∧ (endLoad st s).line = s.line
      ∧ (endLoad st s).supply = s.supply ∧ (endLoad st s).web = s.web ∧ (endLoad st s).cut = s.cut
      ∧ (endLoad st s).sort = s.sort
      ∧ (endLoad st s).eng = s.eng ∧ (endLoad st s).out = s.out ∧ (endLoad st s).pending = s.pending := by
  simp [endLoad]

@[simp] theorem startLoad_frame (s : State) :
    (startLoad s).link = s.link ∧ (startLoad s).intake = s.intake ∧ (startLoad s).paper = s.paper
      ∧ (startLoad s).plan = s.plan
      ∧ (startLoad s).fetch = s.fetch ∧ (startLoad s).pulse = s.pulse ∧ (startLoad s).line = s.line
      ∧ (startLoad s).supply = s.supply
      ∧ (startLoad s).web = s.web ∧ (startLoad s).cut = s.cut ∧ (startLoad s).sort = s.sort ∧ (startLoad s).eng = s.eng
      ∧ (startLoad s).pending = s.pending := by
  simp [startLoad]

@[simp] theorem loadRead_frame (f : SetupField) (result : Option (BitVec 64)) (s : State) :
    (loadRead f result s).link.area = s.link.area ∧ (loadRead f result s).link.areaSet = s.link.areaSet
      ∧ (loadRead f result s).link.unreported = s.link.unreported ∧ (loadRead f result s).link.idleTimer = s.link.idleTimer
      ∧ (loadRead f result s).link.waiting = s.link.waiting ∧ (loadRead f result s).link.readData = s.link.readData
      ∧ (loadRead f result s).intake = s.intake ∧ (loadRead f result s).paper = s.paper ∧ (loadRead f result s).plan = s.plan
      ∧ (loadRead f result s).fetch = s.fetch ∧ (loadRead f result s).pulse = s.pulse ∧ (loadRead f result s).line = s.line
      ∧ (loadRead f result s).supply = s.supply ∧ (loadRead f result s).web = s.web ∧ (loadRead f result s).cut = s.cut
      ∧ (loadRead f result s).sort = s.sort ∧ (loadRead f result s).eng.state = s.eng.state
      ∧ (loadRead f result s).eng.resetKind = s.eng.resetKind
      ∧ (loadRead f result s).eng.hold = s.eng.hold ∧ (loadRead f result s).pending = s.pending := by
  simp only [loadRead]
  (repeat' split) <;> simp

@[simp] theorem reserveBin_frame (ticket : Word) (slot : Nat) (s : State) (b : Nat) :
    (reserveBin ticket slot s b).link = s.link ∧ (reserveBin ticket slot s b).intake = s.intake
      ∧ (reserveBin ticket slot s b).setup = s.setup
      ∧ (reserveBin ticket slot s b).paper = s.paper ∧ (reserveBin ticket slot s b).plan = s.plan
      ∧ (reserveBin ticket slot s b).fetch = s.fetch
      ∧ (reserveBin ticket slot s b).pulse = s.pulse ∧ (reserveBin ticket slot s b).line = s.line
      ∧ (reserveBin ticket slot s b).supply = s.supply
      ∧ (reserveBin ticket slot s b).web = s.web ∧ (reserveBin ticket slot s b).cut = s.cut
      ∧ (reserveBin ticket slot s b).sort.lane = s.sort.lane
      ∧ (reserveBin ticket slot s b).sort.rejectCount = s.sort.rejectCount
      ∧ (reserveBin ticket slot s b).sort.rejectFull = s.sort.rejectFull
      ∧ (reserveBin ticket slot s b).sort.misroutes = s.sort.misroutes
      ∧ (reserveBin ticket slot s b).sort.clock = s.sort.clock
      ∧ (reserveBin ticket slot s b).sort.keys = s.sort.keys ∧ (reserveBin ticket slot s b).sort.blink1 = s.sort.blink1
      ∧ (reserveBin ticket slot s b).sort.blink4 = s.sort.blink4 ∧ (reserveBin ticket slot s b).eng = s.eng
      ∧ (reserveBin ticket slot s b).out = s.out
      ∧ (reserveBin ticket slot s b).pending = s.pending := by
  simp [reserveBin]

@[simp] theorem foldl_reserveBin_frame (l : List Nat) (ticket : Word) (slot : Nat) (s : State) :
    (l.foldl (reserveBin ticket slot) s).link = s.link ∧ (l.foldl (reserveBin ticket slot) s).intake = s.intake
      ∧ (l.foldl (reserveBin ticket slot) s).setup = s.setup ∧ (l.foldl (reserveBin ticket slot) s).paper = s.paper
      ∧ (l.foldl (reserveBin ticket slot) s).plan = s.plan ∧ (l.foldl (reserveBin ticket slot) s).fetch = s.fetch
      ∧ (l.foldl (reserveBin ticket slot) s).pulse = s.pulse ∧ (l.foldl (reserveBin ticket slot) s).line = s.line
      ∧ (l.foldl (reserveBin ticket slot) s).supply = s.supply ∧ (l.foldl (reserveBin ticket slot) s).web = s.web
      ∧ (l.foldl (reserveBin ticket slot) s).cut = s.cut ∧ (l.foldl (reserveBin ticket slot) s).sort.lane = s.sort.lane
      ∧ (l.foldl (reserveBin ticket slot) s).sort.rejectCount = s.sort.rejectCount
      ∧ (l.foldl (reserveBin ticket slot) s).sort.rejectFull = s.sort.rejectFull
      ∧ (l.foldl (reserveBin ticket slot) s).sort.misroutes = s.sort.misroutes
      ∧ (l.foldl (reserveBin ticket slot) s).sort.clock = s.sort.clock
      ∧ (l.foldl (reserveBin ticket slot) s).sort.keys = s.sort.keys
      ∧ (l.foldl (reserveBin ticket slot) s).sort.blink1 = s.sort.blink1
      ∧ (l.foldl (reserveBin ticket slot) s).sort.blink4 = s.sort.blink4 ∧ (l.foldl (reserveBin ticket slot) s).eng = s.eng
      ∧ (l.foldl (reserveBin ticket slot) s).out = s.out ∧ (l.foldl (reserveBin ticket slot) s).pending = s.pending := by
  refine ⟨?_, ?_, ?_, ?_, ?_, ?_, ?_, ?_, ?_, ?_, ?_, ?_, ?_, ?_, ?_, ?_, ?_, ?_, ?_, ?_, ?_, ?_⟩
  · exact foldl_keep (fun s : State => s.link) _ (fun s x => by simp) _ _
  · exact foldl_keep (fun s : State => s.intake) _ (fun s x => by simp) _ _
  · exact foldl_keep (fun s : State => s.setup) _ (fun s x => by simp) _ _
  · exact foldl_keep (fun s : State => s.paper) _ (fun s x => by simp) _ _
  · exact foldl_keep (fun s : State => s.plan) _ (fun s x => by simp) _ _
  · exact foldl_keep (fun s : State => s.fetch) _ (fun s x => by simp) _ _
  · exact foldl_keep (fun s : State => s.pulse) _ (fun s x => by simp) _ _
  · exact foldl_keep (fun s : State => s.line) _ (fun s x => by simp) _ _
  · exact foldl_keep (fun s : State => s.supply) _ (fun s x => by simp) _ _
  · exact foldl_keep (fun s : State => s.web) _ (fun s x => by simp) _ _
  · exact foldl_keep (fun s : State => s.cut) _ (fun s x => by simp) _ _
  · exact foldl_keep (fun s : State => s.sort.lane) _ (fun s x => by simp) _ _
  · exact foldl_keep (fun s : State => s.sort.rejectCount) _ (fun s x => by simp) _ _
  · exact foldl_keep (fun s : State => s.sort.rejectFull) _ (fun s x => by simp) _ _
  · exact foldl_keep (fun s : State => s.sort.misroutes) _ (fun s x => by simp) _ _
  · exact foldl_keep (fun s : State => s.sort.clock) _ (fun s x => by simp) _ _
  · exact foldl_keep (fun s : State => s.sort.keys) _ (fun s x => by simp) _ _
  · exact foldl_keep (fun s : State => s.sort.blink1) _ (fun s x => by simp) _ _
  · exact foldl_keep (fun s : State => s.sort.blink4) _ (fun s x => by simp) _ _
  · exact foldl_keep (fun s : State => s.eng) _ (fun s x => by simp) _ _
  · exact foldl_keep (fun s : State => s.out) _ (fun s x => by simp) _ _
  · exact foldl_keep (fun s : State => s.pending) _ (fun s x => by simp) _ _

theorem reserveBins_frame (k : Nat) (ticket : Word) (slot : Nat) (s t : State) (bs : List Nat) (h : reserveBins k ticket slot s = some (t, bs)) :
    t.link = s.link ∧ t.intake = s.intake ∧ t.setup = s.setup ∧ t.paper = s.paper ∧ t.plan = s.plan ∧ t.fetch = s.fetch
      ∧ t.pulse = s.pulse
      ∧ t.line = s.line ∧ t.supply = s.supply ∧ t.web = s.web ∧ t.cut = s.cut ∧ t.sort.lane = s.sort.lane
      ∧ t.sort.rejectCount = s.sort.rejectCount
      ∧ t.sort.rejectFull = s.sort.rejectFull ∧ t.sort.misroutes = s.sort.misroutes ∧ t.sort.clock = s.sort.clock
      ∧ t.sort.keys = s.sort.keys
      ∧ t.sort.blink1 = s.sort.blink1 ∧ t.sort.blink4 = s.sort.blink4 ∧ t.eng = s.eng ∧ t.out = s.out
      ∧ t.pending = s.pending := by
  simp only [reserveBins] at h
  split at h <;> simp only [Option.some.injEq, Prod.mk.injEq, reduceCtorEq] at h
  obtain ⟨rfl, -⟩ := h
  simp

@[simp] theorem attendBin_frame (b : Nat) (s : State) :
    (attendBin b s).link.area = s.link.area ∧ (attendBin b s).link.areaSet = s.link.areaSet
      ∧ (attendBin b s).link.unreported = s.link.unreported
      ∧ (attendBin b s).link.idleTimer = s.link.idleTimer ∧ (attendBin b s).link.waiting = s.link.waiting
      ∧ (attendBin b s).link.readData = s.link.readData ∧ (attendBin b s).intake = s.intake ∧ (attendBin b s).setup = s.setup
      ∧ (attendBin b s).paper = s.paper ∧ (attendBin b s).plan = s.plan ∧ (attendBin b s).fetch = s.fetch
      ∧ (attendBin b s).pulse = s.pulse
      ∧ (attendBin b s).line = s.line ∧ (attendBin b s).supply = s.supply ∧ (attendBin b s).web = s.web
      ∧ (attendBin b s).cut = s.cut
      ∧ (attendBin b s).sort.lane = s.sort.lane ∧ (attendBin b s).sort.rejectCount = s.sort.rejectCount
      ∧ (attendBin b s).sort.rejectFull = s.sort.rejectFull ∧ (attendBin b s).sort.misroutes = s.sort.misroutes
      ∧ (attendBin b s).sort.clock = s.sort.clock ∧ (attendBin b s).sort.keys = s.sort.keys
      ∧ (attendBin b s).sort.blink1 = s.sort.blink1
      ∧ (attendBin b s).sort.blink4 = s.sort.blink4 ∧ (attendBin b s).eng = s.eng ∧ (attendBin b s).out = s.out
      ∧ (attendBin b s).pending = s.pending := by
  unfold attendBin
  (repeat' split) <;> simp

@[simp] theorem completeBin_frame (cancelled : Bool) (s : State) (b : Nat) :
    (completeBin cancelled s b).link.area = s.link.area ∧ (completeBin cancelled s b).link.areaSet = s.link.areaSet
      ∧ (completeBin cancelled s b).link.unreported = s.link.unreported
      ∧ (completeBin cancelled s b).link.idleTimer = s.link.idleTimer
      ∧ (completeBin cancelled s b).link.waiting = s.link.waiting
      ∧ (completeBin cancelled s b).link.readData = s.link.readData
      ∧ (completeBin cancelled s b).intake = s.intake ∧ (completeBin cancelled s b).setup = s.setup
      ∧ (completeBin cancelled s b).paper = s.paper
      ∧ (completeBin cancelled s b).plan = s.plan ∧ (completeBin cancelled s b).fetch = s.fetch
      ∧ (completeBin cancelled s b).pulse = s.pulse
      ∧ (completeBin cancelled s b).line = s.line ∧ (completeBin cancelled s b).supply = s.supply
      ∧ (completeBin cancelled s b).web = s.web
      ∧ (completeBin cancelled s b).cut = s.cut ∧ (completeBin cancelled s b).sort.lane = s.sort.lane
      ∧ (completeBin cancelled s b).sort.rejectCount = s.sort.rejectCount
      ∧ (completeBin cancelled s b).sort.rejectFull = s.sort.rejectFull
      ∧ (completeBin cancelled s b).sort.misroutes = s.sort.misroutes ∧ (completeBin cancelled s b).sort.clock = s.sort.clock
      ∧ (completeBin cancelled s b).sort.keys = s.sort.keys ∧ (completeBin cancelled s b).sort.blink1 = s.sort.blink1
      ∧ (completeBin cancelled s b).sort.blink4 = s.sort.blink4 ∧ (completeBin cancelled s b).eng = s.eng
      ∧ (completeBin cancelled s b).out = s.out
      ∧ (completeBin cancelled s b).pending = s.pending := by
  simp only [completeBin]
  (repeat' split) <;> simp

@[simp] theorem completionReport_frame (bins : List Nat) (cancelled : Bool) (s : State) :
    (completionReport bins cancelled s).link.area = s.link.area
      ∧ (completionReport bins cancelled s).link.areaSet = s.link.areaSet
      ∧ (completionReport bins cancelled s).link.unreported = s.link.unreported
      ∧ (completionReport bins cancelled s).link.idleTimer = s.link.idleTimer
      ∧ (completionReport bins cancelled s).link.waiting = s.link.waiting
      ∧ (completionReport bins cancelled s).link.readData = s.link.readData
      ∧ (completionReport bins cancelled s).intake = s.intake
      ∧ (completionReport bins cancelled s).setup = s.setup ∧ (completionReport bins cancelled s).paper = s.paper
      ∧ (completionReport bins cancelled s).plan = s.plan ∧ (completionReport bins cancelled s).fetch = s.fetch
      ∧ (completionReport bins cancelled s).pulse = s.pulse ∧ (completionReport bins cancelled s).line = s.line
      ∧ (completionReport bins cancelled s).supply = s.supply ∧ (completionReport bins cancelled s).web = s.web
      ∧ (completionReport bins cancelled s).cut = s.cut ∧ (completionReport bins cancelled s).sort.lane = s.sort.lane
      ∧ (completionReport bins cancelled s).sort.rejectCount = s.sort.rejectCount
      ∧ (completionReport bins cancelled s).sort.rejectFull = s.sort.rejectFull
      ∧ (completionReport bins cancelled s).sort.misroutes = s.sort.misroutes
      ∧ (completionReport bins cancelled s).sort.clock = s.sort.clock
      ∧ (completionReport bins cancelled s).sort.keys = s.sort.keys
      ∧ (completionReport bins cancelled s).sort.blink1 = s.sort.blink1
      ∧ (completionReport bins cancelled s).sort.blink4 = s.sort.blink4 ∧ (completionReport bins cancelled s).eng = s.eng
      ∧ (completionReport bins cancelled s).out = s.out ∧ (completionReport bins cancelled s).pending = s.pending := by
  refine ⟨?_, ?_, ?_, ?_, ?_, ?_, ?_, ?_, ?_, ?_, ?_, ?_, ?_, ?_, ?_, ?_, ?_, ?_, ?_, ?_, ?_, ?_, ?_, ?_, ?_, ?_, ?_⟩
  · unfold completionReport
    exact (foldl_keep (fun s : State => s.link.area) _ (fun s x => by simp) _ _).trans (by simp)
  · unfold completionReport
    exact (foldl_keep (fun s : State => s.link.areaSet) _ (fun s x => by simp) _ _).trans (by simp)
  · unfold completionReport
    exact (foldl_keep (fun s : State => s.link.unreported) _ (fun s x => by simp) _ _).trans (by simp)
  · unfold completionReport
    exact (foldl_keep (fun s : State => s.link.idleTimer) _ (fun s x => by simp) _ _).trans (by simp)
  · unfold completionReport
    exact (foldl_keep (fun s : State => s.link.waiting) _ (fun s x => by simp) _ _).trans (by simp)
  · unfold completionReport
    exact (foldl_keep (fun s : State => s.link.readData) _ (fun s x => by simp) _ _).trans (by simp)
  · unfold completionReport
    exact (foldl_keep (fun s : State => s.intake) _ (fun s x => by simp) _ _).trans (by simp)
  · unfold completionReport
    exact (foldl_keep (fun s : State => s.setup) _ (fun s x => by simp) _ _).trans (by simp)
  · unfold completionReport
    exact (foldl_keep (fun s : State => s.paper) _ (fun s x => by simp) _ _).trans (by simp)
  · unfold completionReport
    exact (foldl_keep (fun s : State => s.plan) _ (fun s x => by simp) _ _).trans (by simp)
  · unfold completionReport
    exact (foldl_keep (fun s : State => s.fetch) _ (fun s x => by simp) _ _).trans (by simp)
  · unfold completionReport
    exact (foldl_keep (fun s : State => s.pulse) _ (fun s x => by simp) _ _).trans (by simp)
  · unfold completionReport
    exact (foldl_keep (fun s : State => s.line) _ (fun s x => by simp) _ _).trans (by simp)
  · unfold completionReport
    exact (foldl_keep (fun s : State => s.supply) _ (fun s x => by simp) _ _).trans (by simp)
  · unfold completionReport
    exact (foldl_keep (fun s : State => s.web) _ (fun s x => by simp) _ _).trans (by simp)
  · unfold completionReport
    exact (foldl_keep (fun s : State => s.cut) _ (fun s x => by simp) _ _).trans (by simp)
  · unfold completionReport
    exact (foldl_keep (fun s : State => s.sort.lane) _ (fun s x => by simp) _ _).trans (by simp)
  · unfold completionReport
    exact (foldl_keep (fun s : State => s.sort.rejectCount) _ (fun s x => by simp) _ _).trans (by simp)
  · unfold completionReport
    exact (foldl_keep (fun s : State => s.sort.rejectFull) _ (fun s x => by simp) _ _).trans (by simp)
  · unfold completionReport
    exact (foldl_keep (fun s : State => s.sort.misroutes) _ (fun s x => by simp) _ _).trans (by simp)
  · unfold completionReport
    exact (foldl_keep (fun s : State => s.sort.clock) _ (fun s x => by simp) _ _).trans (by simp)
  · unfold completionReport
    exact (foldl_keep (fun s : State => s.sort.keys) _ (fun s x => by simp) _ _).trans (by simp)
  · unfold completionReport
    exact (foldl_keep (fun s : State => s.sort.blink1) _ (fun s x => by simp) _ _).trans (by simp)
  · unfold completionReport
    exact (foldl_keep (fun s : State => s.sort.blink4) _ (fun s x => by simp) _ _).trans (by simp)
  · unfold completionReport
    exact (foldl_keep (fun s : State => s.eng) _ (fun s x => by simp) _ _).trans (by simp)
  · unfold completionReport
    exact (foldl_keep (fun s : State => s.out) _ (fun s x => by simp) _ _).trans (by simp)
  · unfold completionReport
    exact (foldl_keep (fun s : State => s.pending) _ (fun s x => by simp) _ _).trans (by simp)

@[simp] theorem rejectLanding_frame (s : State) :
    (rejectLanding s).link.area = s.link.area ∧ (rejectLanding s).link.areaSet = s.link.areaSet
      ∧ (rejectLanding s).link.unreported = s.link.unreported ∧ (rejectLanding s).link.idleTimer = s.link.idleTimer
      ∧ (rejectLanding s).link.waiting = s.link.waiting ∧ (rejectLanding s).link.readData = s.link.readData
      ∧ (rejectLanding s).intake = s.intake
      ∧ (rejectLanding s).setup = s.setup ∧ (rejectLanding s).paper = s.paper ∧ (rejectLanding s).plan = s.plan
      ∧ (rejectLanding s).fetch = s.fetch
      ∧ (rejectLanding s).pulse = s.pulse ∧ (rejectLanding s).line = s.line ∧ (rejectLanding s).supply = s.supply
      ∧ (rejectLanding s).web = s.web
      ∧ (rejectLanding s).cut = s.cut ∧ (rejectLanding s).sort.lane = s.sort.lane ∧ (rejectLanding s).sort.bins = s.sort.bins
      ∧ (rejectLanding s).sort.misroutes = s.sort.misroutes ∧ (rejectLanding s).sort.clock = s.sort.clock
      ∧ (rejectLanding s).sort.keys = s.sort.keys
      ∧ (rejectLanding s).sort.blink1 = s.sort.blink1 ∧ (rejectLanding s).sort.blink4 = s.sort.blink4
      ∧ (rejectLanding s).eng = s.eng
      ∧ (rejectLanding s).out = s.out ∧ (rejectLanding s).pending = s.pending := by
  simp only [rejectLanding]
  (repeat' split) <;> simp

@[simp] theorem strayLanding_frame (b : Nat) (s : State) :
    (strayLanding b s).link.area = s.link.area ∧ (strayLanding b s).link.areaSet = s.link.areaSet
      ∧ (strayLanding b s).link.unreported = s.link.unreported ∧ (strayLanding b s).link.idleTimer = s.link.idleTimer
      ∧ (strayLanding b s).link.waiting = s.link.waiting ∧ (strayLanding b s).link.readData = s.link.readData
      ∧ (strayLanding b s).intake = s.intake
      ∧ (strayLanding b s).setup = s.setup ∧ (strayLanding b s).paper = s.paper ∧ (strayLanding b s).plan = s.plan
      ∧ (strayLanding b s).fetch = s.fetch ∧ (strayLanding b s).pulse = s.pulse ∧ (strayLanding b s).line = s.line
      ∧ (strayLanding b s).supply = s.supply ∧ (strayLanding b s).web = s.web ∧ (strayLanding b s).cut = s.cut
      ∧ (strayLanding b s).sort.lane = s.sort.lane ∧ (strayLanding b s).sort.misroutes = s.sort.misroutes
      ∧ (strayLanding b s).sort.clock = s.sort.clock ∧ (strayLanding b s).sort.keys = s.sort.keys
      ∧ (strayLanding b s).sort.blink1 = s.sort.blink1
      ∧ (strayLanding b s).sort.blink4 = s.sort.blink4 ∧ (strayLanding b s).eng = s.eng ∧ (strayLanding b s).out = s.out
      ∧ (strayLanding b s).pending = s.pending := by
  unfold strayLanding
  (repeat' split) <;> simp

@[simp] theorem keyEvent_frame (b : Nat) (s : State) :
    (keyEvent b s).link.area = s.link.area ∧ (keyEvent b s).link.areaSet = s.link.areaSet
      ∧ (keyEvent b s).link.unreported = s.link.unreported
      ∧ (keyEvent b s).link.idleTimer = s.link.idleTimer ∧ (keyEvent b s).link.waiting = s.link.waiting
      ∧ (keyEvent b s).link.readData = s.link.readData ∧ (keyEvent b s).intake = s.intake ∧ (keyEvent b s).setup = s.setup
      ∧ (keyEvent b s).paper = s.paper ∧ (keyEvent b s).plan = s.plan ∧ (keyEvent b s).fetch = s.fetch
      ∧ (keyEvent b s).pulse = s.pulse
      ∧ (keyEvent b s).line = s.line ∧ (keyEvent b s).supply = s.supply ∧ (keyEvent b s).web = s.web
      ∧ (keyEvent b s).cut = s.cut
      ∧ (keyEvent b s).sort.lane = s.sort.lane ∧ (keyEvent b s).sort.misroutes = s.sort.misroutes
      ∧ (keyEvent b s).sort.clock = s.sort.clock
      ∧ (keyEvent b s).sort.keys = s.sort.keys ∧ (keyEvent b s).sort.blink1 = s.sort.blink1
      ∧ (keyEvent b s).sort.blink4 = s.sort.blink4
      ∧ (keyEvent b s).eng = s.eng ∧ (keyEvent b s).out = s.out ∧ (keyEvent b s).pending = s.pending := by
  simp only [keyEvent]
  (repeat' split) <;> simp

@[simp] theorem foldl_keyEvent_frame (l : List Nat) (s : State) :
    (l.foldl (fun s b => keyEvent b s) s).link.area = s.link.area
      ∧ (l.foldl (fun s b => keyEvent b s) s).link.areaSet = s.link.areaSet
      ∧ (l.foldl (fun s b => keyEvent b s) s).link.unreported = s.link.unreported
      ∧ (l.foldl (fun s b => keyEvent b s) s).link.idleTimer = s.link.idleTimer
      ∧ (l.foldl (fun s b => keyEvent b s) s).link.waiting = s.link.waiting
      ∧ (l.foldl (fun s b => keyEvent b s) s).link.readData = s.link.readData
      ∧ (l.foldl (fun s b => keyEvent b s) s).intake = s.intake
      ∧ (l.foldl (fun s b => keyEvent b s) s).setup = s.setup ∧ (l.foldl (fun s b => keyEvent b s) s).paper = s.paper
      ∧ (l.foldl (fun s b => keyEvent b s) s).plan = s.plan ∧ (l.foldl (fun s b => keyEvent b s) s).fetch = s.fetch
      ∧ (l.foldl (fun s b => keyEvent b s) s).pulse = s.pulse ∧ (l.foldl (fun s b => keyEvent b s) s).line = s.line
      ∧ (l.foldl (fun s b => keyEvent b s) s).supply = s.supply ∧ (l.foldl (fun s b => keyEvent b s) s).web = s.web
      ∧ (l.foldl (fun s b => keyEvent b s) s).cut = s.cut ∧ (l.foldl (fun s b => keyEvent b s) s).sort.lane = s.sort.lane
      ∧ (l.foldl (fun s b => keyEvent b s) s).sort.misroutes = s.sort.misroutes
      ∧ (l.foldl (fun s b => keyEvent b s) s).sort.clock = s.sort.clock
      ∧ (l.foldl (fun s b => keyEvent b s) s).sort.keys = s.sort.keys
      ∧ (l.foldl (fun s b => keyEvent b s) s).sort.blink1 = s.sort.blink1
      ∧ (l.foldl (fun s b => keyEvent b s) s).sort.blink4 = s.sort.blink4 ∧ (l.foldl (fun s b => keyEvent b s) s).eng = s.eng
      ∧ (l.foldl (fun s b => keyEvent b s) s).out = s.out ∧ (l.foldl (fun s b => keyEvent b s) s).pending = s.pending := by
  refine ⟨?_, ?_, ?_, ?_, ?_, ?_, ?_, ?_, ?_, ?_, ?_, ?_, ?_, ?_, ?_, ?_, ?_, ?_, ?_, ?_, ?_, ?_, ?_, ?_, ?_⟩
  · exact foldl_keep (fun s : State => s.link.area) _ (fun s x => by simp) _ _
  · exact foldl_keep (fun s : State => s.link.areaSet) _ (fun s x => by simp) _ _
  · exact foldl_keep (fun s : State => s.link.unreported) _ (fun s x => by simp) _ _
  · exact foldl_keep (fun s : State => s.link.idleTimer) _ (fun s x => by simp) _ _
  · exact foldl_keep (fun s : State => s.link.waiting) _ (fun s x => by simp) _ _
  · exact foldl_keep (fun s : State => s.link.readData) _ (fun s x => by simp) _ _
  · exact foldl_keep (fun s : State => s.intake) _ (fun s x => by simp) _ _
  · exact foldl_keep (fun s : State => s.setup) _ (fun s x => by simp) _ _
  · exact foldl_keep (fun s : State => s.paper) _ (fun s x => by simp) _ _
  · exact foldl_keep (fun s : State => s.plan) _ (fun s x => by simp) _ _
  · exact foldl_keep (fun s : State => s.fetch) _ (fun s x => by simp) _ _
  · exact foldl_keep (fun s : State => s.pulse) _ (fun s x => by simp) _ _
  · exact foldl_keep (fun s : State => s.line) _ (fun s x => by simp) _ _
  · exact foldl_keep (fun s : State => s.supply) _ (fun s x => by simp) _ _
  · exact foldl_keep (fun s : State => s.web) _ (fun s x => by simp) _ _
  · exact foldl_keep (fun s : State => s.cut) _ (fun s x => by simp) _ _
  · exact foldl_keep (fun s : State => s.sort.lane) _ (fun s x => by simp) _ _
  · exact foldl_keep (fun s : State => s.sort.misroutes) _ (fun s x => by simp) _ _
  · exact foldl_keep (fun s : State => s.sort.clock) _ (fun s x => by simp) _ _
  · exact foldl_keep (fun s : State => s.sort.keys) _ (fun s x => by simp) _ _
  · exact foldl_keep (fun s : State => s.sort.blink1) _ (fun s x => by simp) _ _
  · exact foldl_keep (fun s : State => s.sort.blink4) _ (fun s x => by simp) _ _
  · exact foldl_keep (fun s : State => s.eng) _ (fun s x => by simp) _ _
  · exact foldl_keep (fun s : State => s.out) _ (fun s x => by simp) _ _
  · exact foldl_keep (fun s : State => s.pending) _ (fun s x => by simp) _ _

@[simp] theorem evalLowOf_frame (m : Mag) (s : State) :
    (evalLowOf m s).link.area = s.link.area ∧ (evalLowOf m s).link.areaSet = s.link.areaSet
      ∧ (evalLowOf m s).link.unreported = s.link.unreported
      ∧ (evalLowOf m s).link.idleTimer = s.link.idleTimer ∧ (evalLowOf m s).link.waiting = s.link.waiting
      ∧ (evalLowOf m s).link.readData = s.link.readData ∧ (evalLowOf m s).intake = s.intake ∧ (evalLowOf m s).setup = s.setup
      ∧ (evalLowOf m s).paper.active = s.paper.active ∧ (evalLowOf m s).paper.target = s.paper.target
      ∧ (evalLowOf m s).paper.timer = s.paper.timer
      ∧ (evalLowOf m s).plan = s.plan ∧ (evalLowOf m s).fetch = s.fetch ∧ (evalLowOf m s).pulse = s.pulse
      ∧ (evalLowOf m s).line = s.line
      ∧ (evalLowOf m s).supply = s.supply ∧ (evalLowOf m s).web = s.web ∧ (evalLowOf m s).cut = s.cut
      ∧ (evalLowOf m s).sort = s.sort
      ∧ (evalLowOf m s).eng = s.eng ∧ (evalLowOf m s).out = s.out ∧ (evalLowOf m s).pending = s.pending := by
  simp only [evalLowOf]
  (repeat' split) <;> simp

@[simp] theorem evalLow_frame (s : State) :
    (evalLow s).link.area = s.link.area ∧ (evalLow s).link.areaSet = s.link.areaSet
      ∧ (evalLow s).link.unreported = s.link.unreported
      ∧ (evalLow s).link.idleTimer = s.link.idleTimer ∧ (evalLow s).link.waiting = s.link.waiting
      ∧ (evalLow s).link.readData = s.link.readData
      ∧ (evalLow s).intake = s.intake ∧ (evalLow s).setup = s.setup ∧ (evalLow s).paper.active = s.paper.active
      ∧ (evalLow s).paper.target = s.paper.target ∧ (evalLow s).paper.timer = s.paper.timer ∧ (evalLow s).plan = s.plan
      ∧ (evalLow s).fetch = s.fetch
      ∧ (evalLow s).pulse = s.pulse ∧ (evalLow s).line = s.line ∧ (evalLow s).supply = s.supply ∧ (evalLow s).web = s.web
      ∧ (evalLow s).cut = s.cut
      ∧ (evalLow s).sort = s.sort ∧ (evalLow s).eng = s.eng ∧ (evalLow s).out = s.out ∧ (evalLow s).pending = s.pending := by
  simp [evalLow]

@[simp] theorem requestChange_frame (s : State) :
    (requestChange s).link = s.link ∧ (requestChange s).intake = s.intake ∧ (requestChange s).setup = s.setup
      ∧ (requestChange s).paper.magA = s.paper.magA ∧ (requestChange s).paper.magB = s.paper.magB
      ∧ (requestChange s).paper.active = s.paper.active
      ∧ (requestChange s).plan = s.plan ∧ (requestChange s).fetch = s.fetch ∧ (requestChange s).pulse = s.pulse
      ∧ (requestChange s).line = s.line
      ∧ (requestChange s).supply = s.supply ∧ (requestChange s).web = s.web ∧ (requestChange s).cut = s.cut
      ∧ (requestChange s).sort = s.sort
      ∧ (requestChange s).eng = s.eng ∧ (requestChange s).out = s.out ∧ (requestChange s).pending = s.pending := by
  unfold requestChange
  (repeat' split) <;> simp

@[simp] theorem endChange_frame (s : State) :
    (endChange s).link = s.link ∧ (endChange s).intake = s.intake ∧ (endChange s).setup = s.setup
      ∧ (endChange s).paper.magA = s.paper.magA
      ∧ (endChange s).paper.magB = s.paper.magB ∧ (endChange s).paper.active = s.paper.active ∧ (endChange s).plan = s.plan
      ∧ (endChange s).fetch = s.fetch ∧ (endChange s).pulse = s.pulse ∧ (endChange s).line = s.line
      ∧ (endChange s).supply = s.supply
      ∧ (endChange s).web = s.web ∧ (endChange s).cut = s.cut ∧ (endChange s).sort = s.sort ∧ (endChange s).eng = s.eng
      ∧ (endChange s).out = s.out
      ∧ (endChange s).pending = s.pending := by
  simp [endChange]

@[simp] theorem countStrobe_frame (s : State) :
    (countStrobe s).1.link.area = s.link.area ∧ (countStrobe s).1.link.areaSet = s.link.areaSet
      ∧ (countStrobe s).1.link.unreported = s.link.unreported ∧ (countStrobe s).1.link.idleTimer = s.link.idleTimer
      ∧ (countStrobe s).1.link.waiting = s.link.waiting ∧ (countStrobe s).1.link.readData = s.link.readData
      ∧ (countStrobe s).1.intake = s.intake
      ∧ (countStrobe s).1.setup = s.setup ∧ (countStrobe s).1.paper.active = s.paper.active
      ∧ (countStrobe s).1.paper.target = s.paper.target
      ∧ (countStrobe s).1.paper.timer = s.paper.timer ∧ (countStrobe s).1.plan = s.plan ∧ (countStrobe s).1.fetch = s.fetch
      ∧ (countStrobe s).1.pulse = s.pulse ∧ (countStrobe s).1.line = s.line ∧ (countStrobe s).1.supply = s.supply
      ∧ (countStrobe s).1.web = s.web
      ∧ (countStrobe s).1.cut = s.cut ∧ (countStrobe s).1.sort = s.sort ∧ (countStrobe s).1.eng = s.eng
      ∧ (countStrobe s).1.out = s.out
      ∧ (countStrobe s).1.pending = s.pending := by
  simp only [countStrobe]
  (repeat' split) <;> simp

@[simp] theorem writeMirror_frame (o : Order) (s : State) :
    (writeMirror o s).link.area = s.link.area ∧ (writeMirror o s).link.areaSet = s.link.areaSet
      ∧ (writeMirror o s).link.causes = s.link.causes
      ∧ (writeMirror o s).link.unreported = s.link.unreported ∧ (writeMirror o s).link.idleTimer = s.link.idleTimer
      ∧ (writeMirror o s).link.readData = s.link.readData ∧ (writeMirror o s).intake = s.intake
      ∧ (writeMirror o s).setup = s.setup
      ∧ (writeMirror o s).paper = s.paper ∧ (writeMirror o s).plan = s.plan ∧ (writeMirror o s).fetch = s.fetch
      ∧ (writeMirror o s).pulse = s.pulse
      ∧ (writeMirror o s).line = s.line ∧ (writeMirror o s).supply = s.supply ∧ (writeMirror o s).web = s.web
      ∧ (writeMirror o s).cut = s.cut
      ∧ (writeMirror o s).sort = s.sort ∧ (writeMirror o s).eng = s.eng ∧ (writeMirror o s).out = s.out
      ∧ (writeMirror o s).pending = s.pending := by
  unfold writeMirror
  (repeat' split) <;> simp

@[simp] theorem pushResultFields_frame (slot i g a used jams summary : Nat) (s : State) :
    (pushResultFields slot i g a used jams summary s).intake = s.intake
      ∧ (pushResultFields slot i g a used jams summary s).setup = s.setup
      ∧ (pushResultFields slot i g a used jams summary s).paper = s.paper
      ∧ (pushResultFields slot i g a used jams summary s).plan = s.plan
      ∧ (pushResultFields slot i g a used jams summary s).fetch = s.fetch
      ∧ (pushResultFields slot i g a used jams summary s).pulse = s.pulse
      ∧ (pushResultFields slot i g a used jams summary s).line = s.line
      ∧ (pushResultFields slot i g a used jams summary s).supply = s.supply
      ∧ (pushResultFields slot i g a used jams summary s).web = s.web
      ∧ (pushResultFields slot i g a used jams summary s).cut = s.cut
      ∧ (pushResultFields slot i g a used jams summary s).sort = s.sort
      ∧ (pushResultFields slot i g a used jams summary s).eng = s.eng
      ∧ (pushResultFields slot i g a used jams summary s).out = s.out
      ∧ (pushResultFields slot i g a used jams summary s).pending = s.pending
      ∧ (pushResultFields slot i g a used jams summary s).link.area = s.link.area
      ∧ (pushResultFields slot i g a used jams summary s).link.areaSet = s.link.areaSet
      ∧ (pushResultFields slot i g a used jams summary s).link.causes = s.link.causes
      ∧ (pushResultFields slot i g a used jams summary s).link.unreported = s.link.unreported
      ∧ (pushResultFields slot i g a used jams summary s).link.idleTimer = s.link.idleTimer
      ∧ (pushResultFields slot i g a used jams summary s).link.readData = s.link.readData := by
  simp [pushResultFields]

@[simp] theorem pushResult_frame (slot i : Nat) (e : Entry) (s : State) :
    (pushResult slot i e s).link.area = s.link.area ∧ (pushResult slot i e s).link.areaSet = s.link.areaSet
      ∧ (pushResult slot i e s).link.causes = s.link.causes ∧ (pushResult slot i e s).link.unreported = s.link.unreported
      ∧ (pushResult slot i e s).link.idleTimer = s.link.idleTimer ∧ (pushResult slot i e s).link.readData = s.link.readData
      ∧ (pushResult slot i e s).intake = s.intake ∧ (pushResult slot i e s).setup = s.setup
      ∧ (pushResult slot i e s).paper = s.paper
      ∧ (pushResult slot i e s).plan = s.plan ∧ (pushResult slot i e s).fetch = s.fetch
      ∧ (pushResult slot i e s).pulse = s.pulse
      ∧ (pushResult slot i e s).line = s.line ∧ (pushResult slot i e s).supply = s.supply
      ∧ (pushResult slot i e s).web = s.web
      ∧ (pushResult slot i e s).cut = s.cut ∧ (pushResult slot i e s).sort = s.sort ∧ (pushResult slot i e s).eng = s.eng
      ∧ (pushResult slot i e s).out = s.out ∧ (pushResult slot i e s).pending = s.pending := by
  simp [pushResult]

@[simp] theorem writeResult_frame (o : Order) (i : Nat) (s : State) :
    (writeResult o i s).link.area = s.link.area ∧ (writeResult o i s).link.areaSet = s.link.areaSet
      ∧ (writeResult o i s).link.causes = s.link.causes
      ∧ (writeResult o i s).link.unreported = s.link.unreported ∧ (writeResult o i s).link.idleTimer = s.link.idleTimer
      ∧ (writeResult o i s).link.readData = s.link.readData ∧ (writeResult o i s).intake = s.intake
      ∧ (writeResult o i s).setup = s.setup
      ∧ (writeResult o i s).paper = s.paper ∧ (writeResult o i s).plan = s.plan ∧ (writeResult o i s).fetch = s.fetch
      ∧ (writeResult o i s).pulse = s.pulse ∧ (writeResult o i s).line = s.line ∧ (writeResult o i s).supply = s.supply
      ∧ (writeResult o i s).web = s.web ∧ (writeResult o i s).cut = s.cut ∧ (writeResult o i s).sort = s.sort
      ∧ (writeResult o i s).eng = s.eng
      ∧ (writeResult o i s).out = s.out ∧ (writeResult o i s).pending = s.pending := by
  unfold writeResult
  (repeat' split) <;> simp

@[simp] theorem writeBins_frame (o : Order) (s : State) :
    (writeBins o s).link.area = s.link.area ∧ (writeBins o s).link.areaSet = s.link.areaSet
      ∧ (writeBins o s).link.causes = s.link.causes
      ∧ (writeBins o s).link.unreported = s.link.unreported ∧ (writeBins o s).link.idleTimer = s.link.idleTimer
      ∧ (writeBins o s).link.readData = s.link.readData ∧ (writeBins o s).intake = s.intake ∧ (writeBins o s).setup = s.setup
      ∧ (writeBins o s).paper = s.paper ∧ (writeBins o s).plan = s.plan ∧ (writeBins o s).fetch = s.fetch
      ∧ (writeBins o s).pulse = s.pulse
      ∧ (writeBins o s).line = s.line ∧ (writeBins o s).supply = s.supply ∧ (writeBins o s).web = s.web
      ∧ (writeBins o s).cut = s.cut
      ∧ (writeBins o s).sort = s.sort ∧ (writeBins o s).eng = s.eng ∧ (writeBins o s).out = s.out
      ∧ (writeBins o s).pending = s.pending := by
  unfold writeBins
  (repeat' split) <;> simp

@[simp] theorem freeOrder_frame (i : Nat) (s : State) :
    (freeOrder i s).link.area = s.link.area ∧ (freeOrder i s).link.areaSet = s.link.areaSet
      ∧ (freeOrder i s).link.unreported = s.link.unreported
      ∧ (freeOrder i s).link.idleTimer = s.link.idleTimer ∧ (freeOrder i s).link.waiting = s.link.waiting
      ∧ (freeOrder i s).link.readData = s.link.readData ∧ (freeOrder i s).intake = s.intake ∧ (freeOrder i s).setup = s.setup
      ∧ (freeOrder i s).paper.active = s.paper.active ∧ (freeOrder i s).paper.target = s.paper.target
      ∧ (freeOrder i s).paper.timer = s.paper.timer
      ∧ (freeOrder i s).plan.switchFlag = s.plan.switchFlag ∧ (freeOrder i s).plan.framesExposed = s.plan.framesExposed
      ∧ (freeOrder i s).plan.budgetRemakes = s.plan.budgetRemakes ∧ (freeOrder i s).plan.jamRemakes = s.plan.jamRemakes
      ∧ (freeOrder i s).fetch = s.fetch ∧ (freeOrder i s).pulse = s.pulse ∧ (freeOrder i s).line = s.line
      ∧ (freeOrder i s).supply = s.supply
      ∧ (freeOrder i s).web = s.web ∧ (freeOrder i s).cut = s.cut ∧ (freeOrder i s).sort = s.sort
      ∧ (freeOrder i s).eng = s.eng
      ∧ (freeOrder i s).out = s.out ∧ (freeOrder i s).pending = s.pending := by
  simp [freeOrder]

@[simp] theorem enterState_frame (i : Nat) (o : Order) (st : OrderState) (s : State) :
    (enterState i o st s).link.area = s.link.area ∧ (enterState i o st s).link.areaSet = s.link.areaSet
      ∧ (enterState i o st s).link.causes = s.link.causes ∧ (enterState i o st s).link.unreported = s.link.unreported
      ∧ (enterState i o st s).link.idleTimer = s.link.idleTimer ∧ (enterState i o st s).link.readData = s.link.readData
      ∧ (enterState i o st s).intake = s.intake ∧ (enterState i o st s).setup = s.setup
      ∧ (enterState i o st s).paper = s.paper
      ∧ (enterState i o st s).plan.queue = s.plan.queue ∧ (enterState i o st s).plan.switchFlag = s.plan.switchFlag
      ∧ (enterState i o st s).plan.framesExposed = s.plan.framesExposed
      ∧ (enterState i o st s).plan.budgetRemakes = s.plan.budgetRemakes
      ∧ (enterState i o st s).plan.jamRemakes = s.plan.jamRemakes ∧ (enterState i o st s).fetch = s.fetch
      ∧ (enterState i o st s).pulse = s.pulse
      ∧ (enterState i o st s).line = s.line ∧ (enterState i o st s).supply = s.supply ∧ (enterState i o st s).web = s.web
      ∧ (enterState i o st s).cut = s.cut ∧ (enterState i o st s).sort = s.sort ∧ (enterState i o st s).eng = s.eng
      ∧ (enterState i o st s).out = s.out ∧ (enterState i o st s).pending = s.pending := by
  simp [enterState]

@[simp] theorem completeOrder_frame (i : Nat) (o : Order) (s : State) :
    (completeOrder i o s).link.area = s.link.area ∧ (completeOrder i o s).link.areaSet = s.link.areaSet
      ∧ (completeOrder i o s).link.unreported = s.link.unreported ∧ (completeOrder i o s).link.idleTimer = s.link.idleTimer
      ∧ (completeOrder i o s).link.readData = s.link.readData ∧ (completeOrder i o s).intake = s.intake
      ∧ (completeOrder i o s).setup = s.setup
      ∧ (completeOrder i o s).paper.active = s.paper.active ∧ (completeOrder i o s).paper.target = s.paper.target
      ∧ (completeOrder i o s).paper.timer = s.paper.timer ∧ (completeOrder i o s).plan.switchFlag = s.plan.switchFlag
      ∧ (completeOrder i o s).plan.framesExposed = s.plan.framesExposed
      ∧ (completeOrder i o s).plan.budgetRemakes = s.plan.budgetRemakes
      ∧ (completeOrder i o s).plan.jamRemakes = s.plan.jamRemakes ∧ (completeOrder i o s).fetch = s.fetch
      ∧ (completeOrder i o s).pulse = s.pulse
      ∧ (completeOrder i o s).line = s.line ∧ (completeOrder i o s).supply = s.supply ∧ (completeOrder i o s).web = s.web
      ∧ (completeOrder i o s).cut = s.cut ∧ (completeOrder i o s).sort.lane = s.sort.lane
      ∧ (completeOrder i o s).sort.rejectCount = s.sort.rejectCount
      ∧ (completeOrder i o s).sort.rejectFull = s.sort.rejectFull
      ∧ (completeOrder i o s).sort.misroutes = s.sort.misroutes ∧ (completeOrder i o s).sort.clock = s.sort.clock
      ∧ (completeOrder i o s).sort.keys = s.sort.keys ∧ (completeOrder i o s).sort.blink1 = s.sort.blink1
      ∧ (completeOrder i o s).sort.blink4 = s.sort.blink4 ∧ (completeOrder i o s).eng = s.eng
      ∧ (completeOrder i o s).out = s.out
      ∧ (completeOrder i o s).pending = s.pending := by
  unfold completeOrder
  (repeat' split) <;> simp

@[simp] theorem evalOrder_frame (i : Nat) (s : State) :
    (evalOrder i s).link.area = s.link.area ∧ (evalOrder i s).link.areaSet = s.link.areaSet
      ∧ (evalOrder i s).link.unreported = s.link.unreported
      ∧ (evalOrder i s).link.idleTimer = s.link.idleTimer ∧ (evalOrder i s).link.readData = s.link.readData
      ∧ (evalOrder i s).intake = s.intake
      ∧ (evalOrder i s).setup = s.setup ∧ (evalOrder i s).paper.active = s.paper.active
      ∧ (evalOrder i s).paper.target = s.paper.target
      ∧ (evalOrder i s).paper.timer = s.paper.timer ∧ (evalOrder i s).plan.switchFlag = s.plan.switchFlag
      ∧ (evalOrder i s).plan.framesExposed = s.plan.framesExposed ∧ (evalOrder i s).plan.budgetRemakes = s.plan.budgetRemakes
      ∧ (evalOrder i s).plan.jamRemakes = s.plan.jamRemakes ∧ (evalOrder i s).fetch = s.fetch
      ∧ (evalOrder i s).pulse = s.pulse
      ∧ (evalOrder i s).line = s.line ∧ (evalOrder i s).supply = s.supply ∧ (evalOrder i s).web = s.web
      ∧ (evalOrder i s).cut = s.cut
      ∧ (evalOrder i s).sort.lane = s.sort.lane ∧ (evalOrder i s).sort.rejectCount = s.sort.rejectCount
      ∧ (evalOrder i s).sort.rejectFull = s.sort.rejectFull ∧ (evalOrder i s).sort.misroutes = s.sort.misroutes
      ∧ (evalOrder i s).sort.clock = s.sort.clock ∧ (evalOrder i s).sort.keys = s.sort.keys
      ∧ (evalOrder i s).sort.blink1 = s.sort.blink1
      ∧ (evalOrder i s).sort.blink4 = s.sort.blink4 ∧ (evalOrder i s).eng = s.eng ∧ (evalOrder i s).out = s.out
      ∧ (evalOrder i s).pending = s.pending := by
  unfold evalOrder
  (repeat' split) <;> simp

@[simp] theorem evalWaitOf_frame (s : State) (i : Nat) :
    (evalWaitOf s i).link.area = s.link.area ∧ (evalWaitOf s i).link.areaSet = s.link.areaSet
      ∧ (evalWaitOf s i).link.unreported = s.link.unreported
      ∧ (evalWaitOf s i).link.idleTimer = s.link.idleTimer ∧ (evalWaitOf s i).link.readData = s.link.readData
      ∧ (evalWaitOf s i).intake = s.intake
      ∧ (evalWaitOf s i).setup = s.setup ∧ (evalWaitOf s i).paper = s.paper ∧ (evalWaitOf s i).plan.queue = s.plan.queue
      ∧ (evalWaitOf s i).plan.switchFlag = s.plan.switchFlag ∧ (evalWaitOf s i).plan.framesExposed = s.plan.framesExposed
      ∧ (evalWaitOf s i).plan.budgetRemakes = s.plan.budgetRemakes ∧ (evalWaitOf s i).plan.jamRemakes = s.plan.jamRemakes
      ∧ (evalWaitOf s i).fetch = s.fetch ∧ (evalWaitOf s i).pulse = s.pulse ∧ (evalWaitOf s i).line = s.line
      ∧ (evalWaitOf s i).supply = s.supply
      ∧ (evalWaitOf s i).web = s.web ∧ (evalWaitOf s i).cut = s.cut ∧ (evalWaitOf s i).sort = s.sort
      ∧ (evalWaitOf s i).eng = s.eng
      ∧ (evalWaitOf s i).out = s.out ∧ (evalWaitOf s i).pending = s.pending := by
  unfold evalWaitOf
  (repeat' split) <;> simp

@[simp] theorem evalWait_frame (s : State) :
    (evalWait s).link.area = s.link.area ∧ (evalWait s).link.areaSet = s.link.areaSet
      ∧ (evalWait s).link.unreported = s.link.unreported
      ∧ (evalWait s).link.idleTimer = s.link.idleTimer ∧ (evalWait s).link.readData = s.link.readData
      ∧ (evalWait s).intake = s.intake
      ∧ (evalWait s).setup = s.setup ∧ (evalWait s).paper = s.paper ∧ (evalWait s).plan.queue = s.plan.queue
      ∧ (evalWait s).plan.switchFlag = s.plan.switchFlag ∧ (evalWait s).plan.framesExposed = s.plan.framesExposed
      ∧ (evalWait s).plan.budgetRemakes = s.plan.budgetRemakes ∧ (evalWait s).plan.jamRemakes = s.plan.jamRemakes
      ∧ (evalWait s).fetch = s.fetch
      ∧ (evalWait s).pulse = s.pulse ∧ (evalWait s).line = s.line ∧ (evalWait s).supply = s.supply ∧ (evalWait s).web = s.web
      ∧ (evalWait s).cut = s.cut ∧ (evalWait s).sort = s.sort ∧ (evalWait s).eng = s.eng ∧ (evalWait s).out = s.out
      ∧ (evalWait s).pending = s.pending := by
  refine ⟨?_, ?_, ?_, ?_, ?_, ?_, ?_, ?_, ?_, ?_, ?_, ?_, ?_, ?_, ?_, ?_, ?_, ?_, ?_, ?_, ?_, ?_, ?_⟩
  · unfold evalWait
    exact (foldl_keep (fun s : State => s.link.area) _ (fun s x => by simp) _ _).trans (by simp)
  · unfold evalWait
    exact (foldl_keep (fun s : State => s.link.areaSet) _ (fun s x => by simp) _ _).trans (by simp)
  · unfold evalWait
    exact (foldl_keep (fun s : State => s.link.unreported) _ (fun s x => by simp) _ _).trans (by simp)
  · unfold evalWait
    exact (foldl_keep (fun s : State => s.link.idleTimer) _ (fun s x => by simp) _ _).trans (by simp)
  · unfold evalWait
    exact (foldl_keep (fun s : State => s.link.readData) _ (fun s x => by simp) _ _).trans (by simp)
  · unfold evalWait
    exact (foldl_keep (fun s : State => s.intake) _ (fun s x => by simp) _ _).trans (by simp)
  · unfold evalWait
    exact (foldl_keep (fun s : State => s.setup) _ (fun s x => by simp) _ _).trans (by simp)
  · unfold evalWait
    exact (foldl_keep (fun s : State => s.paper) _ (fun s x => by simp) _ _).trans (by simp)
  · unfold evalWait
    exact (foldl_keep (fun s : State => s.plan.queue) _ (fun s x => by simp) _ _).trans (by simp)
  · unfold evalWait
    exact (foldl_keep (fun s : State => s.plan.switchFlag) _ (fun s x => by simp) _ _).trans (by simp)
  · unfold evalWait
    exact (foldl_keep (fun s : State => s.plan.framesExposed) _ (fun s x => by simp) _ _).trans (by simp)
  · unfold evalWait
    exact (foldl_keep (fun s : State => s.plan.budgetRemakes) _ (fun s x => by simp) _ _).trans (by simp)
  · unfold evalWait
    exact (foldl_keep (fun s : State => s.plan.jamRemakes) _ (fun s x => by simp) _ _).trans (by simp)
  · unfold evalWait
    exact (foldl_keep (fun s : State => s.fetch) _ (fun s x => by simp) _ _).trans (by simp)
  · unfold evalWait
    exact (foldl_keep (fun s : State => s.pulse) _ (fun s x => by simp) _ _).trans (by simp)
  · unfold evalWait
    exact (foldl_keep (fun s : State => s.line) _ (fun s x => by simp) _ _).trans (by simp)
  · unfold evalWait
    exact (foldl_keep (fun s : State => s.supply) _ (fun s x => by simp) _ _).trans (by simp)
  · unfold evalWait
    exact (foldl_keep (fun s : State => s.web) _ (fun s x => by simp) _ _).trans (by simp)
  · unfold evalWait
    exact (foldl_keep (fun s : State => s.cut) _ (fun s x => by simp) _ _).trans (by simp)
  · unfold evalWait
    exact (foldl_keep (fun s : State => s.sort) _ (fun s x => by simp) _ _).trans (by simp)
  · unfold evalWait
    exact (foldl_keep (fun s : State => s.eng) _ (fun s x => by simp) _ _).trans (by simp)
  · unfold evalWait
    exact (foldl_keep (fun s : State => s.out) _ (fun s x => by simp) _ _).trans (by simp)
  · unfold evalWait
    exact (foldl_keep (fun s : State => s.pending) _ (fun s x => by simp) _ _).trans (by simp)

@[simp] theorem countRemake_frame (how : Settle) (s : State) :
    (countRemake how s).link = s.link ∧ (countRemake how s).intake = s.intake ∧ (countRemake how s).setup = s.setup
      ∧ (countRemake how s).paper = s.paper ∧ (countRemake how s).plan.table = s.plan.table
      ∧ (countRemake how s).plan.queue = s.plan.queue
      ∧ (countRemake how s).plan.switchFlag = s.plan.switchFlag
      ∧ (countRemake how s).plan.framesExposed = s.plan.framesExposed
      ∧ (countRemake how s).fetch = s.fetch ∧ (countRemake how s).pulse = s.pulse ∧ (countRemake how s).line = s.line
      ∧ (countRemake how s).supply = s.supply ∧ (countRemake how s).web = s.web ∧ (countRemake how s).cut = s.cut
      ∧ (countRemake how s).sort = s.sort
      ∧ (countRemake how s).eng = s.eng ∧ (countRemake how s).out = s.out ∧ (countRemake how s).pending = s.pending := by
  unfold countRemake
  (repeat' split) <;> simp

@[simp] theorem settleFrame_frame (how : Settle) (i ei : Nat) (num : Word) (s : State) :
    (settleFrame how i ei num s).link.area = s.link.area ∧ (settleFrame how i ei num s).link.areaSet = s.link.areaSet
      ∧ (settleFrame how i ei num s).link.unreported = s.link.unreported
      ∧ (settleFrame how i ei num s).link.idleTimer = s.link.idleTimer
      ∧ (settleFrame how i ei num s).link.readData = s.link.readData ∧ (settleFrame how i ei num s).intake = s.intake
      ∧ (settleFrame how i ei num s).setup = s.setup ∧ (settleFrame how i ei num s).paper.active = s.paper.active
      ∧ (settleFrame how i ei num s).paper.target = s.paper.target ∧ (settleFrame how i ei num s).paper.timer = s.paper.timer
      ∧ (settleFrame how i ei num s).plan.switchFlag = s.plan.switchFlag
      ∧ (settleFrame how i ei num s).plan.framesExposed = s.plan.framesExposed
      ∧ (settleFrame how i ei num s).fetch = s.fetch ∧ (settleFrame how i ei num s).pulse = s.pulse
      ∧ (settleFrame how i ei num s).line = s.line
      ∧ (settleFrame how i ei num s).supply = s.supply ∧ (settleFrame how i ei num s).web = s.web
      ∧ (settleFrame how i ei num s).cut = s.cut
      ∧ (settleFrame how i ei num s).sort.lane = s.sort.lane
      ∧ (settleFrame how i ei num s).sort.rejectCount = s.sort.rejectCount
      ∧ (settleFrame how i ei num s).sort.rejectFull = s.sort.rejectFull
      ∧ (settleFrame how i ei num s).sort.misroutes = s.sort.misroutes
      ∧ (settleFrame how i ei num s).sort.clock = s.sort.clock ∧ (settleFrame how i ei num s).sort.keys = s.sort.keys
      ∧ (settleFrame how i ei num s).sort.blink1 = s.sort.blink1 ∧ (settleFrame how i ei num s).sort.blink4 = s.sort.blink4
      ∧ (settleFrame how i ei num s).eng = s.eng ∧ (settleFrame how i ei num s).out = s.out
      ∧ (settleFrame how i ei num s).pending = s.pending := by
  simp only [settleFrame]
  (repeat' split) <;> simp

@[simp] theorem writeCancelled_frame (before after : Order) (s : State) :
    (writeCancelled before after s).link.area = s.link.area ∧ (writeCancelled before after s).link.areaSet = s.link.areaSet
      ∧ (writeCancelled before after s).link.causes = s.link.causes
      ∧ (writeCancelled before after s).link.unreported = s.link.unreported
      ∧ (writeCancelled before after s).link.idleTimer = s.link.idleTimer
      ∧ (writeCancelled before after s).link.readData = s.link.readData
      ∧ (writeCancelled before after s).intake = s.intake ∧ (writeCancelled before after s).setup = s.setup
      ∧ (writeCancelled before after s).paper = s.paper ∧ (writeCancelled before after s).plan = s.plan
      ∧ (writeCancelled before after s).fetch = s.fetch ∧ (writeCancelled before after s).pulse = s.pulse
      ∧ (writeCancelled before after s).line = s.line ∧ (writeCancelled before after s).supply = s.supply
      ∧ (writeCancelled before after s).web = s.web ∧ (writeCancelled before after s).cut = s.cut
      ∧ (writeCancelled before after s).sort = s.sort
      ∧ (writeCancelled before after s).eng = s.eng ∧ (writeCancelled before after s).out = s.out
      ∧ (writeCancelled before after s).pending = s.pending := by
  refine ⟨?_, ?_, ?_, ?_, ?_, ?_, ?_, ?_, ?_, ?_, ?_, ?_, ?_, ?_, ?_, ?_, ?_, ?_, ?_, ?_⟩
  · unfold writeCancelled
    exact (foldl_keep (fun s : State => s.link.area) _ (fun s x => by (repeat' split) <;> simp) _ _).trans (by simp)
  · unfold writeCancelled
    exact (foldl_keep (fun s : State => s.link.areaSet) _ (fun s x => by (repeat' split) <;> simp) _ _).trans (by simp)
  · unfold writeCancelled
    exact (foldl_keep (fun s : State => s.link.causes) _ (fun s x => by (repeat' split) <;> simp) _ _).trans (by simp)
  · unfold writeCancelled
    exact (foldl_keep (fun s : State => s.link.unreported) _ (fun s x => by (repeat' split) <;> simp) _ _).trans (by simp)
  · unfold writeCancelled
    exact (foldl_keep (fun s : State => s.link.idleTimer) _ (fun s x => by (repeat' split) <;> simp) _ _).trans (by simp)
  · unfold writeCancelled
    exact (foldl_keep (fun s : State => s.link.readData) _ (fun s x => by (repeat' split) <;> simp) _ _).trans (by simp)
  · unfold writeCancelled
    exact (foldl_keep (fun s : State => s.intake) _ (fun s x => by (repeat' split) <;> simp) _ _).trans (by simp)
  · unfold writeCancelled
    exact (foldl_keep (fun s : State => s.setup) _ (fun s x => by (repeat' split) <;> simp) _ _).trans (by simp)
  · unfold writeCancelled
    exact (foldl_keep (fun s : State => s.paper) _ (fun s x => by (repeat' split) <;> simp) _ _).trans (by simp)
  · unfold writeCancelled
    exact (foldl_keep (fun s : State => s.plan) _ (fun s x => by (repeat' split) <;> simp) _ _).trans (by simp)
  · unfold writeCancelled
    exact (foldl_keep (fun s : State => s.fetch) _ (fun s x => by (repeat' split) <;> simp) _ _).trans (by simp)
  · unfold writeCancelled
    exact (foldl_keep (fun s : State => s.pulse) _ (fun s x => by (repeat' split) <;> simp) _ _).trans (by simp)
  · unfold writeCancelled
    exact (foldl_keep (fun s : State => s.line) _ (fun s x => by (repeat' split) <;> simp) _ _).trans (by simp)
  · unfold writeCancelled
    exact (foldl_keep (fun s : State => s.supply) _ (fun s x => by (repeat' split) <;> simp) _ _).trans (by simp)
  · unfold writeCancelled
    exact (foldl_keep (fun s : State => s.web) _ (fun s x => by (repeat' split) <;> simp) _ _).trans (by simp)
  · unfold writeCancelled
    exact (foldl_keep (fun s : State => s.cut) _ (fun s x => by (repeat' split) <;> simp) _ _).trans (by simp)
  · unfold writeCancelled
    exact (foldl_keep (fun s : State => s.sort) _ (fun s x => by (repeat' split) <;> simp) _ _).trans (by simp)
  · unfold writeCancelled
    exact (foldl_keep (fun s : State => s.eng) _ (fun s x => by (repeat' split) <;> simp) _ _).trans (by simp)
  · unfold writeCancelled
    exact (foldl_keep (fun s : State => s.out) _ (fun s x => by (repeat' split) <;> simp) _ _).trans (by simp)
  · unfold writeCancelled
    exact (foldl_keep (fun s : State => s.pending) _ (fun s x => by (repeat' split) <;> simp) _ _).trans (by simp)

@[simp] theorem cancelOrder_frame (i : Nat) (s : State) :
    (cancelOrder i s).link.area = s.link.area ∧ (cancelOrder i s).link.areaSet = s.link.areaSet
      ∧ (cancelOrder i s).link.unreported = s.link.unreported ∧ (cancelOrder i s).link.idleTimer = s.link.idleTimer
      ∧ (cancelOrder i s).link.readData = s.link.readData ∧ (cancelOrder i s).intake = s.intake
      ∧ (cancelOrder i s).setup = s.setup
      ∧ (cancelOrder i s).paper.active = s.paper.active ∧ (cancelOrder i s).paper.target = s.paper.target
      ∧ (cancelOrder i s).paper.timer = s.paper.timer ∧ (cancelOrder i s).plan.switchFlag = s.plan.switchFlag
      ∧ (cancelOrder i s).plan.framesExposed = s.plan.framesExposed
      ∧ (cancelOrder i s).plan.budgetRemakes = s.plan.budgetRemakes
      ∧ (cancelOrder i s).plan.jamRemakes = s.plan.jamRemakes ∧ (cancelOrder i s).fetch = s.fetch
      ∧ (cancelOrder i s).pulse = s.pulse
      ∧ (cancelOrder i s).line = s.line ∧ (cancelOrder i s).supply = s.supply ∧ (cancelOrder i s).web = s.web
      ∧ (cancelOrder i s).cut = s.cut
      ∧ (cancelOrder i s).sort.lane = s.sort.lane ∧ (cancelOrder i s).sort.rejectCount = s.sort.rejectCount
      ∧ (cancelOrder i s).sort.rejectFull = s.sort.rejectFull ∧ (cancelOrder i s).sort.misroutes = s.sort.misroutes
      ∧ (cancelOrder i s).sort.clock = s.sort.clock ∧ (cancelOrder i s).sort.keys = s.sort.keys
      ∧ (cancelOrder i s).sort.blink1 = s.sort.blink1
      ∧ (cancelOrder i s).sort.blink4 = s.sort.blink4 ∧ (cancelOrder i s).eng = s.eng ∧ (cancelOrder i s).out = s.out
      ∧ (cancelOrder i s).pending = s.pending := by
  unfold cancelOrder
  (repeat' split) <;> simp

@[simp] theorem detachOrder_frame (i : Nat) (s : State) :
    (detachOrder i s).link.area = s.link.area ∧ (detachOrder i s).link.areaSet = s.link.areaSet
      ∧ (detachOrder i s).link.unreported = s.link.unreported ∧ (detachOrder i s).link.idleTimer = s.link.idleTimer
      ∧ (detachOrder i s).link.readData = s.link.readData ∧ (detachOrder i s).intake.timer = s.intake.timer
      ∧ (detachOrder i s).intake.takeSeq = s.intake.takeSeq ∧ (detachOrder i s).intake.lostPending = s.intake.lostPending
      ∧ (detachOrder i s).intake.sweep = s.intake.sweep ∧ (detachOrder i s).intake.cellRead = s.intake.cellRead
      ∧ (detachOrder i s).intake.cellOwed = s.intake.cellOwed ∧ (detachOrder i s).setup = s.setup
      ∧ (detachOrder i s).paper.active = s.paper.active
      ∧ (detachOrder i s).paper.target = s.paper.target ∧ (detachOrder i s).paper.timer = s.paper.timer
      ∧ (detachOrder i s).plan.switchFlag = s.plan.switchFlag ∧ (detachOrder i s).plan.framesExposed = s.plan.framesExposed
      ∧ (detachOrder i s).plan.budgetRemakes = s.plan.budgetRemakes ∧ (detachOrder i s).plan.jamRemakes = s.plan.jamRemakes
      ∧ (detachOrder i s).fetch = s.fetch ∧ (detachOrder i s).pulse = s.pulse ∧ (detachOrder i s).line = s.line
      ∧ (detachOrder i s).supply = s.supply
      ∧ (detachOrder i s).web = s.web ∧ (detachOrder i s).cut = s.cut ∧ (detachOrder i s).sort.lane = s.sort.lane
      ∧ (detachOrder i s).sort.rejectCount = s.sort.rejectCount ∧ (detachOrder i s).sort.rejectFull = s.sort.rejectFull
      ∧ (detachOrder i s).sort.misroutes = s.sort.misroutes ∧ (detachOrder i s).sort.clock = s.sort.clock
      ∧ (detachOrder i s).sort.keys = s.sort.keys
      ∧ (detachOrder i s).sort.blink1 = s.sort.blink1 ∧ (detachOrder i s).sort.blink4 = s.sort.blink4
      ∧ (detachOrder i s).eng = s.eng
      ∧ (detachOrder i s).out = s.out ∧ (detachOrder i s).pending = s.pending := by
  unfold detachOrder
  (repeat' split) <;> simp

@[simp] theorem faultFrame_frame (i ei : Nat) (num : Word) (s : State) :
    (faultFrame i ei num s).link.area = s.link.area ∧ (faultFrame i ei num s).link.areaSet = s.link.areaSet
      ∧ (faultFrame i ei num s).link.unreported = s.link.unreported
      ∧ (faultFrame i ei num s).link.idleTimer = s.link.idleTimer
      ∧ (faultFrame i ei num s).link.readData = s.link.readData ∧ (faultFrame i ei num s).intake = s.intake
      ∧ (faultFrame i ei num s).setup = s.setup
      ∧ (faultFrame i ei num s).paper.active = s.paper.active ∧ (faultFrame i ei num s).paper.target = s.paper.target
      ∧ (faultFrame i ei num s).paper.timer = s.paper.timer ∧ (faultFrame i ei num s).plan.switchFlag = s.plan.switchFlag
      ∧ (faultFrame i ei num s).plan.framesExposed = s.plan.framesExposed
      ∧ (faultFrame i ei num s).plan.budgetRemakes = s.plan.budgetRemakes
      ∧ (faultFrame i ei num s).plan.jamRemakes = s.plan.jamRemakes ∧ (faultFrame i ei num s).fetch = s.fetch
      ∧ (faultFrame i ei num s).pulse = s.pulse ∧ (faultFrame i ei num s).line = s.line
      ∧ (faultFrame i ei num s).supply = s.supply
      ∧ (faultFrame i ei num s).web = s.web ∧ (faultFrame i ei num s).cut = s.cut
      ∧ (faultFrame i ei num s).sort.lane = s.sort.lane
      ∧ (faultFrame i ei num s).sort.rejectCount = s.sort.rejectCount
      ∧ (faultFrame i ei num s).sort.rejectFull = s.sort.rejectFull
      ∧ (faultFrame i ei num s).sort.misroutes = s.sort.misroutes ∧ (faultFrame i ei num s).sort.clock = s.sort.clock
      ∧ (faultFrame i ei num s).sort.keys = s.sort.keys ∧ (faultFrame i ei num s).sort.blink1 = s.sort.blink1
      ∧ (faultFrame i ei num s).sort.blink4 = s.sort.blink4 ∧ (faultFrame i ei num s).eng = s.eng
      ∧ (faultFrame i ei num s).out = s.out
      ∧ (faultFrame i ei num s).pending = s.pending := by
  simp only [faultFrame]
  (repeat' split) <;> simp

@[simp] theorem holdOrder_frame (i : Nat) (o : Order) (s : State) :
    (holdOrder i o s).link.area = s.link.area ∧ (holdOrder i o s).link.areaSet = s.link.areaSet
      ∧ (holdOrder i o s).link.causes = s.link.causes
      ∧ (holdOrder i o s).link.unreported = s.link.unreported ∧ (holdOrder i o s).link.idleTimer = s.link.idleTimer
      ∧ (holdOrder i o s).link.readData = s.link.readData ∧ (holdOrder i o s).intake = s.intake
      ∧ (holdOrder i o s).setup = s.setup
      ∧ (holdOrder i o s).paper = s.paper ∧ (holdOrder i o s).plan.queue = s.plan.queue
      ∧ (holdOrder i o s).plan.switchFlag = s.plan.switchFlag
      ∧ (holdOrder i o s).plan.framesExposed = s.plan.framesExposed
      ∧ (holdOrder i o s).plan.budgetRemakes = s.plan.budgetRemakes
      ∧ (holdOrder i o s).plan.jamRemakes = s.plan.jamRemakes ∧ (holdOrder i o s).fetch = s.fetch
      ∧ (holdOrder i o s).pulse = s.pulse
      ∧ (holdOrder i o s).line = s.line ∧ (holdOrder i o s).supply = s.supply ∧ (holdOrder i o s).web = s.web
      ∧ (holdOrder i o s).cut = s.cut
      ∧ (holdOrder i o s).sort = s.sort ∧ (holdOrder i o s).eng = s.eng ∧ (holdOrder i o s).out = s.out
      ∧ (holdOrder i o s).pending = s.pending := by
  simp [holdOrder]

@[simp] theorem evalReleased_frame (i : Nat) (o : Order) (s : State) :
    (evalReleased i o s).intake = s.intake ∧ (evalReleased i o s).setup = s.setup ∧ (evalReleased i o s).paper = s.paper
      ∧ (evalReleased i o s).fetch = s.fetch ∧ (evalReleased i o s).pulse = s.pulse ∧ (evalReleased i o s).line = s.line
      ∧ (evalReleased i o s).supply = s.supply ∧ (evalReleased i o s).web = s.web ∧ (evalReleased i o s).cut = s.cut
      ∧ (evalReleased i o s).sort = s.sort ∧ (evalReleased i o s).eng = s.eng ∧ (evalReleased i o s).out = s.out
      ∧ (evalReleased i o s).pending = s.pending ∧ (evalReleased i o s).link.area = s.link.area
      ∧ (evalReleased i o s).link.areaSet = s.link.areaSet ∧ (evalReleased i o s).link.unreported = s.link.unreported
      ∧ (evalReleased i o s).link.idleTimer = s.link.idleTimer ∧ (evalReleased i o s).link.readData = s.link.readData
      ∧ (evalReleased i o s).plan.queue = s.plan.queue ∧ (evalReleased i o s).plan.switchFlag = s.plan.switchFlag
      ∧ (evalReleased i o s).plan.framesExposed = s.plan.framesExposed
      ∧ (evalReleased i o s).plan.budgetRemakes = s.plan.budgetRemakes
      ∧ (evalReleased i o s).plan.jamRemakes = s.plan.jamRemakes := by
  simp only [evalReleased]; (repeat' split) <;> simp

@[simp] theorem releaseOrder_frame (i : Nat) (o : Order) (s : State) :
    (releaseOrder i o s).link.area = s.link.area ∧ (releaseOrder i o s).link.areaSet = s.link.areaSet
      ∧ (releaseOrder i o s).link.unreported = s.link.unreported ∧ (releaseOrder i o s).link.idleTimer = s.link.idleTimer
      ∧ (releaseOrder i o s).link.readData = s.link.readData ∧ (releaseOrder i o s).intake = s.intake
      ∧ (releaseOrder i o s).setup = s.setup
      ∧ (releaseOrder i o s).paper.active = s.paper.active ∧ (releaseOrder i o s).paper.target = s.paper.target
      ∧ (releaseOrder i o s).paper.timer = s.paper.timer ∧ (releaseOrder i o s).plan.switchFlag = s.plan.switchFlag
      ∧ (releaseOrder i o s).plan.framesExposed = s.plan.framesExposed
      ∧ (releaseOrder i o s).plan.budgetRemakes = s.plan.budgetRemakes
      ∧ (releaseOrder i o s).plan.jamRemakes = s.plan.jamRemakes ∧ (releaseOrder i o s).fetch = s.fetch
      ∧ (releaseOrder i o s).pulse = s.pulse
      ∧ (releaseOrder i o s).line = s.line ∧ (releaseOrder i o s).supply = s.supply ∧ (releaseOrder i o s).web = s.web
      ∧ (releaseOrder i o s).cut = s.cut ∧ (releaseOrder i o s).sort.lane = s.sort.lane
      ∧ (releaseOrder i o s).sort.rejectCount = s.sort.rejectCount
      ∧ (releaseOrder i o s).sort.rejectFull = s.sort.rejectFull ∧ (releaseOrder i o s).sort.misroutes = s.sort.misroutes
      ∧ (releaseOrder i o s).sort.clock = s.sort.clock ∧ (releaseOrder i o s).sort.keys = s.sort.keys
      ∧ (releaseOrder i o s).sort.blink1 = s.sort.blink1 ∧ (releaseOrder i o s).sort.blink4 = s.sort.blink4
      ∧ (releaseOrder i o s).eng = s.eng
      ∧ (releaseOrder i o s).out = s.out ∧ (releaseOrder i o s).pending = s.pending := by
  simp [releaseOrder]

@[simp] theorem divert_frame (order entry : Nat) (number : Word) (reject : Bool) (s : State) :
    (divert order entry number reject s).link.area = s.link.area
      ∧ (divert order entry number reject s).link.areaSet = s.link.areaSet
      ∧ (divert order entry number reject s).link.unreported = s.link.unreported
      ∧ (divert order entry number reject s).link.idleTimer = s.link.idleTimer
      ∧ (divert order entry number reject s).link.readData = s.link.readData
      ∧ (divert order entry number reject s).intake = s.intake ∧ (divert order entry number reject s).setup = s.setup
      ∧ (divert order entry number reject s).paper.active = s.paper.active
      ∧ (divert order entry number reject s).paper.target = s.paper.target
      ∧ (divert order entry number reject s).paper.timer = s.paper.timer
      ∧ (divert order entry number reject s).plan.switchFlag = s.plan.switchFlag
      ∧ (divert order entry number reject s).plan.framesExposed = s.plan.framesExposed
      ∧ (divert order entry number reject s).fetch = s.fetch
      ∧ (divert order entry number reject s).pulse = s.pulse ∧ (divert order entry number reject s).line = s.line
      ∧ (divert order entry number reject s).supply = s.supply ∧ (divert order entry number reject s).web = s.web
      ∧ (divert order entry number reject s).cut = s.cut ∧ (divert order entry number reject s).sort.lane = s.sort.lane
      ∧ (divert order entry number reject s).sort.rejectCount = s.sort.rejectCount
      ∧ (divert order entry number reject s).sort.rejectFull = s.sort.rejectFull
      ∧ (divert order entry number reject s).sort.misroutes = s.sort.misroutes
      ∧ (divert order entry number reject s).sort.clock = s.sort.clock
      ∧ (divert order entry number reject s).sort.keys = s.sort.keys
      ∧ (divert order entry number reject s).sort.blink1 = s.sort.blink1
      ∧ (divert order entry number reject s).sort.blink4 = s.sort.blink4 ∧ (divert order entry number reject s).eng = s.eng
      ∧ (divert order entry number reject s).out = s.out ∧ (divert order entry number reject s).pending = s.pending := by
  unfold divert
  (repeat' split) <;> simp

@[simp] theorem offerPrint_frame (order entry : Nat) (number : Word) (reject unverified : Bool) (s : State) :
    (offerPrint order entry number reject unverified s).link.area = s.link.area
      ∧ (offerPrint order entry number reject unverified s).link.areaSet = s.link.areaSet
      ∧ (offerPrint order entry number reject unverified s).link.unreported = s.link.unreported
      ∧ (offerPrint order entry number reject unverified s).link.idleTimer = s.link.idleTimer
      ∧ (offerPrint order entry number reject unverified s).link.readData = s.link.readData
      ∧ (offerPrint order entry number reject unverified s).intake = s.intake
      ∧ (offerPrint order entry number reject unverified s).setup = s.setup
      ∧ (offerPrint order entry number reject unverified s).paper.active = s.paper.active
      ∧ (offerPrint order entry number reject unverified s).paper.target = s.paper.target
      ∧ (offerPrint order entry number reject unverified s).paper.timer = s.paper.timer
      ∧ (offerPrint order entry number reject unverified s).plan.switchFlag = s.plan.switchFlag
      ∧ (offerPrint order entry number reject unverified s).plan.framesExposed = s.plan.framesExposed
      ∧ (offerPrint order entry number reject unverified s).fetch = s.fetch
      ∧ (offerPrint order entry number reject unverified s).pulse = s.pulse
      ∧ (offerPrint order entry number reject unverified s).line = s.line
      ∧ (offerPrint order entry number reject unverified s).supply = s.supply
      ∧ (offerPrint order entry number reject unverified s).web = s.web
      ∧ (offerPrint order entry number reject unverified s).cut = s.cut
      ∧ (offerPrint order entry number reject unverified s).sort.rejectCount = s.sort.rejectCount
      ∧ (offerPrint order entry number reject unverified s).sort.rejectFull = s.sort.rejectFull
      ∧ (offerPrint order entry number reject unverified s).sort.misroutes = s.sort.misroutes
      ∧ (offerPrint order entry number reject unverified s).sort.clock = s.sort.clock
      ∧ (offerPrint order entry number reject unverified s).sort.keys = s.sort.keys
      ∧ (offerPrint order entry number reject unverified s).sort.blink1 = s.sort.blink1
      ∧ (offerPrint order entry number reject unverified s).sort.blink4 = s.sort.blink4
      ∧ (offerPrint order entry number reject unverified s).eng = s.eng
      ∧ (offerPrint order entry number reject unverified s).out = s.out
      ∧ (offerPrint order entry number reject unverified s).pending = s.pending := by
  unfold offerPrint
  (repeat' split) <;> simp

@[simp] theorem popLane_frame (s : State) :
    (popLane s).link = s.link ∧ (popLane s).intake = s.intake ∧ (popLane s).setup = s.setup ∧ (popLane s).paper = s.paper
      ∧ (popLane s).plan = s.plan
      ∧ (popLane s).fetch = s.fetch ∧ (popLane s).pulse = s.pulse ∧ (popLane s).line = s.line ∧ (popLane s).supply = s.supply
      ∧ (popLane s).web = s.web ∧ (popLane s).cut = s.cut ∧ (popLane s).sort.bins = s.sort.bins
      ∧ (popLane s).sort.rejectCount = s.sort.rejectCount
      ∧ (popLane s).sort.rejectFull = s.sort.rejectFull ∧ (popLane s).sort.misroutes = s.sort.misroutes
      ∧ (popLane s).sort.clock = s.sort.clock
      ∧ (popLane s).sort.keys = s.sort.keys ∧ (popLane s).sort.blink1 = s.sort.blink1
      ∧ (popLane s).sort.blink4 = s.sort.blink4
      ∧ (popLane s).eng = s.eng ∧ (popLane s).out = s.out ∧ (popLane s).pending = s.pending := by
  simp [popLane]

@[simp] theorem deliver_frame (i : LaneItem) (s : State) :
    (deliver i s).link.area = s.link.area ∧ (deliver i s).link.areaSet = s.link.areaSet
      ∧ (deliver i s).link.unreported = s.link.unreported
      ∧ (deliver i s).link.idleTimer = s.link.idleTimer ∧ (deliver i s).link.readData = s.link.readData
      ∧ (deliver i s).intake = s.intake
      ∧ (deliver i s).setup = s.setup ∧ (deliver i s).paper.active = s.paper.active
      ∧ (deliver i s).paper.target = s.paper.target
      ∧ (deliver i s).paper.timer = s.paper.timer ∧ (deliver i s).plan.switchFlag = s.plan.switchFlag
      ∧ (deliver i s).plan.framesExposed = s.plan.framesExposed ∧ (deliver i s).fetch = s.fetch
      ∧ (deliver i s).pulse = s.pulse
      ∧ (deliver i s).line = s.line ∧ (deliver i s).supply = s.supply ∧ (deliver i s).web = s.web ∧ (deliver i s).cut = s.cut
      ∧ (deliver i s).sort.lane = s.sort.lane ∧ (deliver i s).sort.misroutes = s.sort.misroutes
      ∧ (deliver i s).sort.clock = s.sort.clock
      ∧ (deliver i s).sort.keys = s.sort.keys ∧ (deliver i s).sort.blink1 = s.sort.blink1
      ∧ (deliver i s).sort.blink4 = s.sort.blink4
      ∧ (deliver i s).eng = s.eng ∧ (deliver i s).out = s.out ∧ (deliver i s).pending = s.pending := by
  unfold deliver
  (repeat' split) <;> simp

@[simp] theorem misroute_frame (b : Nat) (i : LaneItem) (s : State) :
    (misroute b i s).link.area = s.link.area ∧ (misroute b i s).link.areaSet = s.link.areaSet
      ∧ (misroute b i s).link.unreported = s.link.unreported
      ∧ (misroute b i s).link.idleTimer = s.link.idleTimer ∧ (misroute b i s).link.readData = s.link.readData
      ∧ (misroute b i s).intake = s.intake
      ∧ (misroute b i s).setup = s.setup ∧ (misroute b i s).paper.active = s.paper.active
      ∧ (misroute b i s).paper.target = s.paper.target
      ∧ (misroute b i s).paper.timer = s.paper.timer ∧ (misroute b i s).plan.switchFlag = s.plan.switchFlag
      ∧ (misroute b i s).plan.framesExposed = s.plan.framesExposed ∧ (misroute b i s).fetch = s.fetch
      ∧ (misroute b i s).pulse = s.pulse
      ∧ (misroute b i s).line = s.line ∧ (misroute b i s).supply = s.supply ∧ (misroute b i s).web = s.web
      ∧ (misroute b i s).cut = s.cut
      ∧ (misroute b i s).sort.lane = s.sort.lane ∧ (misroute b i s).sort.clock = s.sort.clock
      ∧ (misroute b i s).sort.keys = s.sort.keys
      ∧ (misroute b i s).sort.blink1 = s.sort.blink1 ∧ (misroute b i s).sort.blink4 = s.sort.blink4
      ∧ (misroute b i s).eng = s.eng
      ∧ (misroute b i s).out = s.out ∧ (misroute b i s).pending = s.pending := by
  unfold misroute
  (repeat' split) <;> simp

@[simp] theorem loseOldest_frame (s : State) :
    (loseOldest s).link.area = s.link.area ∧ (loseOldest s).link.areaSet = s.link.areaSet
      ∧ (loseOldest s).link.unreported = s.link.unreported
      ∧ (loseOldest s).link.idleTimer = s.link.idleTimer ∧ (loseOldest s).link.readData = s.link.readData
      ∧ (loseOldest s).intake = s.intake
      ∧ (loseOldest s).setup = s.setup ∧ (loseOldest s).paper.active = s.paper.active
      ∧ (loseOldest s).paper.target = s.paper.target
      ∧ (loseOldest s).paper.timer = s.paper.timer ∧ (loseOldest s).plan.switchFlag = s.plan.switchFlag
      ∧ (loseOldest s).plan.framesExposed = s.plan.framesExposed ∧ (loseOldest s).fetch = s.fetch
      ∧ (loseOldest s).pulse = s.pulse
      ∧ (loseOldest s).line = s.line ∧ (loseOldest s).supply = s.supply ∧ (loseOldest s).web = s.web
      ∧ (loseOldest s).cut = s.cut
      ∧ (loseOldest s).sort.rejectCount = s.sort.rejectCount ∧ (loseOldest s).sort.rejectFull = s.sort.rejectFull
      ∧ (loseOldest s).sort.misroutes = s.sort.misroutes ∧ (loseOldest s).sort.clock = s.sort.clock
      ∧ (loseOldest s).sort.keys = s.sort.keys
      ∧ (loseOldest s).sort.blink1 = s.sort.blink1 ∧ (loseOldest s).sort.blink4 = s.sort.blink4 ∧ (loseOldest s).eng = s.eng
      ∧ (loseOldest s).out = s.out ∧ (loseOldest s).pending = s.pending := by
  unfold loseOldest
  (repeat' split) <;> simp

@[simp] theorem expireLane_frame (k : Nat) (s : State) :
    (expireLane k s).link.area = s.link.area ∧ (expireLane k s).link.areaSet = s.link.areaSet
      ∧ (expireLane k s).link.unreported = s.link.unreported
      ∧ (expireLane k s).link.idleTimer = s.link.idleTimer ∧ (expireLane k s).link.readData = s.link.readData
      ∧ (expireLane k s).intake = s.intake
      ∧ (expireLane k s).setup = s.setup ∧ (expireLane k s).paper.active = s.paper.active
      ∧ (expireLane k s).paper.target = s.paper.target
      ∧ (expireLane k s).paper.timer = s.paper.timer ∧ (expireLane k s).plan.switchFlag = s.plan.switchFlag
      ∧ (expireLane k s).plan.framesExposed = s.plan.framesExposed ∧ (expireLane k s).fetch = s.fetch
      ∧ (expireLane k s).pulse = s.pulse
      ∧ (expireLane k s).line = s.line ∧ (expireLane k s).supply = s.supply ∧ (expireLane k s).web = s.web
      ∧ (expireLane k s).cut = s.cut
      ∧ (expireLane k s).sort.rejectCount = s.sort.rejectCount ∧ (expireLane k s).sort.rejectFull = s.sort.rejectFull
      ∧ (expireLane k s).sort.misroutes = s.sort.misroutes ∧ (expireLane k s).sort.clock = s.sort.clock
      ∧ (expireLane k s).sort.keys = s.sort.keys
      ∧ (expireLane k s).sort.blink1 = s.sort.blink1 ∧ (expireLane k s).sort.blink4 = s.sort.blink4
      ∧ (expireLane k s).eng = s.eng
      ∧ (expireLane k s).out = s.out ∧ (expireLane k s).pending = s.pending := by
  induction k generalizing s with
  | zero => simp [expireLane]
  | succ n ih => by_cases h : deadlinePassed s <;> simp [expireLane, h, ih]

@[simp] theorem confirm_frame (b : Nat) (s : State) :
    (confirm b s).link.area = s.link.area ∧ (confirm b s).link.areaSet = s.link.areaSet
      ∧ (confirm b s).link.unreported = s.link.unreported
      ∧ (confirm b s).link.idleTimer = s.link.idleTimer ∧ (confirm b s).link.readData = s.link.readData
      ∧ (confirm b s).intake = s.intake
      ∧ (confirm b s).setup = s.setup ∧ (confirm b s).paper.active = s.paper.active
      ∧ (confirm b s).paper.target = s.paper.target
      ∧ (confirm b s).paper.timer = s.paper.timer ∧ (confirm b s).plan.switchFlag = s.plan.switchFlag
      ∧ (confirm b s).plan.framesExposed = s.plan.framesExposed ∧ (confirm b s).fetch = s.fetch
      ∧ (confirm b s).pulse = s.pulse
      ∧ (confirm b s).line = s.line ∧ (confirm b s).supply = s.supply ∧ (confirm b s).web = s.web ∧ (confirm b s).cut = s.cut
      ∧ (confirm b s).sort.clock = s.sort.clock ∧ (confirm b s).sort.keys = s.sort.keys
      ∧ (confirm b s).sort.blink1 = s.sort.blink1
      ∧ (confirm b s).sort.blink4 = s.sort.blink4 ∧ (confirm b s).eng = s.eng ∧ (confirm b s).out = s.out
      ∧ (confirm b s).pending = s.pending := by
  unfold confirm
  (repeat' split) <;> simp

@[simp] theorem reachDeadline_frame (s : State) :
    (reachDeadline s).link = s.link ∧ (reachDeadline s).intake = s.intake ∧ (reachDeadline s).setup = s.setup
      ∧ (reachDeadline s).paper = s.paper
      ∧ (reachDeadline s).plan = s.plan ∧ (reachDeadline s).fetch = s.fetch ∧ (reachDeadline s).pulse = s.pulse
      ∧ (reachDeadline s).line = s.line
      ∧ (reachDeadline s).supply = s.supply ∧ (reachDeadline s).web = s.web ∧ (reachDeadline s).cut = s.cut
      ∧ (reachDeadline s).sort.lane = s.sort.lane ∧ (reachDeadline s).sort.bins = s.sort.bins
      ∧ (reachDeadline s).sort.rejectCount = s.sort.rejectCount ∧ (reachDeadline s).sort.rejectFull = s.sort.rejectFull
      ∧ (reachDeadline s).sort.misroutes = s.sort.misroutes ∧ (reachDeadline s).sort.keys = s.sort.keys
      ∧ (reachDeadline s).sort.blink1 = s.sort.blink1 ∧ (reachDeadline s).sort.blink4 = s.sort.blink4
      ∧ (reachDeadline s).eng = s.eng
      ∧ (reachDeadline s).out = s.out ∧ (reachDeadline s).pending = s.pending := by
  unfold reachDeadline
  (repeat' split) <;> simp

@[simp] theorem appendEntry_frame (p : Piece) (start : Word) (len : Nat) (s : State) :
    (appendEntry p start len s).link = s.link ∧ (appendEntry p start len s).intake = s.intake
      ∧ (appendEntry p start len s).setup = s.setup
      ∧ (appendEntry p start len s).paper = s.paper ∧ (appendEntry p start len s).plan = s.plan
      ∧ (appendEntry p start len s).fetch = s.fetch
      ∧ (appendEntry p start len s).pulse = s.pulse ∧ (appendEntry p start len s).line = s.line
      ∧ (appendEntry p start len s).supply = s.supply
      ∧ (appendEntry p start len s).web.hold = s.web.hold ∧ (appendEntry p start len s).web.cutterPos = s.web.cutterPos
      ∧ (appendEntry p start len s).web.waste = s.web.waste ∧ (appendEntry p start len s).web.spoils = s.web.spoils
      ∧ (appendEntry p start len s).cut = s.cut ∧ (appendEntry p start len s).sort = s.sort
      ∧ (appendEntry p start len s).eng = s.eng
      ∧ (appendEntry p start len s).out = s.out ∧ (appendEntry p start len s).pending = s.pending := by
  simp [appendEntry]

@[simp] theorem growLast_frame (n : Nat) (s : State) :
    (growLast n s).link = s.link ∧ (growLast n s).intake = s.intake ∧ (growLast n s).setup = s.setup
      ∧ (growLast n s).paper = s.paper
      ∧ (growLast n s).plan = s.plan ∧ (growLast n s).fetch = s.fetch ∧ (growLast n s).pulse = s.pulse
      ∧ (growLast n s).line = s.line
      ∧ (growLast n s).supply = s.supply ∧ (growLast n s).web.nextNumber = s.web.nextNumber
      ∧ (growLast n s).web.hold = s.web.hold
      ∧ (growLast n s).web.cutterPos = s.web.cutterPos ∧ (growLast n s).web.waste = s.web.waste
      ∧ (growLast n s).web.spoils = s.web.spoils
      ∧ (growLast n s).cut = s.cut ∧ (growLast n s).sort = s.sort ∧ (growLast n s).eng = s.eng ∧ (growLast n s).out = s.out
      ∧ (growLast n s).pending = s.pending := by
  simp [growLast]

@[simp] theorem layGap_frame (n : Nat) (s : State) :
    (layGap n s).link = s.link ∧ (layGap n s).intake = s.intake ∧ (layGap n s).setup = s.setup ∧ (layGap n s).paper = s.paper
      ∧ (layGap n s).plan = s.plan ∧ (layGap n s).fetch = s.fetch ∧ (layGap n s).pulse = s.pulse ∧ (layGap n s).line = s.line
      ∧ (layGap n s).supply = s.supply ∧ (layGap n s).web.hold = s.web.hold ∧ (layGap n s).web.cutterPos = s.web.cutterPos
      ∧ (layGap n s).web.waste = s.web.waste ∧ (layGap n s).web.spoils = s.web.spoils ∧ (layGap n s).cut = s.cut
      ∧ (layGap n s).sort = s.sort
      ∧ (layGap n s).eng = s.eng ∧ (layGap n s).out = s.out ∧ (layGap n s).pending = s.pending := by
  unfold layGap
  (repeat' split) <;> simp

@[simp] theorem commitGap_frame (s : State) :
    (commitGap s).link = s.link ∧ (commitGap s).intake = s.intake ∧ (commitGap s).setup = s.setup
      ∧ (commitGap s).paper = s.paper
      ∧ (commitGap s).plan = s.plan ∧ (commitGap s).fetch = s.fetch ∧ (commitGap s).pulse = s.pulse
      ∧ (commitGap s).line = s.line
      ∧ (commitGap s).supply = s.supply ∧ (commitGap s).web.hold = s.web.hold ∧ (commitGap s).web.cutterPos = s.web.cutterPos
      ∧ (commitGap s).web.waste = s.web.waste ∧ (commitGap s).web.spoils = s.web.spoils ∧ (commitGap s).cut = s.cut
      ∧ (commitGap s).sort = s.sort
      ∧ (commitGap s).eng = s.eng ∧ (commitGap s).out = s.out ∧ (commitGap s).pending = s.pending := by
  simp [commitGap]

@[simp] theorem layStrobe_frame (p : Word) (s : State) :
    (layStrobe p s).link = s.link ∧ (layStrobe p s).intake = s.intake ∧ (layStrobe p s).setup = s.setup
      ∧ (layStrobe p s).paper = s.paper
      ∧ (layStrobe p s).plan = s.plan ∧ (layStrobe p s).fetch = s.fetch ∧ (layStrobe p s).pulse = s.pulse
      ∧ (layStrobe p s).line = s.line
      ∧ (layStrobe p s).supply = s.supply ∧ (layStrobe p s).web.hold = s.web.hold
      ∧ (layStrobe p s).web.cutterPos = s.web.cutterPos
      ∧ (layStrobe p s).web.waste = s.web.waste ∧ (layStrobe p s).web.spoils = s.web.spoils ∧ (layStrobe p s).cut = s.cut
      ∧ (layStrobe p s).sort = s.sort ∧ (layStrobe p s).eng = s.eng ∧ (layStrobe p s).out = s.out
      ∧ (layStrobe p s).pending = s.pending := by
  unfold layStrobe
  (repeat' split) <;> simp

@[simp] theorem trimGap_frame (z : Word) (s : State) :
    (trimGap z s).link = s.link ∧ (trimGap z s).intake = s.intake ∧ (trimGap z s).setup = s.setup
      ∧ (trimGap z s).paper = s.paper
      ∧ (trimGap z s).plan = s.plan ∧ (trimGap z s).fetch = s.fetch ∧ (trimGap z s).pulse = s.pulse
      ∧ (trimGap z s).line = s.line
      ∧ (trimGap z s).supply = s.supply ∧ (trimGap z s).web.nextNumber = s.web.nextNumber
      ∧ (trimGap z s).web.hold = s.web.hold
      ∧ (trimGap z s).web.cutterPos = s.web.cutterPos ∧ (trimGap z s).web.waste = s.web.waste
      ∧ (trimGap z s).web.spoils = s.web.spoils
      ∧ (trimGap z s).cut = s.cut ∧ (trimGap z s).sort = s.sort ∧ (trimGap z s).eng = s.eng ∧ (trimGap z s).out = s.out
      ∧ (trimGap z s).pending = s.pending := by
  unfold trimGap
  (repeat' split) <;> simp

@[simp] theorem appendSplice_frame (z : Word) (s : State) :
    (appendSplice z s).link = s.link ∧ (appendSplice z s).intake = s.intake ∧ (appendSplice z s).setup = s.setup
      ∧ (appendSplice z s).paper = s.paper ∧ (appendSplice z s).plan = s.plan ∧ (appendSplice z s).fetch = s.fetch
      ∧ (appendSplice z s).pulse = s.pulse ∧ (appendSplice z s).line = s.line ∧ (appendSplice z s).supply = s.supply
      ∧ (appendSplice z s).cut = s.cut ∧ (appendSplice z s).sort = s.sort ∧ (appendSplice z s).eng = s.eng
      ∧ (appendSplice z s).out = s.out ∧ (appendSplice z s).pending = s.pending ∧ (appendSplice z s).web.hold = s.web.hold
      ∧ (appendSplice z s).web.cutterPos = s.web.cutterPos ∧ (appendSplice z s).web.waste = s.web.waste
      ∧ (appendSplice z s).web.spoils = s.web.spoils := by
  simp only [appendSplice]; (repeat' split) <;> simp

@[simp] theorem onEntry_frame (n : Word) (f : MapEntry → MapEntry) (s : State) :
    (onEntry n f s).link = s.link ∧ (onEntry n f s).intake = s.intake ∧ (onEntry n f s).setup = s.setup
      ∧ (onEntry n f s).paper = s.paper
      ∧ (onEntry n f s).plan = s.plan ∧ (onEntry n f s).fetch = s.fetch ∧ (onEntry n f s).pulse = s.pulse
      ∧ (onEntry n f s).line = s.line
      ∧ (onEntry n f s).supply = s.supply ∧ (onEntry n f s).web.nextNumber = s.web.nextNumber
      ∧ (onEntry n f s).web.hold = s.web.hold
      ∧ (onEntry n f s).web.cutterPos = s.web.cutterPos ∧ (onEntry n f s).web.waste = s.web.waste
      ∧ (onEntry n f s).web.spoils = s.web.spoils
      ∧ (onEntry n f s).cut = s.cut ∧ (onEntry n f s).sort = s.sort ∧ (onEntry n f s).eng = s.eng
      ∧ (onEntry n f s).out = s.out
      ∧ (onEntry n f s).pending = s.pending := by
  simp [onEntry]

@[simp] theorem flagSag_frame (n : Word) (s : State) :
    (flagSag n s).link = s.link ∧ (flagSag n s).intake = s.intake ∧ (flagSag n s).setup = s.setup
      ∧ (flagSag n s).paper = s.paper
      ∧ (flagSag n s).plan = s.plan ∧ (flagSag n s).fetch = s.fetch ∧ (flagSag n s).pulse = s.pulse
      ∧ (flagSag n s).line = s.line
      ∧ (flagSag n s).supply = s.supply ∧ (flagSag n s).web.nextNumber = s.web.nextNumber
      ∧ (flagSag n s).web.hold = s.web.hold
      ∧ (flagSag n s).web.cutterPos = s.web.cutterPos ∧ (flagSag n s).web.waste = s.web.waste
      ∧ (flagSag n s).web.spoils = s.web.spoils
      ∧ (flagSag n s).cut = s.cut ∧ (flagSag n s).sort = s.sort ∧ (flagSag n s).eng = s.eng ∧ (flagSag n s).out = s.out
      ∧ (flagSag n s).pending = s.pending := by
  refine ⟨?_, ?_, ?_, ?_, ?_, ?_, ?_, ?_, ?_, ?_, ?_, ?_, ?_, ?_, ?_, ?_, ?_, ?_, ?_⟩ <;> (simp only [flagSag]; simp_all)

@[simp] theorem flagUnderrun_frame (n : Word) (s : State) :
    (flagUnderrun n s).link = s.link ∧ (flagUnderrun n s).intake = s.intake ∧ (flagUnderrun n s).setup = s.setup
      ∧ (flagUnderrun n s).paper = s.paper
      ∧ (flagUnderrun n s).plan = s.plan ∧ (flagUnderrun n s).fetch = s.fetch ∧ (flagUnderrun n s).pulse = s.pulse
      ∧ (flagUnderrun n s).line = s.line
      ∧ (flagUnderrun n s).supply = s.supply ∧ (flagUnderrun n s).web.nextNumber = s.web.nextNumber
      ∧ (flagUnderrun n s).web.hold = s.web.hold
      ∧ (flagUnderrun n s).web.cutterPos = s.web.cutterPos ∧ (flagUnderrun n s).web.waste = s.web.waste
      ∧ (flagUnderrun n s).web.spoils = s.web.spoils
      ∧ (flagUnderrun n s).cut = s.cut ∧ (flagUnderrun n s).sort = s.sort ∧ (flagUnderrun n s).eng = s.eng
      ∧ (flagUnderrun n s).out = s.out
      ∧ (flagUnderrun n s).pending = s.pending := by
  refine ⟨?_, ?_, ?_, ?_, ?_, ?_, ?_, ?_, ?_, ?_, ?_, ?_, ?_, ?_, ?_, ?_, ?_, ?_, ?_⟩ <;> (simp only [flagUnderrun]; simp_all)

@[simp] theorem flagTruncated_frame (n : Word) (s : State) :
    (flagTruncated n s).link = s.link ∧ (flagTruncated n s).intake = s.intake ∧ (flagTruncated n s).setup = s.setup
      ∧ (flagTruncated n s).paper = s.paper ∧ (flagTruncated n s).plan = s.plan ∧ (flagTruncated n s).fetch = s.fetch
      ∧ (flagTruncated n s).pulse = s.pulse ∧ (flagTruncated n s).line = s.line ∧ (flagTruncated n s).supply = s.supply
      ∧ (flagTruncated n s).web.nextNumber = s.web.nextNumber ∧ (flagTruncated n s).web.hold = s.web.hold
      ∧ (flagTruncated n s).web.cutterPos = s.web.cutterPos ∧ (flagTruncated n s).web.waste = s.web.waste
      ∧ (flagTruncated n s).web.spoils = s.web.spoils ∧ (flagTruncated n s).cut = s.cut ∧ (flagTruncated n s).sort = s.sort
      ∧ (flagTruncated n s).eng = s.eng ∧ (flagTruncated n s).out = s.out ∧ (flagTruncated n s).pending = s.pending := by
  refine ⟨?_, ?_, ?_, ?_, ?_, ?_, ?_, ?_, ?_, ?_, ?_, ?_, ?_, ?_, ?_, ?_, ?_, ?_, ?_⟩ <;> (unfold flagTruncated; simp)

@[simp] theorem flagUnverified_frame (n : Word) (s : State) :
    (flagUnverified n s).link = s.link ∧ (flagUnverified n s).intake = s.intake ∧ (flagUnverified n s).setup = s.setup
      ∧ (flagUnverified n s).paper = s.paper ∧ (flagUnverified n s).plan = s.plan ∧ (flagUnverified n s).fetch = s.fetch
      ∧ (flagUnverified n s).pulse = s.pulse ∧ (flagUnverified n s).line = s.line ∧ (flagUnverified n s).supply = s.supply
      ∧ (flagUnverified n s).web.nextNumber = s.web.nextNumber ∧ (flagUnverified n s).web.hold = s.web.hold
      ∧ (flagUnverified n s).web.cutterPos = s.web.cutterPos ∧ (flagUnverified n s).web.waste = s.web.waste
      ∧ (flagUnverified n s).web.spoils = s.web.spoils ∧ (flagUnverified n s).cut = s.cut ∧ (flagUnverified n s).sort = s.sort
      ∧ (flagUnverified n s).eng = s.eng ∧ (flagUnverified n s).out = s.out ∧ (flagUnverified n s).pending = s.pending := by
  simp [flagUnverified]

@[simp] theorem spoilEntry_frame (n : Word) (s : State) :
    (spoilEntry n s).link = s.link ∧ (spoilEntry n s).intake = s.intake ∧ (spoilEntry n s).setup = s.setup
      ∧ (spoilEntry n s).paper = s.paper
      ∧ (spoilEntry n s).plan = s.plan ∧ (spoilEntry n s).fetch = s.fetch ∧ (spoilEntry n s).pulse = s.pulse
      ∧ (spoilEntry n s).line = s.line
      ∧ (spoilEntry n s).supply = s.supply ∧ (spoilEntry n s).web.nextNumber = s.web.nextNumber
      ∧ (spoilEntry n s).web.hold = s.web.hold
      ∧ (spoilEntry n s).web.cutterPos = s.web.cutterPos ∧ (spoilEntry n s).web.waste = s.web.waste
      ∧ (spoilEntry n s).web.spoils = s.web.spoils
      ∧ (spoilEntry n s).cut = s.cut ∧ (spoilEntry n s).sort = s.sort ∧ (spoilEntry n s).eng = s.eng
      ∧ (spoilEntry n s).out = s.out
      ∧ (spoilEntry n s).pending = s.pending := by
  simp [spoilEntry]

@[simp] theorem addClips_frame (n : Word) (k : Nat) (s : State) :
    (addClips n k s).link = s.link ∧ (addClips n k s).intake = s.intake ∧ (addClips n k s).setup = s.setup
      ∧ (addClips n k s).paper = s.paper
      ∧ (addClips n k s).plan = s.plan ∧ (addClips n k s).fetch = s.fetch ∧ (addClips n k s).pulse = s.pulse
      ∧ (addClips n k s).line = s.line
      ∧ (addClips n k s).supply = s.supply ∧ (addClips n k s).web.nextNumber = s.web.nextNumber
      ∧ (addClips n k s).web.hold = s.web.hold
      ∧ (addClips n k s).web.cutterPos = s.web.cutterPos ∧ (addClips n k s).web.waste = s.web.waste
      ∧ (addClips n k s).web.spoils = s.web.spoils
      ∧ (addClips n k s).cut = s.cut ∧ (addClips n k s).sort = s.sort ∧ (addClips n k s).eng = s.eng
      ∧ (addClips n k s).out = s.out
      ∧ (addClips n k s).pending = s.pending := by
  simp [addClips]

@[simp] theorem exposureEnd_frame (n : Word) (s : State) :
    (exposureEnd n s).link.area = s.link.area ∧ (exposureEnd n s).link.areaSet = s.link.areaSet
      ∧ (exposureEnd n s).link.unreported = s.link.unreported ∧ (exposureEnd n s).link.idleTimer = s.link.idleTimer
      ∧ (exposureEnd n s).link.readData = s.link.readData ∧ (exposureEnd n s).intake = s.intake
      ∧ (exposureEnd n s).setup = s.setup
      ∧ (exposureEnd n s).paper.active = s.paper.active ∧ (exposureEnd n s).paper.target = s.paper.target
      ∧ (exposureEnd n s).paper.timer = s.paper.timer ∧ (exposureEnd n s).plan.switchFlag = s.plan.switchFlag
      ∧ (exposureEnd n s).plan.framesExposed = s.plan.framesExposed ∧ (exposureEnd n s).fetch = s.fetch
      ∧ (exposureEnd n s).pulse = s.pulse
      ∧ (exposureEnd n s).line = s.line ∧ (exposureEnd n s).supply = s.supply
      ∧ (exposureEnd n s).web.nextNumber = s.web.nextNumber
      ∧ (exposureEnd n s).web.hold = s.web.hold ∧ (exposureEnd n s).web.cutterPos = s.web.cutterPos
      ∧ (exposureEnd n s).web.waste = s.web.waste
      ∧ (exposureEnd n s).web.spoils = s.web.spoils ∧ (exposureEnd n s).cut = s.cut
      ∧ (exposureEnd n s).sort.lane = s.sort.lane
      ∧ (exposureEnd n s).sort.rejectCount = s.sort.rejectCount ∧ (exposureEnd n s).sort.rejectFull = s.sort.rejectFull
      ∧ (exposureEnd n s).sort.misroutes = s.sort.misroutes ∧ (exposureEnd n s).sort.clock = s.sort.clock
      ∧ (exposureEnd n s).sort.keys = s.sort.keys
      ∧ (exposureEnd n s).sort.blink1 = s.sort.blink1 ∧ (exposureEnd n s).sort.blink4 = s.sort.blink4
      ∧ (exposureEnd n s).eng = s.eng
      ∧ (exposureEnd n s).out = s.out ∧ (exposureEnd n s).pending = s.pending := by
  unfold exposureEnd
  (repeat' split) <;> simp

@[simp] theorem laySplice_frame (s : State) :
    (laySplice s).link = s.link ∧ (laySplice s).intake = s.intake ∧ (laySplice s).setup = s.setup
      ∧ (laySplice s).paper = s.paper
      ∧ (laySplice s).plan = s.plan ∧ (laySplice s).fetch = s.fetch ∧ (laySplice s).pulse = s.pulse
      ∧ (laySplice s).line = s.line
      ∧ (laySplice s).supply = s.supply ∧ (laySplice s).web.cutterPos = s.web.cutterPos
      ∧ (laySplice s).web.waste = s.web.waste
      ∧ (laySplice s).web.spoils = s.web.spoils ∧ (laySplice s).cut = s.cut ∧ (laySplice s).sort = s.sort
      ∧ (laySplice s).eng = s.eng
      ∧ (laySplice s).out = s.out ∧ (laySplice s).pending = s.pending := by
  simp only [laySplice]
  (repeat' split) <;> simp

@[simp] theorem clearHold_frame (s : State) :
    (clearHold s).link = s.link ∧ (clearHold s).intake = s.intake ∧ (clearHold s).setup = s.setup
      ∧ (clearHold s).paper = s.paper
      ∧ (clearHold s).plan = s.plan ∧ (clearHold s).fetch = s.fetch ∧ (clearHold s).pulse = s.pulse
      ∧ (clearHold s).line = s.line
      ∧ (clearHold s).supply = s.supply ∧ (clearHold s).web.map = s.web.map ∧ (clearHold s).web.nextNumber = s.web.nextNumber
      ∧ (clearHold s).web.cutterPos = s.web.cutterPos ∧ (clearHold s).web.waste = s.web.waste
      ∧ (clearHold s).web.spoils = s.web.spoils
      ∧ (clearHold s).cut = s.cut ∧ (clearHold s).sort = s.sort ∧ (clearHold s).eng = s.eng ∧ (clearHold s).out = s.out
      ∧ (clearHold s).pending = s.pending := by
  unfold clearHold
  (repeat' split) <;> simp

@[simp] theorem miscutEntry_frame (e : MapEntry) (s : State) :
    (miscutEntry e s).link.area = s.link.area ∧ (miscutEntry e s).link.areaSet = s.link.areaSet
      ∧ (miscutEntry e s).link.unreported = s.link.unreported ∧ (miscutEntry e s).link.idleTimer = s.link.idleTimer
      ∧ (miscutEntry e s).link.readData = s.link.readData ∧ (miscutEntry e s).intake = s.intake
      ∧ (miscutEntry e s).setup = s.setup
      ∧ (miscutEntry e s).paper.active = s.paper.active ∧ (miscutEntry e s).paper.target = s.paper.target
      ∧ (miscutEntry e s).paper.timer = s.paper.timer ∧ (miscutEntry e s).plan.switchFlag = s.plan.switchFlag
      ∧ (miscutEntry e s).plan.framesExposed = s.plan.framesExposed ∧ (miscutEntry e s).fetch = s.fetch
      ∧ (miscutEntry e s).pulse = s.pulse
      ∧ (miscutEntry e s).line = s.line ∧ (miscutEntry e s).supply = s.supply
      ∧ (miscutEntry e s).web.nextNumber = s.web.nextNumber
      ∧ (miscutEntry e s).web.hold = s.web.hold ∧ (miscutEntry e s).web.cutterPos = s.web.cutterPos
      ∧ (miscutEntry e s).web.waste = s.web.waste
      ∧ (miscutEntry e s).web.spoils = s.web.spoils ∧ (miscutEntry e s).cut = s.cut
      ∧ (miscutEntry e s).sort.lane = s.sort.lane
      ∧ (miscutEntry e s).sort.rejectCount = s.sort.rejectCount ∧ (miscutEntry e s).sort.rejectFull = s.sort.rejectFull
      ∧ (miscutEntry e s).sort.misroutes = s.sort.misroutes ∧ (miscutEntry e s).sort.clock = s.sort.clock
      ∧ (miscutEntry e s).sort.keys = s.sort.keys
      ∧ (miscutEntry e s).sort.blink1 = s.sort.blink1 ∧ (miscutEntry e s).sort.blink4 = s.sort.blink4
      ∧ (miscutEntry e s).eng = s.eng
      ∧ (miscutEntry e s).out = s.out ∧ (miscutEntry e s).pending = s.pending := by
  unfold miscutEntry
  (repeat' split) <;> simp

@[simp] theorem leaveMap_frame (s : State) :
    (leaveMap s).link.area = s.link.area ∧ (leaveMap s).link.areaSet = s.link.areaSet
      ∧ (leaveMap s).link.unreported = s.link.unreported
      ∧ (leaveMap s).link.idleTimer = s.link.idleTimer ∧ (leaveMap s).link.readData = s.link.readData
      ∧ (leaveMap s).intake = s.intake
      ∧ (leaveMap s).setup = s.setup ∧ (leaveMap s).paper.active = s.paper.active ∧ (leaveMap s).paper.target = s.paper.target
      ∧ (leaveMap s).paper.timer = s.paper.timer ∧ (leaveMap s).plan.switchFlag = s.plan.switchFlag
      ∧ (leaveMap s).plan.framesExposed = s.plan.framesExposed ∧ (leaveMap s).fetch = s.fetch ∧ (leaveMap s).pulse = s.pulse
      ∧ (leaveMap s).line = s.line ∧ (leaveMap s).supply = s.supply ∧ (leaveMap s).web.nextNumber = s.web.nextNumber
      ∧ (leaveMap s).web.hold = s.web.hold ∧ (leaveMap s).web.cutterPos = s.web.cutterPos
      ∧ (leaveMap s).web.spoils = s.web.spoils
      ∧ (leaveMap s).cut = s.cut ∧ (leaveMap s).sort.rejectCount = s.sort.rejectCount
      ∧ (leaveMap s).sort.rejectFull = s.sort.rejectFull
      ∧ (leaveMap s).sort.misroutes = s.sort.misroutes ∧ (leaveMap s).sort.clock = s.sort.clock
      ∧ (leaveMap s).sort.keys = s.sort.keys
      ∧ (leaveMap s).sort.blink1 = s.sort.blink1 ∧ (leaveMap s).sort.blink4 = s.sort.blink4 ∧ (leaveMap s).eng = s.eng
      ∧ (leaveMap s).out = s.out
      ∧ (leaveMap s).pending = s.pending := by
  unfold leaveMap
  (repeat' split) <;> simp

@[simp] theorem cutReport_frame (b : Word) (late : Bool) (s : State) :
    (cutReport b late s).link.area = s.link.area ∧ (cutReport b late s).link.areaSet = s.link.areaSet
      ∧ (cutReport b late s).link.unreported = s.link.unreported ∧ (cutReport b late s).link.idleTimer = s.link.idleTimer
      ∧ (cutReport b late s).link.readData = s.link.readData ∧ (cutReport b late s).intake = s.intake
      ∧ (cutReport b late s).setup = s.setup
      ∧ (cutReport b late s).paper.active = s.paper.active ∧ (cutReport b late s).paper.target = s.paper.target
      ∧ (cutReport b late s).paper.timer = s.paper.timer ∧ (cutReport b late s).plan.switchFlag = s.plan.switchFlag
      ∧ (cutReport b late s).plan.framesExposed = s.plan.framesExposed ∧ (cutReport b late s).fetch = s.fetch
      ∧ (cutReport b late s).pulse = s.pulse
      ∧ (cutReport b late s).line = s.line ∧ (cutReport b late s).supply = s.supply
      ∧ (cutReport b late s).web.nextNumber = s.web.nextNumber
      ∧ (cutReport b late s).web.hold = s.web.hold ∧ (cutReport b late s).web.cutterPos = s.web.cutterPos
      ∧ (cutReport b late s).web.spoils = s.web.spoils ∧ (cutReport b late s).cut = s.cut
      ∧ (cutReport b late s).sort.rejectCount = s.sort.rejectCount
      ∧ (cutReport b late s).sort.rejectFull = s.sort.rejectFull ∧ (cutReport b late s).sort.misroutes = s.sort.misroutes
      ∧ (cutReport b late s).sort.clock = s.sort.clock ∧ (cutReport b late s).sort.keys = s.sort.keys
      ∧ (cutReport b late s).sort.blink1 = s.sort.blink1 ∧ (cutReport b late s).sort.blink4 = s.sort.blink4
      ∧ (cutReport b late s).eng = s.eng
      ∧ (cutReport b late s).out = s.out ∧ (cutReport b late s).pending = s.pending := by
  unfold cutReport
  (repeat' split) <;> simp

@[simp] theorem spoilReport_frame (s : State) (e : MapEntry) :
    (spoilReport s e).link.area = s.link.area ∧ (spoilReport s e).link.areaSet = s.link.areaSet
      ∧ (spoilReport s e).link.unreported = s.link.unreported ∧ (spoilReport s e).link.idleTimer = s.link.idleTimer
      ∧ (spoilReport s e).link.readData = s.link.readData ∧ (spoilReport s e).intake = s.intake
      ∧ (spoilReport s e).setup = s.setup
      ∧ (spoilReport s e).paper.active = s.paper.active ∧ (spoilReport s e).paper.target = s.paper.target
      ∧ (spoilReport s e).paper.timer = s.paper.timer ∧ (spoilReport s e).plan.switchFlag = s.plan.switchFlag
      ∧ (spoilReport s e).plan.framesExposed = s.plan.framesExposed ∧ (spoilReport s e).fetch = s.fetch
      ∧ (spoilReport s e).pulse = s.pulse
      ∧ (spoilReport s e).line = s.line ∧ (spoilReport s e).supply = s.supply ∧ (spoilReport s e).web = s.web
      ∧ (spoilReport s e).cut = s.cut
      ∧ (spoilReport s e).sort.lane = s.sort.lane ∧ (spoilReport s e).sort.rejectCount = s.sort.rejectCount
      ∧ (spoilReport s e).sort.rejectFull = s.sort.rejectFull ∧ (spoilReport s e).sort.misroutes = s.sort.misroutes
      ∧ (spoilReport s e).sort.clock = s.sort.clock ∧ (spoilReport s e).sort.keys = s.sort.keys
      ∧ (spoilReport s e).sort.blink1 = s.sort.blink1
      ∧ (spoilReport s e).sort.blink4 = s.sort.blink4 ∧ (spoilReport s e).eng = s.eng ∧ (spoilReport s e).out = s.out
      ∧ (spoilReport s e).pending = s.pending := by
  unfold spoilReport
  (repeat' split) <;> simp

@[simp] theorem foldl_spoilReport_frame (l : List MapEntry) (s : State) :
    (l.foldl spoilReport s).link.area = s.link.area ∧ (l.foldl spoilReport s).link.areaSet = s.link.areaSet
      ∧ (l.foldl spoilReport s).link.unreported = s.link.unreported
      ∧ (l.foldl spoilReport s).link.idleTimer = s.link.idleTimer
      ∧ (l.foldl spoilReport s).link.readData = s.link.readData ∧ (l.foldl spoilReport s).intake = s.intake
      ∧ (l.foldl spoilReport s).setup = s.setup
      ∧ (l.foldl spoilReport s).paper.active = s.paper.active ∧ (l.foldl spoilReport s).paper.target = s.paper.target
      ∧ (l.foldl spoilReport s).paper.timer = s.paper.timer ∧ (l.foldl spoilReport s).plan.switchFlag = s.plan.switchFlag
      ∧ (l.foldl spoilReport s).plan.framesExposed = s.plan.framesExposed ∧ (l.foldl spoilReport s).fetch = s.fetch
      ∧ (l.foldl spoilReport s).pulse = s.pulse ∧ (l.foldl spoilReport s).line = s.line
      ∧ (l.foldl spoilReport s).supply = s.supply
      ∧ (l.foldl spoilReport s).web = s.web ∧ (l.foldl spoilReport s).cut = s.cut
      ∧ (l.foldl spoilReport s).sort.lane = s.sort.lane
      ∧ (l.foldl spoilReport s).sort.rejectCount = s.sort.rejectCount
      ∧ (l.foldl spoilReport s).sort.rejectFull = s.sort.rejectFull
      ∧ (l.foldl spoilReport s).sort.misroutes = s.sort.misroutes ∧ (l.foldl spoilReport s).sort.clock = s.sort.clock
      ∧ (l.foldl spoilReport s).sort.keys = s.sort.keys ∧ (l.foldl spoilReport s).sort.blink1 = s.sort.blink1
      ∧ (l.foldl spoilReport s).sort.blink4 = s.sort.blink4 ∧ (l.foldl spoilReport s).eng = s.eng
      ∧ (l.foldl spoilReport s).out = s.out
      ∧ (l.foldl spoilReport s).pending = s.pending := by
  refine ⟨?_, ?_, ?_, ?_, ?_, ?_, ?_, ?_, ?_, ?_, ?_, ?_, ?_, ?_, ?_, ?_, ?_, ?_, ?_, ?_, ?_, ?_, ?_, ?_, ?_, ?_, ?_, ?_, ?_⟩
  · exact foldl_keep (fun s : State => s.link.area) _ (fun s x => by simp) _ _
  · exact foldl_keep (fun s : State => s.link.areaSet) _ (fun s x => by simp) _ _
  · exact foldl_keep (fun s : State => s.link.unreported) _ (fun s x => by simp) _ _
  · exact foldl_keep (fun s : State => s.link.idleTimer) _ (fun s x => by simp) _ _
  · exact foldl_keep (fun s : State => s.link.readData) _ (fun s x => by simp) _ _
  · exact foldl_keep (fun s : State => s.intake) _ (fun s x => by simp) _ _
  · exact foldl_keep (fun s : State => s.setup) _ (fun s x => by simp) _ _
  · exact foldl_keep (fun s : State => s.paper.active) _ (fun s x => by simp) _ _
  · exact foldl_keep (fun s : State => s.paper.target) _ (fun s x => by simp) _ _
  · exact foldl_keep (fun s : State => s.paper.timer) _ (fun s x => by simp) _ _
  · exact foldl_keep (fun s : State => s.plan.switchFlag) _ (fun s x => by simp) _ _
  · exact foldl_keep (fun s : State => s.plan.framesExposed) _ (fun s x => by simp) _ _
  · exact foldl_keep (fun s : State => s.fetch) _ (fun s x => by simp) _ _
  · exact foldl_keep (fun s : State => s.pulse) _ (fun s x => by simp) _ _
  · exact foldl_keep (fun s : State => s.line) _ (fun s x => by simp) _ _
  · exact foldl_keep (fun s : State => s.supply) _ (fun s x => by simp) _ _
  · exact foldl_keep (fun s : State => s.web) _ (fun s x => by simp) _ _
  · exact foldl_keep (fun s : State => s.cut) _ (fun s x => by simp) _ _
  · exact foldl_keep (fun s : State => s.sort.lane) _ (fun s x => by simp) _ _
  · exact foldl_keep (fun s : State => s.sort.rejectCount) _ (fun s x => by simp) _ _
  · exact foldl_keep (fun s : State => s.sort.rejectFull) _ (fun s x => by simp) _ _
  · exact foldl_keep (fun s : State => s.sort.misroutes) _ (fun s x => by simp) _ _
  · exact foldl_keep (fun s : State => s.sort.clock) _ (fun s x => by simp) _ _
  · exact foldl_keep (fun s : State => s.sort.keys) _ (fun s x => by simp) _ _
  · exact foldl_keep (fun s : State => s.sort.blink1) _ (fun s x => by simp) _ _
  · exact foldl_keep (fun s : State => s.sort.blink4) _ (fun s x => by simp) _ _
  · exact foldl_keep (fun s : State => s.eng) _ (fun s x => by simp) _ _
  · exact foldl_keep (fun s : State => s.out) _ (fun s x => by simp) _ _
  · exact foldl_keep (fun s : State => s.pending) _ (fun s x => by simp) _ _

@[simp] theorem wasteBehind_frame (s : State) :
    (wasteBehind s).link = s.link ∧ (wasteBehind s).intake = s.intake ∧ (wasteBehind s).setup = s.setup
      ∧ (wasteBehind s).paper = s.paper
      ∧ (wasteBehind s).plan = s.plan ∧ (wasteBehind s).fetch = s.fetch ∧ (wasteBehind s).pulse = s.pulse
      ∧ (wasteBehind s).line = s.line
      ∧ (wasteBehind s).supply = s.supply ∧ (wasteBehind s).web.map = s.web.map
      ∧ (wasteBehind s).web.nextNumber = s.web.nextNumber
      ∧ (wasteBehind s).web.hold = s.web.hold ∧ (wasteBehind s).web.cutterPos = s.web.cutterPos
      ∧ (wasteBehind s).web.spoils = s.web.spoils
      ∧ (wasteBehind s).cut = s.cut ∧ (wasteBehind s).sort = s.sort ∧ (wasteBehind s).eng = s.eng
      ∧ (wasteBehind s).out = s.out
      ∧ (wasteBehind s).pending = s.pending := by
  unfold wasteBehind
  (repeat' split) <;> simp

@[simp] theorem emptyMap_frame (s : State) :
    (emptyMap s).intake = s.intake ∧ (emptyMap s).setup = s.setup ∧ (emptyMap s).paper = s.paper ∧ (emptyMap s).plan = s.plan
      ∧ (emptyMap s).fetch = s.fetch ∧ (emptyMap s).pulse = s.pulse ∧ (emptyMap s).line = s.line
      ∧ (emptyMap s).supply = s.supply ∧ (emptyMap s).cut = s.cut ∧ (emptyMap s).sort = s.sort ∧ (emptyMap s).eng = s.eng
      ∧ (emptyMap s).out = s.out ∧ (emptyMap s).pending = s.pending ∧ (emptyMap s).link.area = s.link.area
      ∧ (emptyMap s).link.areaSet = s.link.areaSet ∧ (emptyMap s).link.causes = s.link.causes
      ∧ (emptyMap s).link.unreported = s.link.unreported ∧ (emptyMap s).link.idleTimer = s.link.idleTimer
      ∧ (emptyMap s).link.waiting = s.link.waiting ∧ (emptyMap s).link.readData = s.link.readData
      ∧ (emptyMap s).web.nextNumber = s.web.nextNumber ∧ (emptyMap s).web.cutterPos = s.web.cutterPos
      ∧ (emptyMap s).web.waste = s.web.waste ∧ (emptyMap s).web.spoils = s.web.spoils := by
  simp [emptyMap]

@[simp] theorem spoilMap_frame (s : State) :
    (spoilMap s).link.area = s.link.area ∧ (spoilMap s).link.areaSet = s.link.areaSet
      ∧ (spoilMap s).link.unreported = s.link.unreported
      ∧ (spoilMap s).link.idleTimer = s.link.idleTimer ∧ (spoilMap s).link.readData = s.link.readData
      ∧ (spoilMap s).intake = s.intake
      ∧ (spoilMap s).setup = s.setup ∧ (spoilMap s).paper.active = s.paper.active ∧ (spoilMap s).paper.target = s.paper.target
      ∧ (spoilMap s).paper.timer = s.paper.timer ∧ (spoilMap s).plan.switchFlag = s.plan.switchFlag
      ∧ (spoilMap s).plan.framesExposed = s.plan.framesExposed ∧ (spoilMap s).fetch = s.fetch ∧ (spoilMap s).pulse = s.pulse
      ∧ (spoilMap s).line = s.line ∧ (spoilMap s).supply = s.supply ∧ (spoilMap s).web.nextNumber = s.web.nextNumber
      ∧ (spoilMap s).web.cutterPos = s.web.cutterPos ∧ (spoilMap s).cut = s.cut ∧ (spoilMap s).sort.lane = s.sort.lane
      ∧ (spoilMap s).sort.rejectCount = s.sort.rejectCount ∧ (spoilMap s).sort.rejectFull = s.sort.rejectFull
      ∧ (spoilMap s).sort.misroutes = s.sort.misroutes ∧ (spoilMap s).sort.clock = s.sort.clock
      ∧ (spoilMap s).sort.keys = s.sort.keys
      ∧ (spoilMap s).sort.blink1 = s.sort.blink1 ∧ (spoilMap s).sort.blink4 = s.sort.blink4 ∧ (spoilMap s).eng = s.eng
      ∧ (spoilMap s).out = s.out
      ∧ (spoilMap s).pending = s.pending := by
  simp [spoilMap]

@[simp] theorem formCutterPos_frame (s : State) :
    (formCutterPos s).link = s.link ∧ (formCutterPos s).intake = s.intake ∧ (formCutterPos s).setup = s.setup
      ∧ (formCutterPos s).paper = s.paper
      ∧ (formCutterPos s).plan = s.plan ∧ (formCutterPos s).fetch = s.fetch ∧ (formCutterPos s).pulse = s.pulse
      ∧ (formCutterPos s).line = s.line
      ∧ (formCutterPos s).supply = s.supply ∧ (formCutterPos s).web.map = s.web.map
      ∧ (formCutterPos s).web.nextNumber = s.web.nextNumber
      ∧ (formCutterPos s).web.hold = s.web.hold ∧ (formCutterPos s).web.waste = s.web.waste
      ∧ (formCutterPos s).web.spoils = s.web.spoils
      ∧ (formCutterPos s).cut = s.cut ∧ (formCutterPos s).sort = s.sort ∧ (formCutterPos s).eng = s.eng
      ∧ (formCutterPos s).out = s.out
      ∧ (formCutterPos s).pending = s.pending := by
  simp [formCutterPos]

@[simp] theorem reportCutterPos_frame (running : Bool) (s : State) :
    (reportCutterPos running s).link = s.link ∧ (reportCutterPos running s).intake = s.intake
      ∧ (reportCutterPos running s).setup = s.setup ∧ (reportCutterPos running s).paper = s.paper
      ∧ (reportCutterPos running s).plan = s.plan ∧ (reportCutterPos running s).fetch = s.fetch
      ∧ (reportCutterPos running s).pulse = s.pulse ∧ (reportCutterPos running s).line = s.line
      ∧ (reportCutterPos running s).supply = s.supply ∧ (reportCutterPos running s).cut = s.cut
      ∧ (reportCutterPos running s).sort = s.sort ∧ (reportCutterPos running s).eng = s.eng
      ∧ (reportCutterPos running s).out = s.out ∧ (reportCutterPos running s).pending = s.pending
      ∧ (reportCutterPos running s).web.map = s.web.map ∧ (reportCutterPos running s).web.nextNumber = s.web.nextNumber
      ∧ (reportCutterPos running s).web.hold = s.web.hold ∧ (reportCutterPos running s).web.waste = s.web.waste
      ∧ (reportCutterPos running s).web.spoils = s.web.spoils := by
  simp only [reportCutterPos]; (repeat' split) <;> simp

@[simp] theorem onItem_frame (n : Word) (f : FrameItem → FrameItem) (s : State) :
    (onItem n f s).link = s.link ∧ (onItem n f s).intake = s.intake ∧ (onItem n f s).setup = s.setup
      ∧ (onItem n f s).paper = s.paper
      ∧ (onItem n f s).plan = s.plan ∧ (onItem n f s).fetch.cursor = s.fetch.cursor
      ∧ (onItem n f s).fetch.buffer = s.fetch.buffer
      ∧ (onItem n f s).fetch.reads = s.fetch.reads ∧ (onItem n f s).fetch.refill = s.fetch.refill
      ∧ (onItem n f s).fetch.underruns = s.fetch.underruns
      ∧ (onItem n f s).pulse = s.pulse ∧ (onItem n f s).line = s.line ∧ (onItem n f s).supply = s.supply
      ∧ (onItem n f s).web = s.web
      ∧ (onItem n f s).cut = s.cut ∧ (onItem n f s).sort = s.sort ∧ (onItem n f s).eng = s.eng ∧ (onItem n f s).out = s.out
      ∧ (onItem n f s).pending = s.pending := by
  simp [onItem]

@[simp] theorem evalRefill_frame (s : State) :
    (evalRefill s).link = s.link ∧ (evalRefill s).intake = s.intake ∧ (evalRefill s).setup = s.setup
      ∧ (evalRefill s).paper = s.paper
      ∧ (evalRefill s).plan = s.plan ∧ (evalRefill s).fetch.items = s.fetch.items
      ∧ (evalRefill s).fetch.cursor = s.fetch.cursor
      ∧ (evalRefill s).fetch.buffer = s.fetch.buffer ∧ (evalRefill s).fetch.reads = s.fetch.reads
      ∧ (evalRefill s).fetch.underruns = s.fetch.underruns
      ∧ (evalRefill s).pulse = s.pulse ∧ (evalRefill s).line = s.line ∧ (evalRefill s).supply = s.supply
      ∧ (evalRefill s).web = s.web
      ∧ (evalRefill s).cut = s.cut ∧ (evalRefill s).sort = s.sort ∧ (evalRefill s).eng = s.eng ∧ (evalRefill s).out = s.out
      ∧ (evalRefill s).pending = s.pending := by
  unfold evalRefill
  (repeat' split) <;> simp

@[simp] theorem moveCursor_frame (n : Word) (i : Nat) (s : State) :
    (moveCursor n i s).link = s.link ∧ (moveCursor n i s).intake = s.intake ∧ (moveCursor n i s).setup = s.setup
      ∧ (moveCursor n i s).paper = s.paper
      ∧ (moveCursor n i s).plan = s.plan ∧ (moveCursor n i s).fetch.buffer = s.fetch.buffer
      ∧ (moveCursor n i s).fetch.reads = s.fetch.reads
      ∧ (moveCursor n i s).fetch.refill = s.fetch.refill ∧ (moveCursor n i s).fetch.underruns = s.fetch.underruns
      ∧ (moveCursor n i s).pulse = s.pulse
      ∧ (moveCursor n i s).line = s.line ∧ (moveCursor n i s).supply = s.supply ∧ (moveCursor n i s).web = s.web
      ∧ (moveCursor n i s).cut = s.cut
      ∧ (moveCursor n i s).sort = s.sort ∧ (moveCursor n i s).eng = s.eng ∧ (moveCursor n i s).out = s.out
      ∧ (moveCursor n i s).pending = s.pending := by
  unfold moveCursor
  (repeat' split) <;> simp

@[simp] theorem joinLine_frame (n : Word) (i : Nat) (s : State) :
    (joinLine n i s).link = s.link ∧ (joinLine n i s).intake = s.intake ∧ (joinLine n i s).setup = s.setup
      ∧ (joinLine n i s).paper = s.paper ∧ (joinLine n i s).plan = s.plan ∧ (joinLine n i s).fetch.reads = s.fetch.reads
      ∧ (joinLine n i s).fetch.refill = s.fetch.refill ∧ (joinLine n i s).fetch.underruns = s.fetch.underruns
      ∧ (joinLine n i s).pulse = s.pulse ∧ (joinLine n i s).line = s.line ∧ (joinLine n i s).supply = s.supply
      ∧ (joinLine n i s).web = s.web ∧ (joinLine n i s).cut = s.cut ∧ (joinLine n i s).sort = s.sort
      ∧ (joinLine n i s).eng = s.eng ∧ (joinLine n i s).out = s.out ∧ (joinLine n i s).pending = s.pending := by
  simp [joinLine]

@[simp] theorem joinLines_frame (k : Nat) (s : State) :
    (joinLines k s).link = s.link ∧ (joinLines k s).intake = s.intake ∧ (joinLines k s).setup = s.setup
      ∧ (joinLines k s).paper = s.paper ∧ (joinLines k s).plan = s.plan ∧ (joinLines k s).fetch.reads = s.fetch.reads
      ∧ (joinLines k s).fetch.underruns = s.fetch.underruns
      ∧ (joinLines k s).pulse = s.pulse ∧ (joinLines k s).line = s.line ∧ (joinLines k s).supply = s.supply
      ∧ (joinLines k s).web = s.web ∧ (joinLines k s).cut = s.cut ∧ (joinLines k s).sort = s.sort
      ∧ (joinLines k s).eng = s.eng ∧ (joinLines k s).out = s.out ∧ (joinLines k s).pending = s.pending := by
  induction k generalizing s with
  | zero => simp [joinLines]
  | succ k ih =>
    simp only [joinLines]
    split
    · simp
    · simp [ih]

@[simp] theorem evalFetch_frame (s : State) :
    (evalFetch s).link = s.link ∧ (evalFetch s).intake = s.intake ∧ (evalFetch s).setup = s.setup
      ∧ (evalFetch s).paper = s.paper ∧ (evalFetch s).plan = s.plan ∧ (evalFetch s).fetch.reads = s.fetch.reads
      ∧ (evalFetch s).fetch.underruns = s.fetch.underruns
      ∧ (evalFetch s).pulse = s.pulse ∧ (evalFetch s).line = s.line ∧ (evalFetch s).supply = s.supply
      ∧ (evalFetch s).web = s.web ∧ (evalFetch s).cut = s.cut ∧ (evalFetch s).sort = s.sort
      ∧ (evalFetch s).eng = s.eng ∧ (evalFetch s).out = s.out ∧ (evalFetch s).pending = s.pending := by
  simp [evalFetch]

@[simp] theorem handOver_frame (n : Word) (oi : Nat) (o : Order) (e : Entry) (s : State) :
    (handOver n oi o e s).link = s.link ∧ (handOver n oi o e s).intake = s.intake ∧ (handOver n oi o e s).setup = s.setup
      ∧ (handOver n oi o e s).paper = s.paper ∧ (handOver n oi o e s).plan = s.plan
      ∧ (handOver n oi o e s).fetch.reads = s.fetch.reads ∧ (handOver n oi o e s).fetch.underruns = s.fetch.underruns
      ∧ (handOver n oi o e s).pulse = s.pulse ∧ (handOver n oi o e s).line = s.line ∧ (handOver n oi o e s).supply = s.supply
      ∧ (handOver n oi o e s).web = s.web ∧ (handOver n oi o e s).cut = s.cut ∧ (handOver n oi o e s).sort = s.sort
      ∧ (handOver n oi o e s).eng = s.eng ∧ (handOver n oi o e s).out = s.out
      ∧ (handOver n oi o e s).pending = s.pending := by
  simp only [handOver]
  (repeat' split) <;> simp

@[simp] theorem dropItem_frame (n : Word) (s : State) :
    (dropItem n s).link = s.link ∧ (dropItem n s).intake = s.intake ∧ (dropItem n s).setup = s.setup
      ∧ (dropItem n s).paper = s.paper
      ∧ (dropItem n s).plan = s.plan
      ∧ (dropItem n s).fetch.reads = s.fetch.reads
      ∧ (dropItem n s).fetch.underruns = s.fetch.underruns ∧ (dropItem n s).pulse = s.pulse ∧ (dropItem n s).line = s.line
      ∧ (dropItem n s).supply = s.supply ∧ (dropItem n s).web = s.web ∧ (dropItem n s).cut = s.cut
      ∧ (dropItem n s).sort = s.sort
      ∧ (dropItem n s).eng = s.eng ∧ (dropItem n s).out = s.out ∧ (dropItem n s).pending = s.pending := by
  simp only [dropItem]
  (repeat' split) <;> simp

@[simp] theorem accessFault_frame (n : Word) (addr : Long) (s : State) :
    (accessFault n addr s).link.area = s.link.area ∧ (accessFault n addr s).link.areaSet = s.link.areaSet
      ∧ (accessFault n addr s).link.unreported = s.link.unreported ∧ (accessFault n addr s).link.idleTimer = s.link.idleTimer
      ∧ (accessFault n addr s).link.readData = s.link.readData ∧ (accessFault n addr s).intake = s.intake
      ∧ (accessFault n addr s).setup = s.setup
      ∧ (accessFault n addr s).paper.active = s.paper.active ∧ (accessFault n addr s).paper.target = s.paper.target
      ∧ (accessFault n addr s).paper.timer = s.paper.timer ∧ (accessFault n addr s).plan.switchFlag = s.plan.switchFlag
      ∧ (accessFault n addr s).plan.framesExposed = s.plan.framesExposed
      ∧ (accessFault n addr s).plan.budgetRemakes = s.plan.budgetRemakes
      ∧ (accessFault n addr s).plan.jamRemakes = s.plan.jamRemakes ∧ (accessFault n addr s).fetch.reads = s.fetch.reads
      ∧ (accessFault n addr s).fetch.underruns = s.fetch.underruns ∧ (accessFault n addr s).pulse = s.pulse
      ∧ (accessFault n addr s).line = s.line
      ∧ (accessFault n addr s).supply = s.supply ∧ (accessFault n addr s).web.nextNumber = s.web.nextNumber
      ∧ (accessFault n addr s).web.hold = s.web.hold ∧ (accessFault n addr s).web.cutterPos = s.web.cutterPos
      ∧ (accessFault n addr s).web.waste = s.web.waste ∧ (accessFault n addr s).web.spoils = s.web.spoils
      ∧ (accessFault n addr s).cut = s.cut
      ∧ (accessFault n addr s).sort.lane = s.sort.lane ∧ (accessFault n addr s).sort.rejectCount = s.sort.rejectCount
      ∧ (accessFault n addr s).sort.rejectFull = s.sort.rejectFull ∧ (accessFault n addr s).sort.misroutes = s.sort.misroutes
      ∧ (accessFault n addr s).sort.clock = s.sort.clock ∧ (accessFault n addr s).sort.keys = s.sort.keys
      ∧ (accessFault n addr s).sort.blink1 = s.sort.blink1 ∧ (accessFault n addr s).sort.blink4 = s.sort.blink4
      ∧ (accessFault n addr s).eng.state = s.eng.state ∧ (accessFault n addr s).eng.resetKind = s.eng.resetKind
      ∧ (accessFault n addr s).eng.hold = s.eng.hold ∧ (accessFault n addr s).out = s.out
      ∧ (accessFault n addr s).pending = s.pending := by
  simp only [accessFault]
  (repeat' split) <;> simp

@[simp] theorem issueLine_frame (n : Word) (i : Nat) (x : FrameItem) (s : State) :
    (issueLine n i x s).link.area = s.link.area ∧ (issueLine n i x s).link.areaSet = s.link.areaSet
      ∧ (issueLine n i x s).link.unreported = s.link.unreported ∧ (issueLine n i x s).link.idleTimer = s.link.idleTimer
      ∧ (issueLine n i x s).link.readData = s.link.readData ∧ (issueLine n i x s).intake = s.intake
      ∧ (issueLine n i x s).setup = s.setup
      ∧ (issueLine n i x s).paper.active = s.paper.active ∧ (issueLine n i x s).paper.target = s.paper.target
      ∧ (issueLine n i x s).paper.timer = s.paper.timer ∧ (issueLine n i x s).plan.switchFlag = s.plan.switchFlag
      ∧ (issueLine n i x s).plan.framesExposed = s.plan.framesExposed
      ∧ (issueLine n i x s).plan.budgetRemakes = s.plan.budgetRemakes
      ∧ (issueLine n i x s).plan.jamRemakes = s.plan.jamRemakes ∧ (issueLine n i x s).fetch.underruns = s.fetch.underruns
      ∧ (issueLine n i x s).pulse = s.pulse ∧ (issueLine n i x s).line = s.line ∧ (issueLine n i x s).supply = s.supply
      ∧ (issueLine n i x s).web.nextNumber = s.web.nextNumber ∧ (issueLine n i x s).web.hold = s.web.hold
      ∧ (issueLine n i x s).web.cutterPos = s.web.cutterPos ∧ (issueLine n i x s).web.waste = s.web.waste
      ∧ (issueLine n i x s).web.spoils = s.web.spoils ∧ (issueLine n i x s).cut = s.cut
      ∧ (issueLine n i x s).sort.lane = s.sort.lane
      ∧ (issueLine n i x s).sort.rejectCount = s.sort.rejectCount ∧ (issueLine n i x s).sort.rejectFull = s.sort.rejectFull
      ∧ (issueLine n i x s).sort.misroutes = s.sort.misroutes ∧ (issueLine n i x s).sort.clock = s.sort.clock
      ∧ (issueLine n i x s).sort.keys = s.sort.keys ∧ (issueLine n i x s).sort.blink1 = s.sort.blink1
      ∧ (issueLine n i x s).sort.blink4 = s.sort.blink4 ∧ (issueLine n i x s).eng.state = s.eng.state
      ∧ (issueLine n i x s).eng.resetKind = s.eng.resetKind ∧ (issueLine n i x s).eng.hold = s.eng.hold
      ∧ (issueLine n i x s).pending = s.pending := by
  unfold issueLine
  (repeat' split) <;> simp

@[simp] theorem issueRead_frame (s : State) :
    (issueRead s).link.area = s.link.area ∧ (issueRead s).link.areaSet = s.link.areaSet
      ∧ (issueRead s).link.unreported = s.link.unreported
      ∧ (issueRead s).link.idleTimer = s.link.idleTimer ∧ (issueRead s).link.readData = s.link.readData
      ∧ (issueRead s).intake = s.intake
      ∧ (issueRead s).setup = s.setup ∧ (issueRead s).paper.active = s.paper.active
      ∧ (issueRead s).paper.target = s.paper.target
      ∧ (issueRead s).paper.timer = s.paper.timer ∧ (issueRead s).plan.switchFlag = s.plan.switchFlag
      ∧ (issueRead s).plan.framesExposed = s.plan.framesExposed ∧ (issueRead s).plan.budgetRemakes = s.plan.budgetRemakes
      ∧ (issueRead s).plan.jamRemakes = s.plan.jamRemakes ∧ (issueRead s).fetch.underruns = s.fetch.underruns
      ∧ (issueRead s).pulse = s.pulse
      ∧ (issueRead s).line = s.line ∧ (issueRead s).supply = s.supply ∧ (issueRead s).web.nextNumber = s.web.nextNumber
      ∧ (issueRead s).web.hold = s.web.hold ∧ (issueRead s).web.cutterPos = s.web.cutterPos
      ∧ (issueRead s).web.waste = s.web.waste
      ∧ (issueRead s).web.spoils = s.web.spoils ∧ (issueRead s).cut = s.cut ∧ (issueRead s).sort.lane = s.sort.lane
      ∧ (issueRead s).sort.rejectCount = s.sort.rejectCount ∧ (issueRead s).sort.rejectFull = s.sort.rejectFull
      ∧ (issueRead s).sort.misroutes = s.sort.misroutes ∧ (issueRead s).sort.clock = s.sort.clock
      ∧ (issueRead s).sort.keys = s.sort.keys
      ∧ (issueRead s).sort.blink1 = s.sort.blink1 ∧ (issueRead s).sort.blink4 = s.sort.blink4
      ∧ (issueRead s).eng.state = s.eng.state
      ∧ (issueRead s).eng.resetKind = s.eng.resetKind ∧ (issueRead s).eng.hold = s.eng.hold
      ∧ (issueRead s).pending = s.pending := by
  unfold issueRead
  (repeat' split) <;> simp

@[simp] theorem leaveRead_frame (r : LineRead) (how : ReadEnd) (s : State) :
    (leaveRead r how s).link.area = s.link.area ∧ (leaveRead r how s).link.areaSet = s.link.areaSet
      ∧ (leaveRead r how s).link.unreported = s.link.unreported ∧ (leaveRead r how s).link.idleTimer = s.link.idleTimer
      ∧ (leaveRead r how s).link.readData = s.link.readData ∧ (leaveRead r how s).intake = s.intake
      ∧ (leaveRead r how s).setup = s.setup
      ∧ (leaveRead r how s).paper.active = s.paper.active ∧ (leaveRead r how s).paper.target = s.paper.target
      ∧ (leaveRead r how s).paper.timer = s.paper.timer ∧ (leaveRead r how s).plan.switchFlag = s.plan.switchFlag
      ∧ (leaveRead r how s).plan.framesExposed = s.plan.framesExposed
      ∧ (leaveRead r how s).plan.budgetRemakes = s.plan.budgetRemakes
      ∧ (leaveRead r how s).plan.jamRemakes = s.plan.jamRemakes ∧ (leaveRead r how s).fetch.reads = s.fetch.reads
      ∧ (leaveRead r how s).fetch.underruns = s.fetch.underruns ∧ (leaveRead r how s).pulse = s.pulse
      ∧ (leaveRead r how s).line = s.line
      ∧ (leaveRead r how s).supply = s.supply ∧ (leaveRead r how s).web.nextNumber = s.web.nextNumber
      ∧ (leaveRead r how s).web.hold = s.web.hold
      ∧ (leaveRead r how s).web.cutterPos = s.web.cutterPos ∧ (leaveRead r how s).web.waste = s.web.waste
      ∧ (leaveRead r how s).web.spoils = s.web.spoils ∧ (leaveRead r how s).cut = s.cut
      ∧ (leaveRead r how s).sort.lane = s.sort.lane
      ∧ (leaveRead r how s).sort.rejectCount = s.sort.rejectCount ∧ (leaveRead r how s).sort.rejectFull = s.sort.rejectFull
      ∧ (leaveRead r how s).sort.misroutes = s.sort.misroutes ∧ (leaveRead r how s).sort.clock = s.sort.clock
      ∧ (leaveRead r how s).sort.keys = s.sort.keys ∧ (leaveRead r how s).sort.blink1 = s.sort.blink1
      ∧ (leaveRead r how s).sort.blink4 = s.sort.blink4 ∧ (leaveRead r how s).eng.state = s.eng.state
      ∧ (leaveRead r how s).eng.resetKind = s.eng.resetKind ∧ (leaveRead r how s).eng.hold = s.eng.hold
      ∧ (leaveRead r how s).out = s.out
      ∧ (leaveRead r how s).pending = s.pending := by
  unfold leaveRead
  (repeat' split) <;> simp

@[simp] theorem drainReads_frame (k : Nat) (s : State) :
    (drainReads k s).link.area = s.link.area ∧ (drainReads k s).link.areaSet = s.link.areaSet
      ∧ (drainReads k s).link.unreported = s.link.unreported
      ∧ (drainReads k s).link.idleTimer = s.link.idleTimer ∧ (drainReads k s).link.readData = s.link.readData
      ∧ (drainReads k s).intake = s.intake
      ∧ (drainReads k s).setup = s.setup ∧ (drainReads k s).paper.active = s.paper.active
      ∧ (drainReads k s).paper.target = s.paper.target
      ∧ (drainReads k s).paper.timer = s.paper.timer ∧ (drainReads k s).plan.switchFlag = s.plan.switchFlag
      ∧ (drainReads k s).plan.framesExposed = s.plan.framesExposed
      ∧ (drainReads k s).plan.budgetRemakes = s.plan.budgetRemakes
      ∧ (drainReads k s).plan.jamRemakes = s.plan.jamRemakes ∧ (drainReads k s).fetch.underruns = s.fetch.underruns
      ∧ (drainReads k s).pulse = s.pulse
      ∧ (drainReads k s).line = s.line ∧ (drainReads k s).supply = s.supply
      ∧ (drainReads k s).web.nextNumber = s.web.nextNumber
      ∧ (drainReads k s).web.hold = s.web.hold ∧ (drainReads k s).web.cutterPos = s.web.cutterPos
      ∧ (drainReads k s).web.waste = s.web.waste
      ∧ (drainReads k s).web.spoils = s.web.spoils ∧ (drainReads k s).cut = s.cut ∧ (drainReads k s).sort.lane = s.sort.lane
      ∧ (drainReads k s).sort.rejectCount = s.sort.rejectCount ∧ (drainReads k s).sort.rejectFull = s.sort.rejectFull
      ∧ (drainReads k s).sort.misroutes = s.sort.misroutes ∧ (drainReads k s).sort.clock = s.sort.clock
      ∧ (drainReads k s).sort.keys = s.sort.keys
      ∧ (drainReads k s).sort.blink1 = s.sort.blink1 ∧ (drainReads k s).sort.blink4 = s.sort.blink4
      ∧ (drainReads k s).eng.state = s.eng.state
      ∧ (drainReads k s).eng.resetKind = s.eng.resetKind ∧ (drainReads k s).eng.hold = s.eng.hold
      ∧ (drainReads k s).out = s.out
      ∧ (drainReads k s).pending = s.pending := by
  induction k generalizing s with
  | zero => simp [drainReads]
  | succ n ih =>
    cases h : s.fetch.reads with
    | nil => simp [drainReads, h]
    | cons r rest => cases h2 : r.ended <;> simp [drainReads, h, h2, ih]

@[simp] theorem arrive_frame (place : Nat) (how : ReadEnd) (s : State) :
    (arrive place how s).link.area = s.link.area ∧ (arrive place how s).link.areaSet = s.link.areaSet
      ∧ (arrive place how s).link.unreported = s.link.unreported ∧ (arrive place how s).link.idleTimer = s.link.idleTimer
      ∧ (arrive place how s).link.readData = s.link.readData ∧ (arrive place how s).intake = s.intake
      ∧ (arrive place how s).setup = s.setup
      ∧ (arrive place how s).paper.active = s.paper.active ∧ (arrive place how s).paper.target = s.paper.target
      ∧ (arrive place how s).paper.timer = s.paper.timer ∧ (arrive place how s).plan.switchFlag = s.plan.switchFlag
      ∧ (arrive place how s).plan.framesExposed = s.plan.framesExposed
      ∧ (arrive place how s).plan.budgetRemakes = s.plan.budgetRemakes
      ∧ (arrive place how s).plan.jamRemakes = s.plan.jamRemakes ∧ (arrive place how s).fetch.underruns = s.fetch.underruns
      ∧ (arrive place how s).pulse = s.pulse ∧ (arrive place how s).line = s.line ∧ (arrive place how s).supply = s.supply
      ∧ (arrive place how s).web.nextNumber = s.web.nextNumber ∧ (arrive place how s).web.hold = s.web.hold
      ∧ (arrive place how s).web.cutterPos = s.web.cutterPos ∧ (arrive place how s).web.waste = s.web.waste
      ∧ (arrive place how s).web.spoils = s.web.spoils ∧ (arrive place how s).cut = s.cut
      ∧ (arrive place how s).sort.lane = s.sort.lane
      ∧ (arrive place how s).sort.rejectCount = s.sort.rejectCount ∧ (arrive place how s).sort.rejectFull = s.sort.rejectFull
      ∧ (arrive place how s).sort.misroutes = s.sort.misroutes ∧ (arrive place how s).sort.clock = s.sort.clock
      ∧ (arrive place how s).sort.keys = s.sort.keys ∧ (arrive place how s).sort.blink1 = s.sort.blink1
      ∧ (arrive place how s).sort.blink4 = s.sort.blink4 ∧ (arrive place how s).eng.state = s.eng.state
      ∧ (arrive place how s).eng.resetKind = s.eng.resetKind ∧ (arrive place how s).eng.hold = s.eng.hold
      ∧ (arrive place how s).out = s.out
      ∧ (arrive place how s).pending = s.pending := by
  simp [arrive]

@[simp] theorem passLine_frame (n : Word) (i : Nat) (s : State) :
    (passLine n i s).link = s.link ∧ (passLine n i s).intake = s.intake ∧ (passLine n i s).setup = s.setup
      ∧ (passLine n i s).paper = s.paper
      ∧ (passLine n i s).plan = s.plan ∧ (passLine n i s).fetch.buffer = s.fetch.buffer
      ∧ (passLine n i s).fetch.reads = s.fetch.reads
      ∧ (passLine n i s).fetch.refill = s.fetch.refill ∧ (passLine n i s).fetch.underruns = s.fetch.underruns
      ∧ (passLine n i s).pulse = s.pulse
      ∧ (passLine n i s).line = s.line ∧ (passLine n i s).supply = s.supply ∧ (passLine n i s).web = s.web
      ∧ (passLine n i s).cut = s.cut
      ∧ (passLine n i s).sort = s.sort ∧ (passLine n i s).eng = s.eng ∧ (passLine n i s).out = s.out
      ∧ (passLine n i s).pending = s.pending := by
  simp only [passLine]
  (repeat' split) <;> simp

@[simp] theorem serve_frame (n : Word) (i : Nat) (s : State) :
    (serve n i s).2.link = s.link ∧ (serve n i s).2.intake = s.intake ∧ (serve n i s).2.setup = s.setup
      ∧ (serve n i s).2.paper = s.paper
      ∧ (serve n i s).2.plan = s.plan ∧ (serve n i s).2.fetch.reads = s.fetch.reads ∧ (serve n i s).2.pulse = s.pulse
      ∧ (serve n i s).2.line = s.line
      ∧ (serve n i s).2.supply = s.supply ∧ (serve n i s).2.web = s.web ∧ (serve n i s).2.cut = s.cut
      ∧ (serve n i s).2.sort = s.sort
      ∧ (serve n i s).2.eng = s.eng ∧ (serve n i s).2.out = s.out ∧ (serve n i s).2.pending = s.pending := by
  simp only [serve]
  (repeat' split) <;> simp

@[simp] theorem emptyFetch_frame (s : State) :
    (emptyFetch s).link = s.link ∧ (emptyFetch s).intake = s.intake ∧ (emptyFetch s).setup = s.setup
      ∧ (emptyFetch s).paper = s.paper
      ∧ (emptyFetch s).plan = s.plan ∧ (emptyFetch s).fetch.reads = s.fetch.reads
      ∧ (emptyFetch s).fetch.refill = s.fetch.refill
      ∧ (emptyFetch s).fetch.underruns = s.fetch.underruns ∧ (emptyFetch s).pulse = s.pulse ∧ (emptyFetch s).line = s.line
      ∧ (emptyFetch s).supply = s.supply ∧ (emptyFetch s).web = s.web ∧ (emptyFetch s).cut = s.cut
      ∧ (emptyFetch s).sort = s.sort
      ∧ (emptyFetch s).eng = s.eng ∧ (emptyFetch s).out = s.out ∧ (emptyFetch s).pending = s.pending := by
  simp [emptyFetch]

@[simp] theorem pauseFetch_frame (s : State) :
    (pauseFetch s).link = s.link ∧ (pauseFetch s).intake = s.intake ∧ (pauseFetch s).setup = s.setup
      ∧ (pauseFetch s).paper = s.paper
      ∧ (pauseFetch s).plan = s.plan ∧ (pauseFetch s).fetch.underruns = s.fetch.underruns ∧ (pauseFetch s).pulse = s.pulse
      ∧ (pauseFetch s).line = s.line ∧ (pauseFetch s).supply = s.supply ∧ (pauseFetch s).web = s.web
      ∧ (pauseFetch s).cut = s.cut
      ∧ (pauseFetch s).sort = s.sort ∧ (pauseFetch s).eng = s.eng ∧ (pauseFetch s).out = s.out
      ∧ (pauseFetch s).pending = s.pending := by
  simp [pauseFetch]

@[simp] theorem exposeLine_frame (n : Word) (toneSet i : Nat) (a : LineAnswer) (s : State) :
    (exposeLine n toneSet i a s).2.link = s.link ∧ (exposeLine n toneSet i a s).2.intake = s.intake
      ∧ (exposeLine n toneSet i a s).2.paper = s.paper
      ∧ (exposeLine n toneSet i a s).2.plan = s.plan ∧ (exposeLine n toneSet i a s).2.fetch = s.fetch
      ∧ (exposeLine n toneSet i a s).2.supply = s.supply ∧ (exposeLine n toneSet i a s).2.web.nextNumber = s.web.nextNumber
      ∧ (exposeLine n toneSet i a s).2.web.hold = s.web.hold ∧ (exposeLine n toneSet i a s).2.web.cutterPos = s.web.cutterPos
      ∧ (exposeLine n toneSet i a s).2.web.waste = s.web.waste ∧ (exposeLine n toneSet i a s).2.web.spoils = s.web.spoils
      ∧ (exposeLine n toneSet i a s).2.cut = s.cut ∧ (exposeLine n toneSet i a s).2.sort = s.sort
      ∧ (exposeLine n toneSet i a s).2.eng = s.eng
      ∧ (exposeLine n toneSet i a s).2.out = s.out ∧ (exposeLine n toneSet i a s).2.pending = s.pending := by
  unfold exposeLine
  (repeat' split) <;> simp

@[simp] theorem loadTimer_frame (s : State) :
    (loadTimer s).link = s.link ∧ (loadTimer s).intake.takeSeq = s.intake.takeSeq
      ∧ (loadTimer s).intake.lostPending = s.intake.lostPending
      ∧ (loadTimer s).intake.sweep = s.intake.sweep ∧ (loadTimer s).intake.cellRead = s.intake.cellRead
      ∧ (loadTimer s).intake.cellOwed = s.intake.cellOwed ∧ (loadTimer s).intake.detached = s.intake.detached
      ∧ (loadTimer s).setup = s.setup
      ∧ (loadTimer s).paper = s.paper ∧ (loadTimer s).plan = s.plan ∧ (loadTimer s).fetch = s.fetch
      ∧ (loadTimer s).pulse = s.pulse
      ∧ (loadTimer s).line = s.line ∧ (loadTimer s).supply = s.supply ∧ (loadTimer s).web = s.web ∧ (loadTimer s).cut = s.cut
      ∧ (loadTimer s).sort = s.sort ∧ (loadTimer s).eng = s.eng ∧ (loadTimer s).out = s.out
      ∧ (loadTimer s).pending = s.pending := by
  simp [loadTimer]

@[simp] theorem pollTimer_frame (s : State) :
    (pollTimer s).link = s.link ∧ (pollTimer s).intake.takeSeq = s.intake.takeSeq
      ∧ (pollTimer s).intake.lostPending = s.intake.lostPending
      ∧ (pollTimer s).intake.sweep = s.intake.sweep ∧ (pollTimer s).intake.cellRead = s.intake.cellRead
      ∧ (pollTimer s).intake.cellOwed = s.intake.cellOwed ∧ (pollTimer s).intake.detached = s.intake.detached
      ∧ (pollTimer s).setup = s.setup
      ∧ (pollTimer s).paper = s.paper ∧ (pollTimer s).plan = s.plan ∧ (pollTimer s).fetch = s.fetch
      ∧ (pollTimer s).pulse = s.pulse
      ∧ (pollTimer s).line = s.line ∧ (pollTimer s).supply = s.supply ∧ (pollTimer s).web = s.web ∧ (pollTimer s).cut = s.cut
      ∧ (pollTimer s).sort = s.sort ∧ (pollTimer s).eng = s.eng ∧ (pollTimer s).out = s.out
      ∧ (pollTimer s).pending = s.pending := by
  unfold pollTimer
  (repeat' split) <;> simp

@[simp] theorem dropCandidates_frame (s : State) :
    (dropCandidates s).link = s.link ∧ (dropCandidates s).setup = s.setup ∧ (dropCandidates s).paper = s.paper
      ∧ (dropCandidates s).plan = s.plan ∧ (dropCandidates s).fetch = s.fetch ∧ (dropCandidates s).pulse = s.pulse
      ∧ (dropCandidates s).line = s.line ∧ (dropCandidates s).supply = s.supply ∧ (dropCandidates s).web = s.web
      ∧ (dropCandidates s).cut = s.cut ∧ (dropCandidates s).sort = s.sort ∧ (dropCandidates s).eng = s.eng
      ∧ (dropCandidates s).out = s.out ∧ (dropCandidates s).pending = s.pending
      ∧ (dropCandidates s).intake.timer = s.intake.timer ∧ (dropCandidates s).intake.takeSeq = s.intake.takeSeq
      ∧ (dropCandidates s).intake.lostPending = s.intake.lostPending ∧ (dropCandidates s).intake.cellRead = s.intake.cellRead
      ∧ (dropCandidates s).intake.cellOwed = s.intake.cellOwed ∧ (dropCandidates s).intake.detached = s.intake.detached := by
  simp [dropCandidates]

@[simp] theorem startSweep_frame (s : State) :
    (startSweep s).link = s.link ∧ (startSweep s).intake.timer = s.intake.timer
      ∧ (startSweep s).intake.takeSeq = s.intake.takeSeq
      ∧ (startSweep s).intake.lostPending = s.intake.lostPending ∧ (startSweep s).intake.cellRead = s.intake.cellRead
      ∧ (startSweep s).intake.cellOwed = s.intake.cellOwed ∧ (startSweep s).intake.detached = s.intake.detached
      ∧ (startSweep s).setup = s.setup
      ∧ (startSweep s).paper = s.paper ∧ (startSweep s).plan = s.plan ∧ (startSweep s).fetch = s.fetch
      ∧ (startSweep s).pulse = s.pulse
      ∧ (startSweep s).line = s.line ∧ (startSweep s).supply = s.supply ∧ (startSweep s).web = s.web
      ∧ (startSweep s).cut = s.cut
      ∧ (startSweep s).sort = s.sort ∧ (startSweep s).eng = s.eng ∧ (startSweep s).pending = s.pending := by
  refine ⟨?_, ?_, ?_, ?_, ?_, ?_, ?_, ?_, ?_, ?_, ?_, ?_, ?_, ?_, ?_, ?_, ?_, ?_, ?_⟩
  · unfold startSweep
    split
    · rfl
    · exact (foldl_keep (fun s : State => s.link) _ (fun s x => by simp) _ _).trans (by simp)
  · unfold startSweep
    split
    · rfl
    · exact (foldl_keep (fun s : State => s.intake.timer) _ (fun s x => by simp) _ _).trans (by simp)
  · unfold startSweep
    split
    · rfl
    · exact (foldl_keep (fun s : State => s.intake.takeSeq) _ (fun s x => by simp) _ _).trans (by simp)
  · unfold startSweep
    split
    · rfl
    · exact (foldl_keep (fun s : State => s.intake.lostPending) _ (fun s x => by simp) _ _).trans (by simp)
  · unfold startSweep
    split
    · rfl
    · exact (foldl_keep (fun s : State => s.intake.cellRead) _ (fun s x => by simp) _ _).trans (by simp)
  · unfold startSweep
    split
    · rfl
    · exact (foldl_keep (fun s : State => s.intake.cellOwed) _ (fun s x => by simp) _ _).trans (by simp)
  · unfold startSweep
    split
    · rfl
    · exact (foldl_keep (fun s : State => s.intake.detached) _ (fun s x => by simp) _ _).trans (by simp)
  · unfold startSweep
    split
    · rfl
    · exact (foldl_keep (fun s : State => s.setup) _ (fun s x => by simp) _ _).trans (by simp)
  · unfold startSweep
    split
    · rfl
    · exact (foldl_keep (fun s : State => s.paper) _ (fun s x => by simp) _ _).trans (by simp)
  · unfold startSweep
    split
    · rfl
    · exact (foldl_keep (fun s : State => s.plan) _ (fun s x => by simp) _ _).trans (by simp)
  · unfold startSweep
    split
    · rfl
    · exact (foldl_keep (fun s : State => s.fetch) _ (fun s x => by simp) _ _).trans (by simp)
  · unfold startSweep
    split
    · rfl
    · exact (foldl_keep (fun s : State => s.pulse) _ (fun s x => by simp) _ _).trans (by simp)
  · unfold startSweep
    split
    · rfl
    · exact (foldl_keep (fun s : State => s.line) _ (fun s x => by simp) _ _).trans (by simp)
  · unfold startSweep
    split
    · rfl
    · exact (foldl_keep (fun s : State => s.supply) _ (fun s x => by simp) _ _).trans (by simp)
  · unfold startSweep
    split
    · rfl
    · exact (foldl_keep (fun s : State => s.web) _ (fun s x => by simp) _ _).trans (by simp)
  · unfold startSweep
    split
    · rfl
    · exact (foldl_keep (fun s : State => s.cut) _ (fun s x => by simp) _ _).trans (by simp)
  · unfold startSweep
    split
    · rfl
    · exact (foldl_keep (fun s : State => s.sort) _ (fun s x => by simp) _ _).trans (by simp)
  · unfold startSweep
    split
    · rfl
    · exact (foldl_keep (fun s : State => s.eng) _ (fun s x => by simp) _ _).trans (by simp)
  · unfold startSweep
    split
    · rfl
    · exact (foldl_keep (fun s : State => s.pending) _ (fun s x => by simp) _ _).trans (by simp)

@[simp] theorem dropRun_frame (s : State) :
    (dropRun s).link.area = s.link.area ∧ (dropRun s).link.areaSet = s.link.areaSet
      ∧ (dropRun s).link.readData = s.link.readData
      ∧ (dropRun s).intake.lostPending = s.intake.lostPending ∧ (dropRun s).intake.cellRead = s.intake.cellRead
      ∧ (dropRun s).intake.cellOwed = s.intake.cellOwed ∧ (dropRun s).intake.detached = s.intake.detached
      ∧ (dropRun s).setup = s.setup
      ∧ (dropRun s).paper.active = s.paper.active ∧ (dropRun s).paper.target = s.paper.target
      ∧ (dropRun s).plan.switchFlag = s.plan.switchFlag
      ∧ (dropRun s).plan.framesExposed = s.plan.framesExposed ∧ (dropRun s).plan.budgetRemakes = s.plan.budgetRemakes
      ∧ (dropRun s).plan.jamRemakes = s.plan.jamRemakes ∧ (dropRun s).fetch = s.fetch ∧ (dropRun s).pulse = s.pulse
      ∧ (dropRun s).line.w = s.line.w
      ∧ (dropRun s).line.prescale = s.line.prescale ∧ (dropRun s).line.divisor = s.line.divisor
      ∧ (dropRun s).line.punch = s.line.punch
      ∧ (dropRun s).line.webReady = s.line.webReady ∧ (dropRun s).supply = s.supply ∧ (dropRun s).web = s.web
      ∧ (dropRun s).cut.knife = s.cut.knife
      ∧ (dropRun s).cut.leftHome = s.cut.leftHome ∧ (dropRun s).cut.solenoid = s.cut.solenoid
      ∧ (dropRun s).cut.offset = s.cut.offset
      ∧ (dropRun s).cut.cursor = s.cut.cursor ∧ (dropRun s).cut.misses = s.cut.misses
      ∧ (dropRun s).cut.markLost = s.cut.markLost
      ∧ (dropRun s).cut.home = s.cut.home ∧ (dropRun s).cut.jam = s.cut.jam ∧ (dropRun s).sort.lane = s.sort.lane
      ∧ (dropRun s).sort.bins = s.sort.bins ∧ (dropRun s).sort.rejectCount = s.sort.rejectCount
      ∧ (dropRun s).sort.rejectFull = s.sort.rejectFull
      ∧ (dropRun s).sort.misroutes = s.sort.misroutes ∧ (dropRun s).sort.keys = s.sort.keys
      ∧ (dropRun s).sort.blink1 = s.sort.blink1
      ∧ (dropRun s).sort.blink4 = s.sort.blink4 ∧ (dropRun s).eng = s.eng ∧ (dropRun s).pending = s.pending := by
  simp [dropRun]

@[simp] theorem endWatch_frame (s : State) :
    (endWatch s).link = s.link ∧ (endWatch s).intake = s.intake ∧ (endWatch s).setup = s.setup ∧ (endWatch s).paper = s.paper
      ∧ (endWatch s).plan = s.plan ∧ (endWatch s).fetch = s.fetch ∧ (endWatch s).pulse = s.pulse ∧ (endWatch s).line = s.line
      ∧ (endWatch s).supply.sags = s.supply.sags ∧ (endWatch s).web = s.web ∧ (endWatch s).cut = s.cut
      ∧ (endWatch s).sort = s.sort
      ∧ (endWatch s).eng = s.eng ∧ (endWatch s).out = s.out ∧ (endWatch s).pending = s.pending := by
  simp [endWatch]

@[simp] theorem enterPaused_frame (s : State) :
    (enterPaused s).link.area = s.link.area ∧ (enterPaused s).link.areaSet = s.link.areaSet
      ∧ (enterPaused s).link.readData = s.link.readData
      ∧ (enterPaused s).intake.lostPending = s.intake.lostPending ∧ (enterPaused s).intake.cellRead = s.intake.cellRead
      ∧ (enterPaused s).intake.cellOwed = s.intake.cellOwed ∧ (enterPaused s).intake.detached = s.intake.detached
      ∧ (enterPaused s).setup = s.setup
      ∧ (enterPaused s).paper.active = s.paper.active ∧ (enterPaused s).plan.framesExposed = s.plan.framesExposed
      ∧ (enterPaused s).fetch.underruns = s.fetch.underruns ∧ (enterPaused s).pulse = s.pulse
      ∧ (enterPaused s).line.w = s.line.w
      ∧ (enterPaused s).line.prescale = s.line.prescale ∧ (enterPaused s).line.divisor = s.line.divisor
      ∧ (enterPaused s).line.punch = s.line.punch
      ∧ (enterPaused s).line.webReady = s.line.webReady ∧ (enterPaused s).supply.sags = s.supply.sags
      ∧ (enterPaused s).web.nextNumber = s.web.nextNumber ∧ (enterPaused s).web.cutterPos = s.web.cutterPos
      ∧ (enterPaused s).cut.knife = s.cut.knife
      ∧ (enterPaused s).cut.leftHome = s.cut.leftHome ∧ (enterPaused s).cut.solenoid = s.cut.solenoid
      ∧ (enterPaused s).cut.offset = s.cut.offset
      ∧ (enterPaused s).cut.misses = s.cut.misses ∧ (enterPaused s).cut.markLost = s.cut.markLost
      ∧ (enterPaused s).cut.home = s.cut.home
      ∧ (enterPaused s).cut.jam = s.cut.jam ∧ (enterPaused s).sort.lane = s.sort.lane
      ∧ (enterPaused s).sort.rejectCount = s.sort.rejectCount
      ∧ (enterPaused s).sort.rejectFull = s.sort.rejectFull ∧ (enterPaused s).sort.misroutes = s.sort.misroutes
      ∧ (enterPaused s).sort.keys = s.sort.keys ∧ (enterPaused s).sort.blink1 = s.sort.blink1
      ∧ (enterPaused s).sort.blink4 = s.sort.blink4
      ∧ (enterPaused s).eng.resetKind = s.eng.resetKind ∧ (enterPaused s).eng.record = s.eng.record
      ∧ (enterPaused s).eng.overflow = s.eng.overflow
      ∧ (enterPaused s).eng.hold = s.eng.hold ∧ (enterPaused s).pending = s.pending := by
  simp [enterPaused]

@[simp] theorem stoppage_frame (kind : FaultKind) (s : State) :
    (stoppage kind s).link.area = s.link.area ∧ (stoppage kind s).link.areaSet = s.link.areaSet
      ∧ (stoppage kind s).link.readData = s.link.readData
      ∧ (stoppage kind s).intake.lostPending = s.intake.lostPending ∧ (stoppage kind s).intake.cellRead = s.intake.cellRead
      ∧ (stoppage kind s).intake.cellOwed = s.intake.cellOwed ∧ (stoppage kind s).intake.detached = s.intake.detached
      ∧ (stoppage kind s).setup = s.setup ∧ (stoppage kind s).paper.active = s.paper.active
      ∧ (stoppage kind s).plan.framesExposed = s.plan.framesExposed ∧ (stoppage kind s).fetch.underruns = s.fetch.underruns
      ∧ (stoppage kind s).pulse = s.pulse ∧ (stoppage kind s).line.w = s.line.w
      ∧ (stoppage kind s).line.prescale = s.line.prescale
      ∧ (stoppage kind s).line.divisor = s.line.divisor ∧ (stoppage kind s).line.punch = s.line.punch
      ∧ (stoppage kind s).line.webReady = s.line.webReady ∧ (stoppage kind s).supply.sags = s.supply.sags
      ∧ (stoppage kind s).web.nextNumber = s.web.nextNumber ∧ (stoppage kind s).web.cutterPos = s.web.cutterPos
      ∧ (stoppage kind s).cut.knife = s.cut.knife ∧ (stoppage kind s).cut.leftHome = s.cut.leftHome
      ∧ (stoppage kind s).cut.solenoid = s.cut.solenoid
      ∧ (stoppage kind s).cut.offset = s.cut.offset ∧ (stoppage kind s).cut.misses = s.cut.misses
      ∧ (stoppage kind s).cut.markLost = s.cut.markLost
      ∧ (stoppage kind s).cut.home = s.cut.home ∧ (stoppage kind s).cut.jam = s.cut.jam
      ∧ (stoppage kind s).sort.lane = s.sort.lane
      ∧ (stoppage kind s).sort.rejectCount = s.sort.rejectCount ∧ (stoppage kind s).sort.rejectFull = s.sort.rejectFull
      ∧ (stoppage kind s).sort.misroutes = s.sort.misroutes ∧ (stoppage kind s).sort.keys = s.sort.keys
      ∧ (stoppage kind s).sort.blink1 = s.sort.blink1 ∧ (stoppage kind s).sort.blink4 = s.sort.blink4
      ∧ (stoppage kind s).eng.resetKind = s.eng.resetKind ∧ (stoppage kind s).eng.hold = s.eng.hold
      ∧ (stoppage kind s).pending = s.pending := by
  unfold stoppage
  (repeat' split) <;> simp

@[simp] theorem enterStopped_frame (s : State) :
    (enterStopped s).link.area = s.link.area ∧ (enterStopped s).link.areaSet = s.link.areaSet
      ∧ (enterStopped s).link.readData = s.link.readData
      ∧ (enterStopped s).intake.lostPending = s.intake.lostPending ∧ (enterStopped s).intake.cellRead = s.intake.cellRead
      ∧ (enterStopped s).intake.cellOwed = s.intake.cellOwed ∧ (enterStopped s).intake.detached = s.intake.detached
      ∧ (enterStopped s).setup = s.setup
      ∧ (enterStopped s).paper.active = s.paper.active ∧ (enterStopped s).plan.framesExposed = s.plan.framesExposed
      ∧ (enterStopped s).plan.budgetRemakes = s.plan.budgetRemakes ∧ (enterStopped s).plan.jamRemakes = s.plan.jamRemakes
      ∧ (enterStopped s).fetch = s.fetch ∧ (enterStopped s).pulse = s.pulse ∧ (enterStopped s).line.w = s.line.w
      ∧ (enterStopped s).line.prescale = s.line.prescale ∧ (enterStopped s).line.divisor = s.line.divisor
      ∧ (enterStopped s).line.punch = s.line.punch
      ∧ (enterStopped s).line.webReady = s.line.webReady ∧ (enterStopped s).supply.sags = s.supply.sags
      ∧ (enterStopped s).web.nextNumber = s.web.nextNumber ∧ (enterStopped s).web.cutterPos = s.web.cutterPos
      ∧ (enterStopped s).web.spoils = s.web.spoils ∧ (enterStopped s).cut.knife = s.cut.knife
      ∧ (enterStopped s).cut.leftHome = s.cut.leftHome
      ∧ (enterStopped s).cut.solenoid = s.cut.solenoid ∧ (enterStopped s).cut.offset = s.cut.offset
      ∧ (enterStopped s).cut.misses = s.cut.misses
      ∧ (enterStopped s).cut.markLost = s.cut.markLost ∧ (enterStopped s).cut.home = s.cut.home
      ∧ (enterStopped s).cut.jam = s.cut.jam
      ∧ (enterStopped s).sort.lane = s.sort.lane ∧ (enterStopped s).sort.bins = s.sort.bins
      ∧ (enterStopped s).sort.rejectCount = s.sort.rejectCount
      ∧ (enterStopped s).sort.rejectFull = s.sort.rejectFull ∧ (enterStopped s).sort.misroutes = s.sort.misroutes
      ∧ (enterStopped s).sort.keys = s.sort.keys ∧ (enterStopped s).sort.blink1 = s.sort.blink1
      ∧ (enterStopped s).sort.blink4 = s.sort.blink4
      ∧ (enterStopped s).eng.resetKind = s.eng.resetKind ∧ (enterStopped s).eng.record = s.eng.record
      ∧ (enterStopped s).eng.overflow = s.eng.overflow
      ∧ (enterStopped s).eng.hold = s.eng.hold ∧ (enterStopped s).pending = s.pending := by
  simp [enterStopped]

@[simp] theorem clearReport_frame (s : State) :
    (clearReport s).setup = s.setup ∧ (clearReport s).fetch = s.fetch ∧ (clearReport s).pulse = s.pulse
      ∧ (clearReport s).pending = s.pending ∧ (clearReport s).link.area = s.link.area
      ∧ (clearReport s).link.areaSet = s.link.areaSet ∧ (clearReport s).link.readData = s.link.readData
      ∧ (clearReport s).intake.lostPending = s.intake.lostPending ∧ (clearReport s).intake.cellRead = s.intake.cellRead
      ∧ (clearReport s).intake.cellOwed = s.intake.cellOwed ∧ (clearReport s).intake.detached = s.intake.detached
      ∧ (clearReport s).paper.active = s.paper.active ∧ (clearReport s).plan.framesExposed = s.plan.framesExposed
      ∧ (clearReport s).plan.budgetRemakes = s.plan.budgetRemakes ∧ (clearReport s).plan.jamRemakes = s.plan.jamRemakes
      ∧ (clearReport s).line.w = s.line.w ∧ (clearReport s).line.prescale = s.line.prescale
      ∧ (clearReport s).line.divisor = s.line.divisor ∧ (clearReport s).line.punch = s.line.punch
      ∧ (clearReport s).line.webReady = s.line.webReady ∧ (clearReport s).supply.sags = s.supply.sags
      ∧ (clearReport s).web.nextNumber = s.web.nextNumber ∧ (clearReport s).web.cutterPos = s.web.cutterPos
      ∧ (clearReport s).web.spoils = s.web.spoils ∧ (clearReport s).cut.knife = s.cut.knife
      ∧ (clearReport s).cut.leftHome = s.cut.leftHome ∧ (clearReport s).cut.solenoid = s.cut.solenoid
      ∧ (clearReport s).cut.offset = s.cut.offset ∧ (clearReport s).cut.misses = s.cut.misses
      ∧ (clearReport s).cut.markLost = s.cut.markLost ∧ (clearReport s).cut.home = s.cut.home
      ∧ (clearReport s).cut.jam = s.cut.jam ∧ (clearReport s).sort.lane = s.sort.lane
      ∧ (clearReport s).sort.bins = s.sort.bins ∧ (clearReport s).sort.rejectCount = s.sort.rejectCount
      ∧ (clearReport s).sort.rejectFull = s.sort.rejectFull ∧ (clearReport s).sort.misroutes = s.sort.misroutes
      ∧ (clearReport s).sort.keys = s.sort.keys ∧ (clearReport s).sort.blink1 = s.sort.blink1
      ∧ (clearReport s).sort.blink4 = s.sort.blink4 ∧ (clearReport s).eng.resetKind = s.eng.resetKind
      ∧ (clearReport s).eng.record = s.eng.record ∧ (clearReport s).eng.overflow = s.eng.overflow
      ∧ (clearReport s).eng.hold = s.eng.hold := by
  simp only [clearReport]; (repeat' split) <;> simp

@[simp] theorem enterHalted_frame (s : State) :
    (enterHalted s).link.area = s.link.area ∧ (enterHalted s).link.areaSet = s.link.areaSet
      ∧ (enterHalted s).link.readData = s.link.readData
      ∧ (enterHalted s).intake.lostPending = s.intake.lostPending ∧ (enterHalted s).intake.detached = s.intake.detached
      ∧ (enterHalted s).paper.active = s.paper.active ∧ (enterHalted s).plan.framesExposed = s.plan.framesExposed
      ∧ (enterHalted s).plan.budgetRemakes = s.plan.budgetRemakes ∧ (enterHalted s).plan.jamRemakes = s.plan.jamRemakes
      ∧ (enterHalted s).fetch.reads = s.fetch.reads ∧ (enterHalted s).fetch.refill = s.fetch.refill
      ∧ (enterHalted s).fetch.underruns = s.fetch.underruns ∧ (enterHalted s).pulse.clipped = s.pulse.clipped
      ∧ (enterHalted s).line.w = s.line.w
      ∧ (enterHalted s).line.prescale = s.line.prescale ∧ (enterHalted s).line.divisor = s.line.divisor
      ∧ (enterHalted s).line.webReady = s.line.webReady ∧ (enterHalted s).supply.sags = s.supply.sags
      ∧ (enterHalted s).web = s.web
      ∧ (enterHalted s).cut.knife = s.cut.knife ∧ (enterHalted s).cut.leftHome = s.cut.leftHome
      ∧ (enterHalted s).cut.offset = s.cut.offset
      ∧ (enterHalted s).cut.cursor = s.cut.cursor ∧ (enterHalted s).cut.misses = s.cut.misses
      ∧ (enterHalted s).cut.markLost = s.cut.markLost
      ∧ (enterHalted s).cut.home = s.cut.home ∧ (enterHalted s).cut.jam = s.cut.jam ∧ (enterHalted s).sort.lane = s.sort.lane
      ∧ (enterHalted s).sort.bins = s.sort.bins ∧ (enterHalted s).sort.rejectCount = s.sort.rejectCount
      ∧ (enterHalted s).sort.rejectFull = s.sort.rejectFull ∧ (enterHalted s).sort.misroutes = s.sort.misroutes
      ∧ (enterHalted s).sort.keys = s.sort.keys ∧ (enterHalted s).sort.blink1 = s.sort.blink1
      ∧ (enterHalted s).sort.blink4 = s.sort.blink4
      ∧ (enterHalted s).eng.resetKind = s.eng.resetKind ∧ (enterHalted s).eng.record = s.eng.record
      ∧ (enterHalted s).eng.overflow = s.eng.overflow
      ∧ (enterHalted s).eng.hold = s.eng.hold ∧ (enterHalted s).pending = s.pending := by
  simp [enterHalted]

@[simp] theorem startWatch_frame (s : State) :
    (startWatch s).link = s.link ∧ (startWatch s).intake = s.intake ∧ (startWatch s).setup = s.setup
      ∧ (startWatch s).paper = s.paper
      ∧ (startWatch s).plan = s.plan ∧ (startWatch s).fetch = s.fetch ∧ (startWatch s).pulse = s.pulse
      ∧ (startWatch s).line = s.line
      ∧ (startWatch s).supply.sags = s.supply.sags ∧ (startWatch s).web = s.web ∧ (startWatch s).cut = s.cut
      ∧ (startWatch s).sort = s.sort
      ∧ (startWatch s).eng = s.eng ∧ (startWatch s).out = s.out ∧ (startWatch s).pending = s.pending := by
  simp [startWatch]

@[simp] theorem strokeEnd_frame (s : State) :
    (strokeEnd s).link = s.link ∧ (strokeEnd s).intake = s.intake ∧ (strokeEnd s).setup = s.setup
      ∧ (strokeEnd s).paper = s.paper
      ∧ (strokeEnd s).plan = s.plan ∧ (strokeEnd s).fetch = s.fetch ∧ (strokeEnd s).pulse = s.pulse
      ∧ (strokeEnd s).line = s.line
      ∧ (strokeEnd s).supply.watching = s.supply.watching ∧ (strokeEnd s).supply.settle = s.supply.settle
      ∧ (strokeEnd s).supply.sags = s.supply.sags
      ∧ (strokeEnd s).web = s.web ∧ (strokeEnd s).cut = s.cut ∧ (strokeEnd s).sort = s.sort ∧ (strokeEnd s).eng = s.eng
      ∧ (strokeEnd s).out = s.out
      ∧ (strokeEnd s).pending = s.pending := by
  unfold strokeEnd
  (repeat' split) <;> simp

@[simp] theorem fireKnife_frame (b : Word) (s : State) :
    (fireKnife b s).setup = s.setup ∧ (fireKnife b s).fetch = s.fetch ∧ (fireKnife b s).pulse = s.pulse
      ∧ (fireKnife b s).pending = s.pending ∧ (fireKnife b s).link.area = s.link.area
      ∧ (fireKnife b s).link.areaSet = s.link.areaSet ∧ (fireKnife b s).link.readData = s.link.readData
      ∧ (fireKnife b s).intake.lostPending = s.intake.lostPending ∧ (fireKnife b s).intake.cellRead = s.intake.cellRead
      ∧ (fireKnife b s).intake.cellOwed = s.intake.cellOwed ∧ (fireKnife b s).intake.detached = s.intake.detached
      ∧ (fireKnife b s).paper.active = s.paper.active ∧ (fireKnife b s).plan.framesExposed = s.plan.framesExposed
      ∧ (fireKnife b s).line.w = s.line.w ∧ (fireKnife b s).line.prescale = s.line.prescale
      ∧ (fireKnife b s).line.divisor = s.line.divisor ∧ (fireKnife b s).line.punch = s.line.punch
      ∧ (fireKnife b s).line.webReady = s.line.webReady ∧ (fireKnife b s).supply.sags = s.supply.sags
      ∧ (fireKnife b s).web.nextNumber = s.web.nextNumber ∧ (fireKnife b s).web.cutterPos = s.web.cutterPos
      ∧ (fireKnife b s).web.spoils = s.web.spoils ∧ (fireKnife b s).cut.offset = s.cut.offset
      ∧ (fireKnife b s).cut.misses = s.cut.misses ∧ (fireKnife b s).cut.markLost = s.cut.markLost
      ∧ (fireKnife b s).cut.home = s.cut.home ∧ (fireKnife b s).cut.jam = s.cut.jam
      ∧ (fireKnife b s).sort.rejectCount = s.sort.rejectCount ∧ (fireKnife b s).sort.rejectFull = s.sort.rejectFull
      ∧ (fireKnife b s).sort.misroutes = s.sort.misroutes ∧ (fireKnife b s).sort.keys = s.sort.keys
      ∧ (fireKnife b s).sort.blink1 = s.sort.blink1 ∧ (fireKnife b s).sort.blink4 = s.sort.blink4
      ∧ (fireKnife b s).eng.resetKind = s.eng.resetKind ∧ (fireKnife b s).eng.record = s.eng.record
      ∧ (fireKnife b s).eng.overflow = s.eng.overflow ∧ (fireKnife b s).eng.hold = s.eng.hold := by
  simp [fireKnife]

@[simp] theorem cutTest_frame (s : State) :
    (cutTest s).link.area = s.link.area ∧ (cutTest s).link.areaSet = s.link.areaSet
      ∧ (cutTest s).link.readData = s.link.readData
      ∧ (cutTest s).intake.lostPending = s.intake.lostPending ∧ (cutTest s).intake.cellRead = s.intake.cellRead
      ∧ (cutTest s).intake.cellOwed = s.intake.cellOwed ∧ (cutTest s).intake.detached = s.intake.detached
      ∧ (cutTest s).setup = s.setup
      ∧ (cutTest s).paper.active = s.paper.active ∧ (cutTest s).plan.framesExposed = s.plan.framesExposed
      ∧ (cutTest s).fetch.underruns = s.fetch.underruns ∧ (cutTest s).pulse = s.pulse ∧ (cutTest s).line.w = s.line.w
      ∧ (cutTest s).line.prescale = s.line.prescale ∧ (cutTest s).line.divisor = s.line.divisor
      ∧ (cutTest s).line.punch = s.line.punch
      ∧ (cutTest s).line.webReady = s.line.webReady ∧ (cutTest s).supply.sags = s.supply.sags
      ∧ (cutTest s).web.nextNumber = s.web.nextNumber
      ∧ (cutTest s).web.cutterPos = s.web.cutterPos ∧ (cutTest s).cut.offset = s.cut.offset
      ∧ (cutTest s).cut.misses = s.cut.misses
      ∧ (cutTest s).cut.markLost = s.cut.markLost ∧ (cutTest s).cut.home = s.cut.home ∧ (cutTest s).cut.jam = s.cut.jam
      ∧ (cutTest s).sort.rejectCount = s.sort.rejectCount ∧ (cutTest s).sort.rejectFull = s.sort.rejectFull
      ∧ (cutTest s).sort.misroutes = s.sort.misroutes ∧ (cutTest s).sort.keys = s.sort.keys
      ∧ (cutTest s).sort.blink1 = s.sort.blink1
      ∧ (cutTest s).sort.blink4 = s.sort.blink4 ∧ (cutTest s).eng.resetKind = s.eng.resetKind
      ∧ (cutTest s).eng.hold = s.eng.hold
      ∧ (cutTest s).pending = s.pending := by
  unfold cutTest
  (repeat' split) <;> simp

@[simp] theorem endStroke_frame (s : State) :
    (endStroke s).link.area = s.link.area ∧ (endStroke s).link.areaSet = s.link.areaSet
      ∧ (endStroke s).link.readData = s.link.readData
      ∧ (endStroke s).intake.lostPending = s.intake.lostPending ∧ (endStroke s).intake.cellRead = s.intake.cellRead
      ∧ (endStroke s).intake.cellOwed = s.intake.cellOwed ∧ (endStroke s).intake.detached = s.intake.detached
      ∧ (endStroke s).setup = s.setup
      ∧ (endStroke s).paper.active = s.paper.active ∧ (endStroke s).plan.framesExposed = s.plan.framesExposed
      ∧ (endStroke s).fetch.underruns = s.fetch.underruns ∧ (endStroke s).pulse = s.pulse ∧ (endStroke s).line.w = s.line.w
      ∧ (endStroke s).line.prescale = s.line.prescale ∧ (endStroke s).line.divisor = s.line.divisor
      ∧ (endStroke s).line.punch = s.line.punch
      ∧ (endStroke s).line.webReady = s.line.webReady ∧ (endStroke s).supply.sags = s.supply.sags
      ∧ (endStroke s).web.nextNumber = s.web.nextNumber
      ∧ (endStroke s).web.cutterPos = s.web.cutterPos ∧ (endStroke s).cut.offset = s.cut.offset
      ∧ (endStroke s).cut.misses = s.cut.misses
      ∧ (endStroke s).cut.markLost = s.cut.markLost ∧ (endStroke s).cut.home = s.cut.home ∧ (endStroke s).cut.jam = s.cut.jam
      ∧ (endStroke s).sort.rejectCount = s.sort.rejectCount ∧ (endStroke s).sort.rejectFull = s.sort.rejectFull
      ∧ (endStroke s).sort.misroutes = s.sort.misroutes ∧ (endStroke s).sort.keys = s.sort.keys
      ∧ (endStroke s).sort.blink1 = s.sort.blink1
      ∧ (endStroke s).sort.blink4 = s.sort.blink4 ∧ (endStroke s).eng.resetKind = s.eng.resetKind
      ∧ (endStroke s).eng.hold = s.eng.hold
      ∧ (endStroke s).pending = s.pending := by
  simp [endStroke]

@[simp] theorem homeChange_frame (active : Bool) (s : State) :
    (homeChange active s).link.area = s.link.area ∧ (homeChange active s).link.areaSet = s.link.areaSet
      ∧ (homeChange active s).link.readData = s.link.readData
      ∧ (homeChange active s).intake.lostPending = s.intake.lostPending
      ∧ (homeChange active s).intake.cellRead = s.intake.cellRead ∧ (homeChange active s).intake.cellOwed = s.intake.cellOwed
      ∧ (homeChange active s).intake.detached = s.intake.detached ∧ (homeChange active s).setup = s.setup
      ∧ (homeChange active s).paper.active = s.paper.active ∧ (homeChange active s).plan.framesExposed = s.plan.framesExposed
      ∧ (homeChange active s).fetch.underruns = s.fetch.underruns ∧ (homeChange active s).pulse = s.pulse
      ∧ (homeChange active s).line.w = s.line.w
      ∧ (homeChange active s).line.prescale = s.line.prescale ∧ (homeChange active s).line.divisor = s.line.divisor
      ∧ (homeChange active s).line.punch = s.line.punch ∧ (homeChange active s).line.webReady = s.line.webReady
      ∧ (homeChange active s).supply.sags = s.supply.sags ∧ (homeChange active s).web.nextNumber = s.web.nextNumber
      ∧ (homeChange active s).web.cutterPos = s.web.cutterPos ∧ (homeChange active s).cut.offset = s.cut.offset
      ∧ (homeChange active s).cut.misses = s.cut.misses ∧ (homeChange active s).cut.markLost = s.cut.markLost
      ∧ (homeChange active s).cut.home = s.cut.home ∧ (homeChange active s).cut.jam = s.cut.jam
      ∧ (homeChange active s).sort.rejectCount = s.sort.rejectCount
      ∧ (homeChange active s).sort.rejectFull = s.sort.rejectFull
      ∧ (homeChange active s).sort.misroutes = s.sort.misroutes ∧ (homeChange active s).sort.keys = s.sort.keys
      ∧ (homeChange active s).sort.blink1 = s.sort.blink1 ∧ (homeChange active s).sort.blink4 = s.sort.blink4
      ∧ (homeChange active s).eng.resetKind = s.eng.resetKind ∧ (homeChange active s).eng.hold = s.eng.hold
      ∧ (homeChange active s).pending = s.pending := by
  unfold homeChange
  (repeat' split) <;> simp

@[simp] theorem strokeExpiry_frame (s : State) :
    (strokeExpiry s).link.area = s.link.area ∧ (strokeExpiry s).link.areaSet = s.link.areaSet
      ∧ (strokeExpiry s).link.readData = s.link.readData
      ∧ (strokeExpiry s).intake.lostPending = s.intake.lostPending ∧ (strokeExpiry s).intake.cellRead = s.intake.cellRead
      ∧ (strokeExpiry s).intake.cellOwed = s.intake.cellOwed ∧ (strokeExpiry s).intake.detached = s.intake.detached
      ∧ (strokeExpiry s).setup = s.setup
      ∧ (strokeExpiry s).paper.active = s.paper.active ∧ (strokeExpiry s).plan.framesExposed = s.plan.framesExposed
      ∧ (strokeExpiry s).fetch.underruns = s.fetch.underruns ∧ (strokeExpiry s).pulse = s.pulse
      ∧ (strokeExpiry s).line.w = s.line.w
      ∧ (strokeExpiry s).line.prescale = s.line.prescale ∧ (strokeExpiry s).line.divisor = s.line.divisor
      ∧ (strokeExpiry s).line.punch = s.line.punch
      ∧ (strokeExpiry s).line.webReady = s.line.webReady ∧ (strokeExpiry s).supply.sags = s.supply.sags
      ∧ (strokeExpiry s).web.nextNumber = s.web.nextNumber ∧ (strokeExpiry s).web.cutterPos = s.web.cutterPos
      ∧ (strokeExpiry s).cut.offset = s.cut.offset ∧ (strokeExpiry s).cut.misses = s.cut.misses
      ∧ (strokeExpiry s).cut.markLost = s.cut.markLost
      ∧ (strokeExpiry s).cut.home = s.cut.home ∧ (strokeExpiry s).cut.jam = s.cut.jam
      ∧ (strokeExpiry s).sort.lane = s.sort.lane
      ∧ (strokeExpiry s).sort.rejectCount = s.sort.rejectCount ∧ (strokeExpiry s).sort.rejectFull = s.sort.rejectFull
      ∧ (strokeExpiry s).sort.misroutes = s.sort.misroutes ∧ (strokeExpiry s).sort.keys = s.sort.keys
      ∧ (strokeExpiry s).sort.blink1 = s.sort.blink1
      ∧ (strokeExpiry s).sort.blink4 = s.sort.blink4 ∧ (strokeExpiry s).eng.resetKind = s.eng.resetKind
      ∧ (strokeExpiry s).eng.hold = s.eng.hold
      ∧ (strokeExpiry s).pending = s.pending := by
  unfold strokeExpiry
  (repeat' split) <;> simp

@[simp] theorem releaseKnife_frame (s : State) :
    (releaseKnife s).link.area = s.link.area ∧ (releaseKnife s).link.areaSet = s.link.areaSet
      ∧ (releaseKnife s).link.readData = s.link.readData
      ∧ (releaseKnife s).intake.lostPending = s.intake.lostPending ∧ (releaseKnife s).intake.cellRead = s.intake.cellRead
      ∧ (releaseKnife s).intake.cellOwed = s.intake.cellOwed ∧ (releaseKnife s).intake.detached = s.intake.detached
      ∧ (releaseKnife s).setup = s.setup
      ∧ (releaseKnife s).paper.active = s.paper.active ∧ (releaseKnife s).paper.target = s.paper.target
      ∧ (releaseKnife s).plan.switchFlag = s.plan.switchFlag ∧ (releaseKnife s).plan.framesExposed = s.plan.framesExposed
      ∧ (releaseKnife s).plan.budgetRemakes = s.plan.budgetRemakes ∧ (releaseKnife s).plan.jamRemakes = s.plan.jamRemakes
      ∧ (releaseKnife s).fetch = s.fetch ∧ (releaseKnife s).pulse = s.pulse ∧ (releaseKnife s).line = s.line
      ∧ (releaseKnife s).supply = s.supply
      ∧ (releaseKnife s).web = s.web ∧ (releaseKnife s).cut.leftHome = s.cut.leftHome
      ∧ (releaseKnife s).cut.solenoid = s.cut.solenoid
      ∧ (releaseKnife s).cut.offset = s.cut.offset ∧ (releaseKnife s).cut.cursor = s.cut.cursor
      ∧ (releaseKnife s).cut.misses = s.cut.misses
      ∧ (releaseKnife s).cut.markLost = s.cut.markLost ∧ (releaseKnife s).cut.home = s.cut.home
      ∧ (releaseKnife s).cut.jam = s.cut.jam
      ∧ (releaseKnife s).sort.lane = s.sort.lane ∧ (releaseKnife s).sort.bins = s.sort.bins
      ∧ (releaseKnife s).sort.rejectCount = s.sort.rejectCount
      ∧ (releaseKnife s).sort.rejectFull = s.sort.rejectFull ∧ (releaseKnife s).sort.misroutes = s.sort.misroutes
      ∧ (releaseKnife s).sort.keys = s.sort.keys ∧ (releaseKnife s).sort.blink1 = s.sort.blink1
      ∧ (releaseKnife s).sort.blink4 = s.sort.blink4
      ∧ (releaseKnife s).eng = s.eng ∧ (releaseKnife s).pending = s.pending := by
  unfold releaseKnife
  (repeat' split) <;> simp

@[simp] theorem moveMark_frame (n : Word) (s : State) :
    (moveMark n s).link = s.link ∧ (moveMark n s).intake = s.intake ∧ (moveMark n s).setup = s.setup
      ∧ (moveMark n s).paper = s.paper
      ∧ (moveMark n s).plan = s.plan ∧ (moveMark n s).fetch = s.fetch ∧ (moveMark n s).pulse = s.pulse
      ∧ (moveMark n s).line = s.line
      ∧ (moveMark n s).supply = s.supply ∧ (moveMark n s).web = s.web ∧ (moveMark n s).cut.knife = s.cut.knife
      ∧ (moveMark n s).cut.leftHome = s.cut.leftHome ∧ (moveMark n s).cut.timer = s.cut.timer
      ∧ (moveMark n s).cut.solenoid = s.cut.solenoid
      ∧ (moveMark n s).cut.offset = s.cut.offset ∧ (moveMark n s).cut.misses = s.cut.misses
      ∧ (moveMark n s).cut.markLost = s.cut.markLost
      ∧ (moveMark n s).cut.home = s.cut.home ∧ (moveMark n s).cut.jam = s.cut.jam ∧ (moveMark n s).sort = s.sort
      ∧ (moveMark n s).eng = s.eng
      ∧ (moveMark n s).out = s.out ∧ (moveMark n s).pending = s.pending := by
  simp [moveMark]

@[simp] theorem markFrame_frame (n : Word) (s : State) :
    (markFrame n s).link = s.link ∧ (markFrame n s).intake = s.intake ∧ (markFrame n s).setup = s.setup
      ∧ (markFrame n s).paper = s.paper
      ∧ (markFrame n s).plan = s.plan ∧ (markFrame n s).fetch = s.fetch ∧ (markFrame n s).pulse = s.pulse
      ∧ (markFrame n s).line = s.line
      ∧ (markFrame n s).supply = s.supply ∧ (markFrame n s).web = s.web ∧ (markFrame n s).cut.knife = s.cut.knife
      ∧ (markFrame n s).cut.leftHome = s.cut.leftHome ∧ (markFrame n s).cut.timer = s.cut.timer
      ∧ (markFrame n s).cut.solenoid = s.cut.solenoid
      ∧ (markFrame n s).cut.offset = s.cut.offset ∧ (markFrame n s).cut.misses = s.cut.misses
      ∧ (markFrame n s).cut.markLost = s.cut.markLost
      ∧ (markFrame n s).cut.home = s.cut.home ∧ (markFrame n s).cut.jam = s.cut.jam ∧ (markFrame n s).sort = s.sort
      ∧ (markFrame n s).eng = s.eng
      ∧ (markFrame n s).out = s.out ∧ (markFrame n s).pending = s.pending := by
  unfold markFrame
  (repeat' split) <;> simp

@[simp] theorem takeMark_frame (s : State) :
    (takeMark s).link.area = s.link.area ∧ (takeMark s).link.areaSet = s.link.areaSet
      ∧ (takeMark s).link.readData = s.link.readData
      ∧ (takeMark s).intake.lostPending = s.intake.lostPending ∧ (takeMark s).intake.cellRead = s.intake.cellRead
      ∧ (takeMark s).intake.cellOwed = s.intake.cellOwed ∧ (takeMark s).intake.detached = s.intake.detached
      ∧ (takeMark s).setup = s.setup
      ∧ (takeMark s).paper.active = s.paper.active ∧ (takeMark s).plan.framesExposed = s.plan.framesExposed
      ∧ (takeMark s).fetch.underruns = s.fetch.underruns ∧ (takeMark s).pulse = s.pulse ∧ (takeMark s).line.w = s.line.w
      ∧ (takeMark s).line.prescale = s.line.prescale ∧ (takeMark s).line.divisor = s.line.divisor
      ∧ (takeMark s).line.punch = s.line.punch
      ∧ (takeMark s).line.webReady = s.line.webReady ∧ (takeMark s).supply.sags = s.supply.sags
      ∧ (takeMark s).web.nextNumber = s.web.nextNumber
      ∧ (takeMark s).web.cutterPos = s.web.cutterPos ∧ (takeMark s).cut.home = s.cut.home ∧ (takeMark s).cut.jam = s.cut.jam
      ∧ (takeMark s).sort.rejectCount = s.sort.rejectCount ∧ (takeMark s).sort.rejectFull = s.sort.rejectFull
      ∧ (takeMark s).sort.misroutes = s.sort.misroutes ∧ (takeMark s).sort.keys = s.sort.keys
      ∧ (takeMark s).sort.blink1 = s.sort.blink1
      ∧ (takeMark s).sort.blink4 = s.sort.blink4 ∧ (takeMark s).eng.resetKind = s.eng.resetKind
      ∧ (takeMark s).eng.hold = s.eng.hold
      ∧ (takeMark s).pending = s.pending := by
  unfold takeMark
  (repeat' split) <;> simp

@[simp] theorem missMark_frame (n : Word) (s : State) :
    (missMark n s).link.area = s.link.area ∧ (missMark n s).link.areaSet = s.link.areaSet
      ∧ (missMark n s).link.unreported = s.link.unreported
      ∧ (missMark n s).link.idleTimer = s.link.idleTimer ∧ (missMark n s).link.waiting = s.link.waiting
      ∧ (missMark n s).link.readData = s.link.readData ∧ (missMark n s).intake = s.intake ∧ (missMark n s).setup = s.setup
      ∧ (missMark n s).paper = s.paper ∧ (missMark n s).plan = s.plan ∧ (missMark n s).fetch = s.fetch
      ∧ (missMark n s).pulse = s.pulse
      ∧ (missMark n s).line = s.line ∧ (missMark n s).supply = s.supply ∧ (missMark n s).web.nextNumber = s.web.nextNumber
      ∧ (missMark n s).web.hold = s.web.hold ∧ (missMark n s).web.cutterPos = s.web.cutterPos
      ∧ (missMark n s).web.waste = s.web.waste
      ∧ (missMark n s).web.spoils = s.web.spoils ∧ (missMark n s).cut.knife = s.cut.knife
      ∧ (missMark n s).cut.leftHome = s.cut.leftHome
      ∧ (missMark n s).cut.timer = s.cut.timer ∧ (missMark n s).cut.solenoid = s.cut.solenoid
      ∧ (missMark n s).cut.offset = s.cut.offset
      ∧ (missMark n s).cut.home = s.cut.home ∧ (missMark n s).cut.jam = s.cut.jam ∧ (missMark n s).sort = s.sort
      ∧ (missMark n s).eng = s.eng
      ∧ (missMark n s).out = s.out ∧ (missMark n s).pending = s.pending := by
  simp only [missMark]
  (repeat' split) <;> simp

@[simp] theorem closeWindow_frame (s : State) :
    (closeWindow s).link.area = s.link.area ∧ (closeWindow s).link.areaSet = s.link.areaSet
      ∧ (closeWindow s).link.unreported = s.link.unreported
      ∧ (closeWindow s).link.idleTimer = s.link.idleTimer ∧ (closeWindow s).link.waiting = s.link.waiting
      ∧ (closeWindow s).link.readData = s.link.readData ∧ (closeWindow s).intake = s.intake ∧ (closeWindow s).setup = s.setup
      ∧ (closeWindow s).paper = s.paper ∧ (closeWindow s).plan = s.plan ∧ (closeWindow s).fetch = s.fetch
      ∧ (closeWindow s).pulse = s.pulse
      ∧ (closeWindow s).line = s.line ∧ (closeWindow s).supply = s.supply ∧ (closeWindow s).web.nextNumber = s.web.nextNumber
      ∧ (closeWindow s).web.hold = s.web.hold ∧ (closeWindow s).web.cutterPos = s.web.cutterPos
      ∧ (closeWindow s).web.waste = s.web.waste
      ∧ (closeWindow s).web.spoils = s.web.spoils ∧ (closeWindow s).cut.knife = s.cut.knife
      ∧ (closeWindow s).cut.leftHome = s.cut.leftHome
      ∧ (closeWindow s).cut.timer = s.cut.timer ∧ (closeWindow s).cut.solenoid = s.cut.solenoid
      ∧ (closeWindow s).cut.offset = s.cut.offset
      ∧ (closeWindow s).cut.home = s.cut.home ∧ (closeWindow s).cut.jam = s.cut.jam ∧ (closeWindow s).sort = s.sort
      ∧ (closeWindow s).eng = s.eng
      ∧ (closeWindow s).out = s.out ∧ (closeWindow s).pending = s.pending := by
  unfold closeWindow
  (repeat' split) <;> simp

@[simp] theorem stampAll_frame (s : State) :
    (stampAll s).link = s.link ∧ (stampAll s).intake = s.intake ∧ (stampAll s).setup = s.setup ∧ (stampAll s).paper = s.paper
      ∧ (stampAll s).plan.queue = s.plan.queue ∧ (stampAll s).plan.switchFlag = s.plan.switchFlag
      ∧ (stampAll s).plan.framesExposed = s.plan.framesExposed ∧ (stampAll s).plan.budgetRemakes = s.plan.budgetRemakes
      ∧ (stampAll s).plan.jamRemakes = s.plan.jamRemakes ∧ (stampAll s).fetch = s.fetch ∧ (stampAll s).pulse = s.pulse
      ∧ (stampAll s).line = s.line
      ∧ (stampAll s).supply = s.supply ∧ (stampAll s).web = s.web ∧ (stampAll s).cut = s.cut ∧ (stampAll s).sort = s.sort
      ∧ (stampAll s).eng = s.eng
      ∧ (stampAll s).out = s.out ∧ (stampAll s).pending = s.pending := by
  simp [stampAll]

@[simp] theorem plannerChange_frame (s : State) :
    (plannerChange s).link = s.link ∧ (plannerChange s).intake = s.intake ∧ (plannerChange s).setup = s.setup
      ∧ (plannerChange s).paper.magA = s.paper.magA ∧ (plannerChange s).paper.magB = s.paper.magB
      ∧ (plannerChange s).paper.active = s.paper.active
      ∧ (plannerChange s).plan.table = s.plan.table ∧ (plannerChange s).plan.queue = s.plan.queue
      ∧ (plannerChange s).plan.framesExposed = s.plan.framesExposed
      ∧ (plannerChange s).plan.budgetRemakes = s.plan.budgetRemakes
      ∧ (plannerChange s).plan.jamRemakes = s.plan.jamRemakes ∧ (plannerChange s).fetch = s.fetch
      ∧ (plannerChange s).pulse = s.pulse
      ∧ (plannerChange s).line = s.line ∧ (plannerChange s).supply = s.supply ∧ (plannerChange s).web = s.web
      ∧ (plannerChange s).cut = s.cut
      ∧ (plannerChange s).sort = s.sort ∧ (plannerChange s).eng = s.eng ∧ (plannerChange s).out = s.out
      ∧ (plannerChange s).pending = s.pending := by
  simp [plannerChange]

@[simp] theorem commitFrame_frame (i ei : Nat) (remake : Bool) (s : State) :
    (commitFrame i ei remake s).link.area = s.link.area ∧ (commitFrame i ei remake s).link.areaSet = s.link.areaSet
      ∧ (commitFrame i ei remake s).link.unreported = s.link.unreported
      ∧ (commitFrame i ei remake s).link.idleTimer = s.link.idleTimer
      ∧ (commitFrame i ei remake s).link.readData = s.link.readData ∧ (commitFrame i ei remake s).intake = s.intake
      ∧ (commitFrame i ei remake s).setup = s.setup ∧ (commitFrame i ei remake s).paper.active = s.paper.active
      ∧ (commitFrame i ei remake s).paper.target = s.paper.target ∧ (commitFrame i ei remake s).paper.timer = s.paper.timer
      ∧ (commitFrame i ei remake s).plan.switchFlag = s.plan.switchFlag
      ∧ (commitFrame i ei remake s).plan.budgetRemakes = s.plan.budgetRemakes
      ∧ (commitFrame i ei remake s).plan.jamRemakes = s.plan.jamRemakes
      ∧ (commitFrame i ei remake s).fetch.reads = s.fetch.reads
      ∧ (commitFrame i ei remake s).fetch.underruns = s.fetch.underruns
      ∧ (commitFrame i ei remake s).pulse = s.pulse ∧ (commitFrame i ei remake s).line = s.line
      ∧ (commitFrame i ei remake s).supply = s.supply
      ∧ (commitFrame i ei remake s).web.hold = s.web.hold ∧ (commitFrame i ei remake s).web.cutterPos = s.web.cutterPos
      ∧ (commitFrame i ei remake s).web.waste = s.web.waste ∧ (commitFrame i ei remake s).web.spoils = s.web.spoils
      ∧ (commitFrame i ei remake s).cut.knife = s.cut.knife ∧ (commitFrame i ei remake s).cut.leftHome = s.cut.leftHome
      ∧ (commitFrame i ei remake s).cut.timer = s.cut.timer ∧ (commitFrame i ei remake s).cut.solenoid = s.cut.solenoid
      ∧ (commitFrame i ei remake s).cut.offset = s.cut.offset ∧ (commitFrame i ei remake s).cut.misses = s.cut.misses
      ∧ (commitFrame i ei remake s).cut.markLost = s.cut.markLost ∧ (commitFrame i ei remake s).cut.home = s.cut.home
      ∧ (commitFrame i ei remake s).cut.jam = s.cut.jam ∧ (commitFrame i ei remake s).sort.lane = s.sort.lane
      ∧ (commitFrame i ei remake s).sort.rejectCount = s.sort.rejectCount
      ∧ (commitFrame i ei remake s).sort.rejectFull = s.sort.rejectFull
      ∧ (commitFrame i ei remake s).sort.misroutes = s.sort.misroutes ∧ (commitFrame i ei remake s).sort.clock = s.sort.clock
      ∧ (commitFrame i ei remake s).sort.keys = s.sort.keys ∧ (commitFrame i ei remake s).sort.blink1 = s.sort.blink1
      ∧ (commitFrame i ei remake s).sort.blink4 = s.sort.blink4 ∧ (commitFrame i ei remake s).eng = s.eng
      ∧ (commitFrame i ei remake s).out = s.out
      ∧ (commitFrame i ei remake s).pending = s.pending := by
  unfold commitFrame
  (repeat' split) <;> simp

theorem startOrder_frame (i : Nat) (o : Order) (s t : State) (h : startOrder i o s = some t) :
    t.link.area = s.link.area ∧ t.link.areaSet = s.link.areaSet ∧ t.link.causes = s.link.causes
      ∧ t.link.unreported = s.link.unreported
      ∧ t.link.idleTimer = s.link.idleTimer ∧ t.link.readData = s.link.readData ∧ t.intake = s.intake ∧ t.setup = s.setup
      ∧ t.paper = s.paper
      ∧ t.plan.queue = s.plan.queue ∧ t.plan.switchFlag = s.plan.switchFlag ∧ t.plan.framesExposed = s.plan.framesExposed
      ∧ t.plan.budgetRemakes = s.plan.budgetRemakes ∧ t.plan.jamRemakes = s.plan.jamRemakes ∧ t.fetch = s.fetch
      ∧ t.pulse = s.pulse ∧ t.line = s.line
      ∧ t.supply = s.supply ∧ t.web = s.web ∧ t.cut = s.cut ∧ t.sort.lane = s.sort.lane
      ∧ t.sort.rejectCount = s.sort.rejectCount
      ∧ t.sort.rejectFull = s.sort.rejectFull ∧ t.sort.misroutes = s.sort.misroutes ∧ t.sort.clock = s.sort.clock
      ∧ t.sort.keys = s.sort.keys
      ∧ t.sort.blink1 = s.sort.blink1 ∧ t.sort.blink4 = s.sort.blink4 ∧ t.eng = s.eng ∧ t.out = s.out
      ∧ t.pending = s.pending := by
  simp only [startOrder] at h
  split at h <;> simp only [Option.some.injEq, reduceCtorEq] at h
  rename_i heq
  subst h
  simp [reserveBins_frame _ _ _ _ _ _ heq]

@[simp] theorem chooseIdle_frame (s : State) :
    (chooseIdle s).link = s.link ∧ (chooseIdle s).intake = s.intake ∧ (chooseIdle s).setup = s.setup
      ∧ (chooseIdle s).paper.magA = s.paper.magA
      ∧ (chooseIdle s).paper.magB = s.paper.magB ∧ (chooseIdle s).paper.active = s.paper.active
      ∧ (chooseIdle s).plan.table = s.plan.table
      ∧ (chooseIdle s).plan.queue = s.plan.queue ∧ (chooseIdle s).plan.framesExposed = s.plan.framesExposed
      ∧ (chooseIdle s).plan.budgetRemakes = s.plan.budgetRemakes ∧ (chooseIdle s).plan.jamRemakes = s.plan.jamRemakes
      ∧ (chooseIdle s).fetch = s.fetch
      ∧ (chooseIdle s).pulse = s.pulse ∧ (chooseIdle s).line = s.line ∧ (chooseIdle s).supply = s.supply
      ∧ (chooseIdle s).web.hold = s.web.hold
      ∧ (chooseIdle s).web.cutterPos = s.web.cutterPos ∧ (chooseIdle s).web.waste = s.web.waste
      ∧ (chooseIdle s).web.spoils = s.web.spoils
      ∧ (chooseIdle s).cut = s.cut ∧ (chooseIdle s).sort = s.sort ∧ (chooseIdle s).eng = s.eng ∧ (chooseIdle s).out = s.out
      ∧ (chooseIdle s).pending = s.pending := by
  unfold chooseIdle
  (repeat' split) <;> simp

@[simp] theorem choose_frame (s : State) :
    (choose s).link.area = s.link.area ∧ (choose s).link.areaSet = s.link.areaSet
      ∧ (choose s).link.unreported = s.link.unreported
      ∧ (choose s).link.idleTimer = s.link.idleTimer ∧ (choose s).link.readData = s.link.readData
      ∧ (choose s).intake = s.intake
      ∧ (choose s).setup = s.setup ∧ (choose s).paper.active = s.paper.active
      ∧ (choose s).plan.budgetRemakes = s.plan.budgetRemakes
      ∧ (choose s).plan.jamRemakes = s.plan.jamRemakes
      ∧ (choose s).fetch.reads = s.fetch.reads
      ∧ (choose s).fetch.underruns = s.fetch.underruns ∧ (choose s).pulse = s.pulse ∧ (choose s).line = s.line
      ∧ (choose s).supply = s.supply
      ∧ (choose s).web.hold = s.web.hold ∧ (choose s).web.cutterPos = s.web.cutterPos ∧ (choose s).web.waste = s.web.waste
      ∧ (choose s).web.spoils = s.web.spoils ∧ (choose s).cut.knife = s.cut.knife ∧ (choose s).cut.leftHome = s.cut.leftHome
      ∧ (choose s).cut.timer = s.cut.timer ∧ (choose s).cut.solenoid = s.cut.solenoid ∧ (choose s).cut.offset = s.cut.offset
      ∧ (choose s).cut.misses = s.cut.misses ∧ (choose s).cut.markLost = s.cut.markLost ∧ (choose s).cut.home = s.cut.home
      ∧ (choose s).cut.jam = s.cut.jam ∧ (choose s).sort.lane = s.sort.lane ∧ (choose s).sort.rejectCount = s.sort.rejectCount
      ∧ (choose s).sort.rejectFull = s.sort.rejectFull ∧ (choose s).sort.misroutes = s.sort.misroutes
      ∧ (choose s).sort.clock = s.sort.clock
      ∧ (choose s).sort.keys = s.sort.keys ∧ (choose s).sort.blink1 = s.sort.blink1 ∧ (choose s).sort.blink4 = s.sort.blink4
      ∧ (choose s).eng = s.eng
      ∧ (choose s).out = s.out ∧ (choose s).pending = s.pending := by
  simp only [choose]; (repeat' split) <;> (try rename_i heq) <;> (try have h1 := startOrder_frame _ _ _ _ heq) <;> simp_all

@[simp] theorem commitPoint_frame (s : State) :
    (commitPoint s).link.area = s.link.area ∧ (commitPoint s).link.areaSet = s.link.areaSet
      ∧ (commitPoint s).link.unreported = s.link.unreported
      ∧ (commitPoint s).link.idleTimer = s.link.idleTimer ∧ (commitPoint s).link.readData = s.link.readData
      ∧ (commitPoint s).intake = s.intake
      ∧ (commitPoint s).setup = s.setup ∧ (commitPoint s).paper.active = s.paper.active
      ∧ (commitPoint s).plan.budgetRemakes = s.plan.budgetRemakes
      ∧ (commitPoint s).plan.jamRemakes = s.plan.jamRemakes
      ∧ (commitPoint s).fetch.reads = s.fetch.reads ∧ (commitPoint s).fetch.underruns = s.fetch.underruns
      ∧ (commitPoint s).pulse = s.pulse
      ∧ (commitPoint s).line = s.line ∧ (commitPoint s).supply = s.supply ∧ (commitPoint s).web.hold = s.web.hold
      ∧ (commitPoint s).web.cutterPos = s.web.cutterPos ∧ (commitPoint s).web.waste = s.web.waste
      ∧ (commitPoint s).web.spoils = s.web.spoils
      ∧ (commitPoint s).cut.knife = s.cut.knife ∧ (commitPoint s).cut.leftHome = s.cut.leftHome
      ∧ (commitPoint s).cut.timer = s.cut.timer
      ∧ (commitPoint s).cut.solenoid = s.cut.solenoid ∧ (commitPoint s).cut.offset = s.cut.offset
      ∧ (commitPoint s).cut.misses = s.cut.misses
      ∧ (commitPoint s).cut.markLost = s.cut.markLost ∧ (commitPoint s).cut.home = s.cut.home
      ∧ (commitPoint s).cut.jam = s.cut.jam
      ∧ (commitPoint s).sort.lane = s.sort.lane ∧ (commitPoint s).sort.rejectCount = s.sort.rejectCount
      ∧ (commitPoint s).sort.rejectFull = s.sort.rejectFull ∧ (commitPoint s).sort.misroutes = s.sort.misroutes
      ∧ (commitPoint s).sort.clock = s.sort.clock ∧ (commitPoint s).sort.keys = s.sort.keys
      ∧ (commitPoint s).sort.blink1 = s.sort.blink1
      ∧ (commitPoint s).sort.blink4 = s.sort.blink4 ∧ (commitPoint s).eng = s.eng ∧ (commitPoint s).out = s.out
      ∧ (commitPoint s).pending = s.pending := by
  unfold commitPoint
  (repeat' split) <;> simp

@[simp] theorem readyCommit_frame (s : State) :
    (readyCommit s).link.area = s.link.area ∧ (readyCommit s).link.areaSet = s.link.areaSet
      ∧ (readyCommit s).link.unreported = s.link.unreported
      ∧ (readyCommit s).link.idleTimer = s.link.idleTimer ∧ (readyCommit s).link.readData = s.link.readData
      ∧ (readyCommit s).intake = s.intake
      ∧ (readyCommit s).setup = s.setup ∧ (readyCommit s).paper.active = s.paper.active
      ∧ (readyCommit s).plan.budgetRemakes = s.plan.budgetRemakes
      ∧ (readyCommit s).plan.jamRemakes = s.plan.jamRemakes
      ∧ (readyCommit s).fetch.reads = s.fetch.reads ∧ (readyCommit s).fetch.underruns = s.fetch.underruns
      ∧ (readyCommit s).pulse = s.pulse
      ∧ (readyCommit s).line = s.line ∧ (readyCommit s).supply = s.supply ∧ (readyCommit s).web.hold = s.web.hold
      ∧ (readyCommit s).web.cutterPos = s.web.cutterPos ∧ (readyCommit s).web.waste = s.web.waste
      ∧ (readyCommit s).web.spoils = s.web.spoils
      ∧ (readyCommit s).cut.knife = s.cut.knife ∧ (readyCommit s).cut.leftHome = s.cut.leftHome
      ∧ (readyCommit s).cut.timer = s.cut.timer
      ∧ (readyCommit s).cut.solenoid = s.cut.solenoid ∧ (readyCommit s).cut.offset = s.cut.offset
      ∧ (readyCommit s).cut.misses = s.cut.misses
      ∧ (readyCommit s).cut.markLost = s.cut.markLost ∧ (readyCommit s).cut.home = s.cut.home
      ∧ (readyCommit s).cut.jam = s.cut.jam
      ∧ (readyCommit s).sort.lane = s.sort.lane ∧ (readyCommit s).sort.rejectCount = s.sort.rejectCount
      ∧ (readyCommit s).sort.rejectFull = s.sort.rejectFull ∧ (readyCommit s).sort.misroutes = s.sort.misroutes
      ∧ (readyCommit s).sort.clock = s.sort.clock ∧ (readyCommit s).sort.keys = s.sort.keys
      ∧ (readyCommit s).sort.blink1 = s.sort.blink1
      ∧ (readyCommit s).sort.blink4 = s.sort.blink4 ∧ (readyCommit s).eng = s.eng ∧ (readyCommit s).out = s.out
      ∧ (readyCommit s).pending = s.pending := by
  unfold readyCommit
  (repeat' split) <;> simp

@[simp] theorem strobeCommit_frame (s : State) :
    (strobeCommit s).link.area = s.link.area ∧ (strobeCommit s).link.areaSet = s.link.areaSet
      ∧ (strobeCommit s).link.unreported = s.link.unreported
      ∧ (strobeCommit s).link.idleTimer = s.link.idleTimer ∧ (strobeCommit s).link.readData = s.link.readData
      ∧ (strobeCommit s).intake = s.intake
      ∧ (strobeCommit s).setup = s.setup ∧ (strobeCommit s).paper.active = s.paper.active
      ∧ (strobeCommit s).plan.budgetRemakes = s.plan.budgetRemakes
      ∧ (strobeCommit s).plan.jamRemakes = s.plan.jamRemakes
      ∧ (strobeCommit s).fetch.reads = s.fetch.reads ∧ (strobeCommit s).fetch.underruns = s.fetch.underruns
      ∧ (strobeCommit s).pulse = s.pulse
      ∧ (strobeCommit s).line = s.line ∧ (strobeCommit s).supply = s.supply ∧ (strobeCommit s).web.hold = s.web.hold
      ∧ (strobeCommit s).web.cutterPos = s.web.cutterPos ∧ (strobeCommit s).web.waste = s.web.waste
      ∧ (strobeCommit s).web.spoils = s.web.spoils
      ∧ (strobeCommit s).cut.knife = s.cut.knife ∧ (strobeCommit s).cut.leftHome = s.cut.leftHome
      ∧ (strobeCommit s).cut.timer = s.cut.timer
      ∧ (strobeCommit s).cut.solenoid = s.cut.solenoid ∧ (strobeCommit s).cut.offset = s.cut.offset
      ∧ (strobeCommit s).cut.misses = s.cut.misses
      ∧ (strobeCommit s).cut.markLost = s.cut.markLost ∧ (strobeCommit s).cut.home = s.cut.home
      ∧ (strobeCommit s).cut.jam = s.cut.jam
      ∧ (strobeCommit s).sort.lane = s.sort.lane ∧ (strobeCommit s).sort.rejectCount = s.sort.rejectCount
      ∧ (strobeCommit s).sort.rejectFull = s.sort.rejectFull ∧ (strobeCommit s).sort.misroutes = s.sort.misroutes
      ∧ (strobeCommit s).sort.clock = s.sort.clock ∧ (strobeCommit s).sort.keys = s.sort.keys
      ∧ (strobeCommit s).sort.blink1 = s.sort.blink1
      ∧ (strobeCommit s).sort.blink4 = s.sort.blink4 ∧ (strobeCommit s).eng = s.eng ∧ (strobeCommit s).out = s.out
      ∧ (strobeCommit s).pending = s.pending := by
  unfold strobeCommit
  (repeat' split) <;> simp

@[simp] theorem endPulse_frame (e : Nat) (c : Chan) (s : State) :
    (endPulse e c s).link = s.link ∧ (endPulse e c s).intake = s.intake ∧ (endPulse e c s).setup = s.setup
      ∧ (endPulse e c s).paper = s.paper
      ∧ (endPulse e c s).plan = s.plan ∧ (endPulse e c s).fetch = s.fetch ∧ (endPulse e c s).pulse = s.pulse
      ∧ (endPulse e c s).line.w = s.line.w
      ∧ (endPulse e c s).line.web = s.line.web ∧ (endPulse e c s).line.prescale = s.line.prescale
      ∧ (endPulse e c s).line.divisor = s.line.divisor
      ∧ (endPulse e c s).line.supervision = s.line.supervision ∧ (endPulse e c s).line.breakCount = s.line.breakCount
      ∧ (endPulse e c s).line.punch = s.line.punch ∧ (endPulse e c s).line.lineFrame = s.line.lineFrame
      ∧ (endPulse e c s).line.webReady = s.line.webReady ∧ (endPulse e c s).supply = s.supply ∧ (endPulse e c s).web = s.web
      ∧ (endPulse e c s).cut = s.cut ∧ (endPulse e c s).sort = s.sort ∧ (endPulse e c s).eng = s.eng
      ∧ (endPulse e c s).out = s.out
      ∧ (endPulse e c s).pending = s.pending := by
  simp [endPulse]

@[simp] theorem truncateLine_frame (s : State) :
    (truncateLine s).link = s.link ∧ (truncateLine s).intake = s.intake ∧ (truncateLine s).setup = s.setup
      ∧ (truncateLine s).paper = s.paper
      ∧ (truncateLine s).plan = s.plan ∧ (truncateLine s).fetch = s.fetch ∧ (truncateLine s).pulse = s.pulse
      ∧ (truncateLine s).line.w = s.line.w
      ∧ (truncateLine s).line.web = s.line.web ∧ (truncateLine s).line.prescale = s.line.prescale
      ∧ (truncateLine s).line.divisor = s.line.divisor
      ∧ (truncateLine s).line.supervision = s.line.supervision ∧ (truncateLine s).line.breakCount = s.line.breakCount
      ∧ (truncateLine s).line.punch = s.line.punch ∧ (truncateLine s).line.lineFrame = s.line.lineFrame
      ∧ (truncateLine s).line.webReady = s.line.webReady ∧ (truncateLine s).supply = s.supply
      ∧ (truncateLine s).web.nextNumber = s.web.nextNumber
      ∧ (truncateLine s).web.hold = s.web.hold ∧ (truncateLine s).web.cutterPos = s.web.cutterPos
      ∧ (truncateLine s).web.waste = s.web.waste
      ∧ (truncateLine s).web.spoils = s.web.spoils ∧ (truncateLine s).cut = s.cut ∧ (truncateLine s).sort = s.sort
      ∧ (truncateLine s).eng = s.eng
      ∧ (truncateLine s).out = s.out ∧ (truncateLine s).pending = s.pending := by
  unfold truncateLine
  (repeat' split) <;> simp

@[simp] theorem darkLine_frame (s : State) :
    (darkLine s).link = s.link ∧ (darkLine s).intake = s.intake ∧ (darkLine s).setup = s.setup ∧ (darkLine s).paper = s.paper
      ∧ (darkLine s).plan = s.plan ∧ (darkLine s).fetch = s.fetch ∧ (darkLine s).pulse = s.pulse
      ∧ (darkLine s).line.w = s.line.w
      ∧ (darkLine s).line.web = s.line.web ∧ (darkLine s).line.prescale = s.line.prescale
      ∧ (darkLine s).line.divisor = s.line.divisor
      ∧ (darkLine s).line.supervision = s.line.supervision ∧ (darkLine s).line.breakCount = s.line.breakCount
      ∧ (darkLine s).line.punch = s.line.punch
      ∧ (darkLine s).line.webReady = s.line.webReady ∧ (darkLine s).supply = s.supply ∧ (darkLine s).web = s.web
      ∧ (darkLine s).cut = s.cut
      ∧ (darkLine s).sort = s.sort ∧ (darkLine s).eng = s.eng ∧ (darkLine s).out = s.out
      ∧ (darkLine s).pending = s.pending := by
  simp [darkLine]

@[simp] theorem advanceW_frame (s : State) :
    (advanceW s).link = s.link ∧ (advanceW s).intake = s.intake ∧ (advanceW s).setup = s.setup ∧ (advanceW s).paper = s.paper
      ∧ (advanceW s).plan = s.plan ∧ (advanceW s).fetch = s.fetch ∧ (advanceW s).pulse = s.pulse
      ∧ (advanceW s).line.web = s.line.web
      ∧ (advanceW s).line.prescale = s.line.prescale ∧ (advanceW s).line.divisor = s.line.divisor
      ∧ (advanceW s).line.supervision = s.line.supervision
      ∧ (advanceW s).line.breakCount = s.line.breakCount ∧ (advanceW s).line.punch = s.line.punch
      ∧ (advanceW s).line.head = s.line.head
      ∧ (advanceW s).line.lineFrame = s.line.lineFrame ∧ (advanceW s).line.webReady = s.line.webReady
      ∧ (advanceW s).supply = s.supply
      ∧ (advanceW s).web = s.web ∧ (advanceW s).cut = s.cut ∧ (advanceW s).sort = s.sort ∧ (advanceW s).eng = s.eng
      ∧ (advanceW s).out = s.out
      ∧ (advanceW s).pending = s.pending := by
  simp [advanceW]

@[simp] theorem countBreak_frame (paper : Bool) (s : State) :
    (countBreak paper s).1.link = s.link ∧ (countBreak paper s).1.intake = s.intake ∧ (countBreak paper s).1.setup = s.setup
      ∧ (countBreak paper s).1.paper = s.paper ∧ (countBreak paper s).1.plan = s.plan ∧ (countBreak paper s).1.fetch = s.fetch
      ∧ (countBreak paper s).1.pulse = s.pulse ∧ (countBreak paper s).1.line.w = s.line.w
      ∧ (countBreak paper s).1.line.web = s.line.web
      ∧ (countBreak paper s).1.line.prescale = s.line.prescale ∧ (countBreak paper s).1.line.divisor = s.line.divisor
      ∧ (countBreak paper s).1.line.supervision = s.line.supervision ∧ (countBreak paper s).1.line.punch = s.line.punch
      ∧ (countBreak paper s).1.line.head = s.line.head ∧ (countBreak paper s).1.line.lineFrame = s.line.lineFrame
      ∧ (countBreak paper s).1.line.webReady = s.line.webReady ∧ (countBreak paper s).1.supply = s.supply
      ∧ (countBreak paper s).1.web = s.web
      ∧ (countBreak paper s).1.cut = s.cut ∧ (countBreak paper s).1.sort = s.sort ∧ (countBreak paper s).1.eng = s.eng
      ∧ (countBreak paper s).1.out = s.out ∧ (countBreak paper s).1.pending = s.pending := by
  unfold countBreak
  (repeat' split) <;> simp

@[simp] theorem endFrame_frame (p : Word) (s : State) :
    (endFrame p s).link.area = s.link.area ∧ (endFrame p s).link.areaSet = s.link.areaSet
      ∧ (endFrame p s).link.unreported = s.link.unreported
      ∧ (endFrame p s).link.idleTimer = s.link.idleTimer ∧ (endFrame p s).link.readData = s.link.readData
      ∧ (endFrame p s).intake = s.intake
      ∧ (endFrame p s).setup = s.setup ∧ (endFrame p s).paper.active = s.paper.active
      ∧ (endFrame p s).paper.target = s.paper.target
      ∧ (endFrame p s).paper.timer = s.paper.timer ∧ (endFrame p s).plan.switchFlag = s.plan.switchFlag
      ∧ (endFrame p s).plan.framesExposed = s.plan.framesExposed
      ∧ (endFrame p s).fetch.reads = s.fetch.reads ∧ (endFrame p s).fetch.underruns = s.fetch.underruns
      ∧ (endFrame p s).pulse = s.pulse
      ∧ (endFrame p s).line = s.line ∧ (endFrame p s).supply = s.supply ∧ (endFrame p s).web.nextNumber = s.web.nextNumber
      ∧ (endFrame p s).web.hold = s.web.hold ∧ (endFrame p s).web.cutterPos = s.web.cutterPos
      ∧ (endFrame p s).web.waste = s.web.waste
      ∧ (endFrame p s).web.spoils = s.web.spoils ∧ (endFrame p s).cut = s.cut ∧ (endFrame p s).sort.lane = s.sort.lane
      ∧ (endFrame p s).sort.rejectCount = s.sort.rejectCount ∧ (endFrame p s).sort.rejectFull = s.sort.rejectFull
      ∧ (endFrame p s).sort.misroutes = s.sort.misroutes ∧ (endFrame p s).sort.clock = s.sort.clock
      ∧ (endFrame p s).sort.keys = s.sort.keys
      ∧ (endFrame p s).sort.blink1 = s.sort.blink1 ∧ (endFrame p s).sort.blink4 = s.sort.blink4 ∧ (endFrame p s).eng = s.eng
      ∧ (endFrame p s).out = s.out ∧ (endFrame p s).pending = s.pending := by
  unfold endFrame
  (repeat' split) <;> simp

@[simp] theorem frameLine_frame (e : MapEntry) (f : FrameInfo) (p : Word) (s : State) :
    (frameLine e f p s).link = s.link ∧ (frameLine e f p s).intake = s.intake ∧ (frameLine e f p s).paper = s.paper
      ∧ (frameLine e f p s).plan = s.plan ∧ (frameLine e f p s).fetch.reads = s.fetch.reads
      ∧ (frameLine e f p s).supply = s.supply
      ∧ (frameLine e f p s).web.nextNumber = s.web.nextNumber ∧ (frameLine e f p s).web.hold = s.web.hold
      ∧ (frameLine e f p s).web.cutterPos = s.web.cutterPos ∧ (frameLine e f p s).web.waste = s.web.waste
      ∧ (frameLine e f p s).web.spoils = s.web.spoils ∧ (frameLine e f p s).cut = s.cut ∧ (frameLine e f p s).sort = s.sort
      ∧ (frameLine e f p s).eng = s.eng ∧ (frameLine e f p s).out = s.out ∧ (frameLine e f p s).pending = s.pending := by
  simp only [frameLine]
  (repeat' split) <;> simp

@[simp] theorem readyLine_frame (p : Word) (s : State) :
    (readyLine p s).link = s.link ∧ (readyLine p s).intake = s.intake ∧ (readyLine p s).paper = s.paper
      ∧ (readyLine p s).plan = s.plan
      ∧ (readyLine p s).fetch.reads = s.fetch.reads ∧ (readyLine p s).supply = s.supply
      ∧ (readyLine p s).web.hold = s.web.hold
      ∧ (readyLine p s).web.cutterPos = s.web.cutterPos ∧ (readyLine p s).web.waste = s.web.waste
      ∧ (readyLine p s).web.spoils = s.web.spoils
      ∧ (readyLine p s).cut = s.cut ∧ (readyLine p s).sort = s.sort ∧ (readyLine p s).eng = s.eng
      ∧ (readyLine p s).out = s.out
      ∧ (readyLine p s).pending = s.pending := by
  unfold readyLine
  (repeat' split) <;> simp

@[simp] theorem supervise_frame (s : State) :
    (supervise s).link = s.link ∧ (supervise s).intake = s.intake ∧ (supervise s).setup = s.setup
      ∧ (supervise s).paper = s.paper
      ∧ (supervise s).plan = s.plan ∧ (supervise s).fetch = s.fetch ∧ (supervise s).pulse = s.pulse
      ∧ (supervise s).line.w = s.line.w
      ∧ (supervise s).line.web = s.line.web ∧ (supervise s).line.prescale = s.line.prescale
      ∧ (supervise s).line.divisor = s.line.divisor
      ∧ (supervise s).line.breakCount = s.line.breakCount ∧ (supervise s).line.punch = s.line.punch
      ∧ (supervise s).line.head = s.line.head
      ∧ (supervise s).line.lineFrame = s.line.lineFrame ∧ (supervise s).line.webReady = s.line.webReady
      ∧ (supervise s).supply = s.supply
      ∧ (supervise s).web = s.web ∧ (supervise s).cut = s.cut ∧ (supervise s).sort = s.sort ∧ (supervise s).eng = s.eng
      ∧ (supervise s).out = s.out
      ∧ (supervise s).pending = s.pending := by
  simp [supervise]

@[simp] theorem readyStrobe_frame (paper : Bool) (s : State) :
    (readyStrobe paper s).link.area = s.link.area ∧ (readyStrobe paper s).link.areaSet = s.link.areaSet
      ∧ (readyStrobe paper s).link.readData = s.link.readData
      ∧ (readyStrobe paper s).intake.lostPending = s.intake.lostPending
      ∧ (readyStrobe paper s).intake.cellRead = s.intake.cellRead ∧ (readyStrobe paper s).intake.cellOwed = s.intake.cellOwed
      ∧ (readyStrobe paper s).intake.detached = s.intake.detached ∧ (readyStrobe paper s).paper.active = s.paper.active
      ∧ (readyStrobe paper s).plan.framesExposed = s.plan.framesExposed ∧ (readyStrobe paper s).supply.sags = s.supply.sags
      ∧ (readyStrobe paper s).web.cutterPos = s.web.cutterPos ∧ (readyStrobe paper s).cut.knife = s.cut.knife
      ∧ (readyStrobe paper s).cut.leftHome = s.cut.leftHome ∧ (readyStrobe paper s).cut.solenoid = s.cut.solenoid
      ∧ (readyStrobe paper s).cut.offset = s.cut.offset ∧ (readyStrobe paper s).cut.misses = s.cut.misses
      ∧ (readyStrobe paper s).cut.markLost = s.cut.markLost ∧ (readyStrobe paper s).cut.home = s.cut.home
      ∧ (readyStrobe paper s).cut.jam = s.cut.jam
      ∧ (readyStrobe paper s).sort.lane = s.sort.lane ∧ (readyStrobe paper s).sort.rejectCount = s.sort.rejectCount
      ∧ (readyStrobe paper s).sort.rejectFull = s.sort.rejectFull ∧ (readyStrobe paper s).sort.misroutes = s.sort.misroutes
      ∧ (readyStrobe paper s).sort.keys = s.sort.keys ∧ (readyStrobe paper s).sort.blink1 = s.sort.blink1
      ∧ (readyStrobe paper s).sort.blink4 = s.sort.blink4 ∧ (readyStrobe paper s).eng.resetKind = s.eng.resetKind
      ∧ (readyStrobe paper s).eng.hold = s.eng.hold ∧ (readyStrobe paper s).pending = s.pending := by
  simp only [readyStrobe]
  (repeat' split) <;> simp

@[simp] theorem rampStrobe_frame (paper : Bool) (s : State) :
    (rampStrobe paper s).link.area = s.link.area ∧ (rampStrobe paper s).link.areaSet = s.link.areaSet
      ∧ (rampStrobe paper s).link.readData = s.link.readData ∧ (rampStrobe paper s).intake.lostPending = s.intake.lostPending
      ∧ (rampStrobe paper s).intake.cellRead = s.intake.cellRead ∧ (rampStrobe paper s).intake.cellOwed = s.intake.cellOwed
      ∧ (rampStrobe paper s).intake.detached = s.intake.detached ∧ (rampStrobe paper s).setup = s.setup
      ∧ (rampStrobe paper s).paper.active = s.paper.active ∧ (rampStrobe paper s).plan.framesExposed = s.plan.framesExposed
      ∧ (rampStrobe paper s).fetch.underruns = s.fetch.underruns ∧ (rampStrobe paper s).pulse = s.pulse
      ∧ (rampStrobe paper s).line.prescale = s.line.prescale ∧ (rampStrobe paper s).line.divisor = s.line.divisor
      ∧ (rampStrobe paper s).line.punch = s.line.punch ∧ (rampStrobe paper s).line.webReady = s.line.webReady
      ∧ (rampStrobe paper s).supply.sags = s.supply.sags ∧ (rampStrobe paper s).web.cutterPos = s.web.cutterPos
      ∧ (rampStrobe paper s).cut.knife = s.cut.knife ∧ (rampStrobe paper s).cut.leftHome = s.cut.leftHome
      ∧ (rampStrobe paper s).cut.solenoid = s.cut.solenoid ∧ (rampStrobe paper s).cut.offset = s.cut.offset
      ∧ (rampStrobe paper s).cut.misses = s.cut.misses ∧ (rampStrobe paper s).cut.markLost = s.cut.markLost
      ∧ (rampStrobe paper s).cut.home = s.cut.home ∧ (rampStrobe paper s).cut.jam = s.cut.jam
      ∧ (rampStrobe paper s).sort.lane = s.sort.lane
      ∧ (rampStrobe paper s).sort.rejectCount = s.sort.rejectCount ∧ (rampStrobe paper s).sort.rejectFull = s.sort.rejectFull
      ∧ (rampStrobe paper s).sort.misroutes = s.sort.misroutes ∧ (rampStrobe paper s).sort.keys = s.sort.keys
      ∧ (rampStrobe paper s).sort.blink1 = s.sort.blink1 ∧ (rampStrobe paper s).sort.blink4 = s.sort.blink4
      ∧ (rampStrobe paper s).eng.resetKind = s.eng.resetKind ∧ (rampStrobe paper s).eng.hold = s.eng.hold
      ∧ (rampStrobe paper s).pending = s.pending := by
  simp only [rampStrobe]
  (repeat' split) <;> simp

@[simp] theorem sagSample_frame (p : Word) (s : State) :
    (sagSample p s).link = s.link ∧ (sagSample p s).intake = s.intake ∧ (sagSample p s).setup = s.setup
      ∧ (sagSample p s).paper = s.paper
      ∧ (sagSample p s).plan = s.plan ∧ (sagSample p s).fetch = s.fetch ∧ (sagSample p s).pulse = s.pulse
      ∧ (sagSample p s).line = s.line
      ∧ (sagSample p s).supply.watching = s.supply.watching ∧ (sagSample p s).supply.settle = s.supply.settle
      ∧ (sagSample p s).supply.strokeEnded = s.supply.strokeEnded ∧ (sagSample p s).web.nextNumber = s.web.nextNumber
      ∧ (sagSample p s).web.hold = s.web.hold ∧ (sagSample p s).web.cutterPos = s.web.cutterPos
      ∧ (sagSample p s).web.waste = s.web.waste
      ∧ (sagSample p s).web.spoils = s.web.spoils ∧ (sagSample p s).cut = s.cut ∧ (sagSample p s).sort = s.sort
      ∧ (sagSample p s).eng = s.eng
      ∧ (sagSample p s).out = s.out ∧ (sagSample p s).pending = s.pending := by
  unfold sagSample
  (repeat' split) <;> simp

@[simp] theorem sample_frame (good : Bool) (p : Word) (s : State) :
    (sample good p s).link = s.link ∧ (sample good p s).intake = s.intake ∧ (sample good p s).setup = s.setup
      ∧ (sample good p s).paper = s.paper
      ∧ (sample good p s).plan = s.plan ∧ (sample good p s).fetch = s.fetch ∧ (sample good p s).pulse = s.pulse
      ∧ (sample good p s).line = s.line
      ∧ (sample good p s).web.nextNumber = s.web.nextNumber ∧ (sample good p s).web.hold = s.web.hold
      ∧ (sample good p s).web.cutterPos = s.web.cutterPos ∧ (sample good p s).web.waste = s.web.waste
      ∧ (sample good p s).web.spoils = s.web.spoils
      ∧ (sample good p s).cut = s.cut ∧ (sample good p s).sort = s.sort ∧ (sample good p s).eng = s.eng
      ∧ (sample good p s).out = s.out
      ∧ (sample good p s).pending = s.pending := by
  unfold sample
  (repeat' split) <;> simp

@[simp] theorem paperStrobe_frame (h : Bool) (s : State) :
    (paperStrobe h s).link.area = s.link.area ∧ (paperStrobe h s).link.areaSet = s.link.areaSet
      ∧ (paperStrobe h s).link.readData = s.link.readData
      ∧ (paperStrobe h s).intake.lostPending = s.intake.lostPending ∧ (paperStrobe h s).intake.cellRead = s.intake.cellRead
      ∧ (paperStrobe h s).intake.cellOwed = s.intake.cellOwed ∧ (paperStrobe h s).intake.detached = s.intake.detached
      ∧ (paperStrobe h s).setup = s.setup
      ∧ (paperStrobe h s).paper.active = s.paper.active ∧ (paperStrobe h s).plan.framesExposed = s.plan.framesExposed
      ∧ (paperStrobe h s).fetch.underruns = s.fetch.underruns ∧ (paperStrobe h s).pulse = s.pulse
      ∧ (paperStrobe h s).line.w = s.line.w
      ∧ (paperStrobe h s).line.prescale = s.line.prescale ∧ (paperStrobe h s).line.divisor = s.line.divisor
      ∧ (paperStrobe h s).line.punch = s.line.punch
      ∧ (paperStrobe h s).line.webReady = s.line.webReady ∧ (paperStrobe h s).supply.sags = s.supply.sags
      ∧ (paperStrobe h s).web.nextNumber = s.web.nextNumber ∧ (paperStrobe h s).web.cutterPos = s.web.cutterPos
      ∧ (paperStrobe h s).cut.knife = s.cut.knife
      ∧ (paperStrobe h s).cut.leftHome = s.cut.leftHome ∧ (paperStrobe h s).cut.solenoid = s.cut.solenoid
      ∧ (paperStrobe h s).cut.offset = s.cut.offset
      ∧ (paperStrobe h s).cut.misses = s.cut.misses ∧ (paperStrobe h s).cut.markLost = s.cut.markLost
      ∧ (paperStrobe h s).cut.home = s.cut.home
      ∧ (paperStrobe h s).cut.jam = s.cut.jam ∧ (paperStrobe h s).sort.lane = s.sort.lane
      ∧ (paperStrobe h s).sort.rejectCount = s.sort.rejectCount
      ∧ (paperStrobe h s).sort.rejectFull = s.sort.rejectFull ∧ (paperStrobe h s).sort.misroutes = s.sort.misroutes
      ∧ (paperStrobe h s).sort.keys = s.sort.keys ∧ (paperStrobe h s).sort.blink1 = s.sort.blink1
      ∧ (paperStrobe h s).sort.blink4 = s.sort.blink4
      ∧ (paperStrobe h s).eng.resetKind = s.eng.resetKind ∧ (paperStrobe h s).eng.hold = s.eng.hold
      ∧ (paperStrobe h s).pending = s.pending := by
  simp only [paperStrobe]
  (repeat' split) <;> simp

@[simp] theorem runningStrobe_frame (good : Bool) (p : Word) (s : State) :
    (runningStrobe good p s).link.area = s.link.area ∧ (runningStrobe good p s).link.areaSet = s.link.areaSet
      ∧ (runningStrobe good p s).link.readData = s.link.readData
      ∧ (runningStrobe good p s).intake.lostPending = s.intake.lostPending
      ∧ (runningStrobe good p s).intake.cellRead = s.intake.cellRead
      ∧ (runningStrobe good p s).intake.cellOwed = s.intake.cellOwed
      ∧ (runningStrobe good p s).intake.detached = s.intake.detached ∧ (runningStrobe good p s).setup = s.setup
      ∧ (runningStrobe good p s).paper.active = s.paper.active
      ∧ (runningStrobe good p s).plan.framesExposed = s.plan.framesExposed
      ∧ (runningStrobe good p s).fetch.underruns = s.fetch.underruns ∧ (runningStrobe good p s).pulse = s.pulse
      ∧ (runningStrobe good p s).line.w = s.line.w ∧ (runningStrobe good p s).line.prescale = s.line.prescale
      ∧ (runningStrobe good p s).line.divisor = s.line.divisor ∧ (runningStrobe good p s).line.punch = s.line.punch
      ∧ (runningStrobe good p s).line.webReady = s.line.webReady ∧ (runningStrobe good p s).web.nextNumber = s.web.nextNumber
      ∧ (runningStrobe good p s).cut.offset = s.cut.offset ∧ (runningStrobe good p s).cut.home = s.cut.home
      ∧ (runningStrobe good p s).cut.jam = s.cut.jam ∧ (runningStrobe good p s).sort.rejectCount = s.sort.rejectCount
      ∧ (runningStrobe good p s).sort.rejectFull = s.sort.rejectFull
      ∧ (runningStrobe good p s).sort.misroutes = s.sort.misroutes
      ∧ (runningStrobe good p s).sort.keys = s.sort.keys ∧ (runningStrobe good p s).sort.blink1 = s.sort.blink1
      ∧ (runningStrobe good p s).sort.blink4 = s.sort.blink4 ∧ (runningStrobe good p s).eng.resetKind = s.eng.resetKind
      ∧ (runningStrobe good p s).eng.hold = s.eng.hold ∧ (runningStrobe good p s).pending = s.pending := by
  unfold runningStrobe
  (repeat' split) <;> simp

@[simp] theorem lineTiming_frame (paper : Bool) (s : State) :
    (lineTiming paper s).link.area = s.link.area ∧ (lineTiming paper s).link.areaSet = s.link.areaSet
      ∧ (lineTiming paper s).link.readData = s.link.readData ∧ (lineTiming paper s).intake.lostPending = s.intake.lostPending
      ∧ (lineTiming paper s).intake.cellRead = s.intake.cellRead ∧ (lineTiming paper s).intake.cellOwed = s.intake.cellOwed
      ∧ (lineTiming paper s).intake.detached = s.intake.detached ∧ (lineTiming paper s).paper.active = s.paper.active
      ∧ (lineTiming paper s).plan.framesExposed = s.plan.framesExposed ∧ (lineTiming paper s).supply.sags = s.supply.sags
      ∧ (lineTiming paper s).web.cutterPos = s.web.cutterPos ∧ (lineTiming paper s).cut.knife = s.cut.knife
      ∧ (lineTiming paper s).cut.leftHome = s.cut.leftHome ∧ (lineTiming paper s).cut.solenoid = s.cut.solenoid
      ∧ (lineTiming paper s).cut.offset = s.cut.offset ∧ (lineTiming paper s).cut.misses = s.cut.misses
      ∧ (lineTiming paper s).cut.markLost = s.cut.markLost ∧ (lineTiming paper s).cut.home = s.cut.home
      ∧ (lineTiming paper s).cut.jam = s.cut.jam
      ∧ (lineTiming paper s).sort.lane = s.sort.lane ∧ (lineTiming paper s).sort.rejectCount = s.sort.rejectCount
      ∧ (lineTiming paper s).sort.rejectFull = s.sort.rejectFull ∧ (lineTiming paper s).sort.misroutes = s.sort.misroutes
      ∧ (lineTiming paper s).sort.keys = s.sort.keys ∧ (lineTiming paper s).sort.blink1 = s.sort.blink1
      ∧ (lineTiming paper s).sort.blink4 = s.sort.blink4 ∧ (lineTiming paper s).eng.resetKind = s.eng.resetKind
      ∧ (lineTiming paper s).eng.hold = s.eng.hold ∧ (lineTiming paper s).pending = s.pending := by
  unfold lineTiming
  (repeat' split) <;> simp

@[simp] theorem strobe_frame (paper good : Bool) (s : State) :
    (strobe paper good s).link.area = s.link.area ∧ (strobe paper good s).link.areaSet = s.link.areaSet
      ∧ (strobe paper good s).link.readData = s.link.readData
      ∧ (strobe paper good s).intake.lostPending = s.intake.lostPending
      ∧ (strobe paper good s).intake.cellRead = s.intake.cellRead ∧ (strobe paper good s).intake.cellOwed = s.intake.cellOwed
      ∧ (strobe paper good s).intake.detached = s.intake.detached ∧ (strobe paper good s).paper.active = s.paper.active
      ∧ (strobe paper good s).cut.offset = s.cut.offset ∧ (strobe paper good s).cut.home = s.cut.home
      ∧ (strobe paper good s).cut.jam = s.cut.jam
      ∧ (strobe paper good s).sort.rejectCount = s.sort.rejectCount
      ∧ (strobe paper good s).sort.rejectFull = s.sort.rejectFull
      ∧ (strobe paper good s).sort.misroutes = s.sort.misroutes ∧ (strobe paper good s).sort.keys = s.sort.keys
      ∧ (strobe paper good s).sort.blink1 = s.sort.blink1 ∧ (strobe paper good s).sort.blink4 = s.sort.blink4
      ∧ (strobe paper good s).eng.resetKind = s.eng.resetKind ∧ (strobe paper good s).eng.hold = s.eng.hold
      ∧ (strobe paper good s).pending = s.pending := by
  simp [strobe]

@[simp] theorem webReady_frame (s : State) :
    (webReady s).link.area = s.link.area ∧ (webReady s).link.areaSet = s.link.areaSet
      ∧ (webReady s).link.unreported = s.link.unreported
      ∧ (webReady s).link.idleTimer = s.link.idleTimer ∧ (webReady s).link.readData = s.link.readData
      ∧ (webReady s).intake = s.intake
      ∧ (webReady s).setup = s.setup ∧ (webReady s).paper.active = s.paper.active
      ∧ (webReady s).plan.budgetRemakes = s.plan.budgetRemakes
      ∧ (webReady s).plan.jamRemakes = s.plan.jamRemakes
      ∧ (webReady s).fetch.reads = s.fetch.reads
      ∧ (webReady s).fetch.underruns = s.fetch.underruns ∧ (webReady s).pulse = s.pulse ∧ (webReady s).line.w = s.line.w
      ∧ (webReady s).line.prescale = s.line.prescale ∧ (webReady s).line.divisor = s.line.divisor
      ∧ (webReady s).line.breakCount = s.line.breakCount
      ∧ (webReady s).line.punch = s.line.punch ∧ (webReady s).line.head = s.line.head
      ∧ (webReady s).line.lineFrame = s.line.lineFrame
      ∧ (webReady s).line.webReady = s.line.webReady ∧ (webReady s).supply = s.supply ∧ (webReady s).web.hold = s.web.hold
      ∧ (webReady s).web.cutterPos = s.web.cutterPos ∧ (webReady s).web.waste = s.web.waste
      ∧ (webReady s).web.spoils = s.web.spoils
      ∧ (webReady s).cut.knife = s.cut.knife ∧ (webReady s).cut.leftHome = s.cut.leftHome
      ∧ (webReady s).cut.timer = s.cut.timer
      ∧ (webReady s).cut.solenoid = s.cut.solenoid ∧ (webReady s).cut.offset = s.cut.offset
      ∧ (webReady s).cut.misses = s.cut.misses
      ∧ (webReady s).cut.markLost = s.cut.markLost ∧ (webReady s).cut.home = s.cut.home ∧ (webReady s).cut.jam = s.cut.jam
      ∧ (webReady s).sort.lane = s.sort.lane ∧ (webReady s).sort.rejectCount = s.sort.rejectCount
      ∧ (webReady s).sort.rejectFull = s.sort.rejectFull
      ∧ (webReady s).sort.misroutes = s.sort.misroutes ∧ (webReady s).sort.clock = s.sort.clock
      ∧ (webReady s).sort.keys = s.sort.keys
      ∧ (webReady s).sort.blink1 = s.sort.blink1 ∧ (webReady s).sort.blink4 = s.sort.blink4 ∧ (webReady s).eng = s.eng
      ∧ (webReady s).out = s.out
      ∧ (webReady s).pending = s.pending := by
  simp [webReady]

@[simp] theorem raiseRun_frame (s : State) :
    (raiseRun s).link = s.link ∧ (raiseRun s).intake = s.intake ∧ (raiseRun s).setup = s.setup ∧ (raiseRun s).paper = s.paper
      ∧ (raiseRun s).plan = s.plan ∧ (raiseRun s).fetch = s.fetch ∧ (raiseRun s).pulse = s.pulse
      ∧ (raiseRun s).line.w = s.line.w
      ∧ (raiseRun s).line.supervision = s.line.supervision ∧ (raiseRun s).line.breakCount = s.line.breakCount
      ∧ (raiseRun s).line.punch = s.line.punch
      ∧ (raiseRun s).line.head = s.line.head ∧ (raiseRun s).line.lineFrame = s.line.lineFrame
      ∧ (raiseRun s).line.webReady = s.line.webReady
      ∧ (raiseRun s).supply = s.supply ∧ (raiseRun s).web = s.web ∧ (raiseRun s).cut = s.cut ∧ (raiseRun s).sort = s.sort
      ∧ (raiseRun s).eng = s.eng
      ∧ (raiseRun s).pending = s.pending := by
  simp [raiseRun]

@[simp] theorem enterRunning_frame (jam : Bool) (s : State) :
    (enterRunning jam s).link.area = s.link.area ∧ (enterRunning jam s).link.areaSet = s.link.areaSet
      ∧ (enterRunning jam s).link.readData = s.link.readData ∧ (enterRunning jam s).intake.lostPending = s.intake.lostPending
      ∧ (enterRunning jam s).intake.cellRead = s.intake.cellRead ∧ (enterRunning jam s).intake.cellOwed = s.intake.cellOwed
      ∧ (enterRunning jam s).intake.detached = s.intake.detached ∧ (enterRunning jam s).setup = s.setup
      ∧ (enterRunning jam s).paper.active = s.paper.active ∧ (enterRunning jam s).fetch.underruns = s.fetch.underruns
      ∧ (enterRunning jam s).pulse = s.pulse ∧ (enterRunning jam s).line.w = s.line.w
      ∧ (enterRunning jam s).line.punch = s.line.punch
      ∧ (enterRunning jam s).line.webReady = s.line.webReady ∧ (enterRunning jam s).supply.sags = s.supply.sags
      ∧ (enterRunning jam s).web.cutterPos = s.web.cutterPos ∧ (enterRunning jam s).cut.leftHome = s.cut.leftHome
      ∧ (enterRunning jam s).cut.solenoid = s.cut.solenoid ∧ (enterRunning jam s).cut.offset = s.cut.offset
      ∧ (enterRunning jam s).cut.misses = s.cut.misses ∧ (enterRunning jam s).cut.markLost = s.cut.markLost
      ∧ (enterRunning jam s).cut.home = s.cut.home ∧ (enterRunning jam s).sort.lane = s.sort.lane
      ∧ (enterRunning jam s).sort.rejectCount = s.sort.rejectCount ∧ (enterRunning jam s).sort.rejectFull = s.sort.rejectFull
      ∧ (enterRunning jam s).sort.misroutes = s.sort.misroutes ∧ (enterRunning jam s).sort.keys = s.sort.keys
      ∧ (enterRunning jam s).sort.blink1 = s.sort.blink1 ∧ (enterRunning jam s).sort.blink4 = s.sort.blink4
      ∧ (enterRunning jam s).eng.resetKind = s.eng.resetKind ∧ (enterRunning jam s).eng.hold = s.eng.hold
      ∧ (enterRunning jam s).pending = s.pending := by
  simp only [enterRunning]
  (repeat' split) <;> simp

@[simp] theorem writeField_frame (s : State) (x : StatusField) :
    (writeField s x).link = s.link ∧ (writeField s x).intake = s.intake ∧ (writeField s x).setup = s.setup
      ∧ (writeField s x).paper = s.paper
      ∧ (writeField s x).plan = s.plan ∧ (writeField s x).fetch = s.fetch ∧ (writeField s x).pulse = s.pulse
      ∧ (writeField s x).line = s.line
      ∧ (writeField s x).supply = s.supply ∧ (writeField s x).web = s.web ∧ (writeField s x).cut = s.cut
      ∧ (writeField s x).sort = s.sort
      ∧ (writeField s x).eng = s.eng ∧ (writeField s x).pending = s.pending := by
  simp [writeField]

@[simp] theorem writeBlock_frame (s : State) :
    (writeBlock s).link = s.link ∧ (writeBlock s).intake = s.intake ∧ (writeBlock s).setup = s.setup
      ∧ (writeBlock s).paper = s.paper
      ∧ (writeBlock s).plan = s.plan ∧ (writeBlock s).fetch = s.fetch ∧ (writeBlock s).pulse = s.pulse
      ∧ (writeBlock s).line = s.line
      ∧ (writeBlock s).supply = s.supply ∧ (writeBlock s).web = s.web ∧ (writeBlock s).cut = s.cut
      ∧ (writeBlock s).sort = s.sort
      ∧ (writeBlock s).eng = s.eng ∧ (writeBlock s).pending = s.pending := by
  refine ⟨?_, ?_, ?_, ?_, ?_, ?_, ?_, ?_, ?_, ?_, ?_, ?_, ?_, ?_⟩
  · unfold writeBlock
    exact (foldl_keep (fun s : State => s.link) _ (fun s x => by simp) _ _).trans (by simp)
  · unfold writeBlock
    exact (foldl_keep (fun s : State => s.intake) _ (fun s x => by simp) _ _).trans (by simp)
  · unfold writeBlock
    exact (foldl_keep (fun s : State => s.setup) _ (fun s x => by simp) _ _).trans (by simp)
  · unfold writeBlock
    exact (foldl_keep (fun s : State => s.paper) _ (fun s x => by simp) _ _).trans (by simp)
  · unfold writeBlock
    exact (foldl_keep (fun s : State => s.plan) _ (fun s x => by simp) _ _).trans (by simp)
  · unfold writeBlock
    exact (foldl_keep (fun s : State => s.fetch) _ (fun s x => by simp) _ _).trans (by simp)
  · unfold writeBlock
    exact (foldl_keep (fun s : State => s.pulse) _ (fun s x => by simp) _ _).trans (by simp)
  · unfold writeBlock
    exact (foldl_keep (fun s : State => s.line) _ (fun s x => by simp) _ _).trans (by simp)
  · unfold writeBlock
    exact (foldl_keep (fun s : State => s.supply) _ (fun s x => by simp) _ _).trans (by simp)
  · unfold writeBlock
    exact (foldl_keep (fun s : State => s.web) _ (fun s x => by simp) _ _).trans (by simp)
  · unfold writeBlock
    exact (foldl_keep (fun s : State => s.cut) _ (fun s x => by simp) _ _).trans (by simp)
  · unfold writeBlock
    exact (foldl_keep (fun s : State => s.sort) _ (fun s x => by simp) _ _).trans (by simp)
  · unfold writeBlock
    exact (foldl_keep (fun s : State => s.eng) _ (fun s x => by simp) _ _).trans (by simp)
  · unfold writeBlock
    exact (foldl_keep (fun s : State => s.pending) _ (fun s x => by simp) _ _).trans (by simp)

@[simp] theorem publish_frame (before s : State) :
    (publish before s).intake = s.intake ∧ (publish before s).setup = s.setup ∧ (publish before s).paper = s.paper
      ∧ (publish before s).plan = s.plan ∧ (publish before s).fetch = s.fetch ∧ (publish before s).pulse = s.pulse
      ∧ (publish before s).line = s.line ∧ (publish before s).supply = s.supply ∧ (publish before s).web = s.web
      ∧ (publish before s).cut = s.cut ∧ (publish before s).sort = s.sort ∧ (publish before s).eng = s.eng
      ∧ (publish before s).pending = s.pending ∧ (publish before s).link.area = s.link.area
      ∧ (publish before s).link.areaSet = s.link.areaSet ∧ (publish before s).link.causes = s.link.causes
      ∧ (publish before s).link.unreported = s.link.unreported ∧ (publish before s).link.idleTimer = s.link.idleTimer
      ∧ (publish before s).link.waiting = s.link.waiting ∧ (publish before s).link.readData = s.link.readData := by
  refine ⟨?_, ?_, ?_, ?_, ?_, ?_, ?_, ?_, ?_, ?_, ?_, ?_, ?_, ?_, ?_, ?_, ?_, ?_, ?_, ?_⟩
  · unfold publish; dsimp only; split; exact (foldl_keep (fun s : State => s.intake) _ (fun s x => by simp) _ _); rfl
  · unfold publish; dsimp only; split; exact (foldl_keep (fun s : State => s.setup) _ (fun s x => by simp) _ _); rfl
  · unfold publish; dsimp only; split; exact (foldl_keep (fun s : State => s.paper) _ (fun s x => by simp) _ _); rfl
  · unfold publish; dsimp only; split; exact (foldl_keep (fun s : State => s.plan) _ (fun s x => by simp) _ _); rfl
  · unfold publish; dsimp only; split; exact (foldl_keep (fun s : State => s.fetch) _ (fun s x => by simp) _ _); rfl
  · unfold publish; dsimp only; split; exact (foldl_keep (fun s : State => s.pulse) _ (fun s x => by simp) _ _); rfl
  · unfold publish; dsimp only; split; exact (foldl_keep (fun s : State => s.line) _ (fun s x => by simp) _ _); rfl
  · unfold publish; dsimp only; split; exact (foldl_keep (fun s : State => s.supply) _ (fun s x => by simp) _ _); rfl
  · unfold publish; dsimp only; split; exact (foldl_keep (fun s : State => s.web) _ (fun s x => by simp) _ _); rfl
  · unfold publish; dsimp only; split; exact (foldl_keep (fun s : State => s.cut) _ (fun s x => by simp) _ _); rfl
  · unfold publish; dsimp only; split; exact (foldl_keep (fun s : State => s.sort) _ (fun s x => by simp) _ _); rfl
  · unfold publish; dsimp only; split; exact (foldl_keep (fun s : State => s.eng) _ (fun s x => by simp) _ _); rfl
  · unfold publish; dsimp only; split; exact (foldl_keep (fun s : State => s.pending) _ (fun s x => by simp) _ _); rfl
  · unfold publish; dsimp only; split; exact (foldl_keep (fun s : State => s.link.area) _ (fun s x => by simp) _ _); rfl
  · unfold publish; dsimp only; split; exact (foldl_keep (fun s : State => s.link.areaSet) _ (fun s x => by simp) _ _); rfl
  · unfold publish; dsimp only; split; exact (foldl_keep (fun s : State => s.link.causes) _ (fun s x => by simp) _ _); rfl
  · unfold publish; dsimp only; split; exact (foldl_keep (fun s : State => s.link.unreported) _ (fun s x => by simp) _ _); rfl
  · unfold publish; dsimp only; split; exact (foldl_keep (fun s : State => s.link.idleTimer) _ (fun s x => by simp) _ _); rfl
  · unfold publish; dsimp only; split; exact (foldl_keep (fun s : State => s.link.waiting) _ (fun s x => by simp) _ _); rfl
  · unfold publish; dsimp only; split; exact (foldl_keep (fun s : State => s.link.readData) _ (fun s x => by simp) _ _); rfl

@[simp] theorem pushPrice_frame (slot base : Nat) (p : Price) (s : State) :
    (pushPrice slot base p s).link.area = s.link.area ∧ (pushPrice slot base p s).link.areaSet = s.link.areaSet
      ∧ (pushPrice slot base p s).link.causes = s.link.causes ∧ (pushPrice slot base p s).link.unreported = s.link.unreported
      ∧ (pushPrice slot base p s).link.idleTimer = s.link.idleTimer
      ∧ (pushPrice slot base p s).link.readData = s.link.readData
      ∧ (pushPrice slot base p s).intake = s.intake ∧ (pushPrice slot base p s).setup = s.setup
      ∧ (pushPrice slot base p s).paper = s.paper
      ∧ (pushPrice slot base p s).plan = s.plan ∧ (pushPrice slot base p s).fetch = s.fetch
      ∧ (pushPrice slot base p s).pulse = s.pulse
      ∧ (pushPrice slot base p s).line = s.line ∧ (pushPrice slot base p s).supply = s.supply
      ∧ (pushPrice slot base p s).web = s.web
      ∧ (pushPrice slot base p s).cut = s.cut ∧ (pushPrice slot base p s).sort = s.sort
      ∧ (pushPrice slot base p s).eng = s.eng
      ∧ (pushPrice slot base p s).out = s.out ∧ (pushPrice slot base p s).pending = s.pending := by
  simp [pushPrice]

@[simp] theorem countReturn_frame (s : State) :
    (countReturn s).link.area = s.link.area ∧ (countReturn s).link.areaSet = s.link.areaSet
      ∧ (countReturn s).link.waiting = s.link.waiting
      ∧ (countReturn s).link.readData = s.link.readData ∧ (countReturn s).intake = s.intake ∧ (countReturn s).setup = s.setup
      ∧ (countReturn s).paper = s.paper ∧ (countReturn s).plan = s.plan ∧ (countReturn s).fetch = s.fetch
      ∧ (countReturn s).pulse = s.pulse
      ∧ (countReturn s).line = s.line ∧ (countReturn s).supply = s.supply ∧ (countReturn s).web = s.web
      ∧ (countReturn s).cut = s.cut
      ∧ (countReturn s).sort = s.sort ∧ (countReturn s).eng = s.eng ∧ (countReturn s).out = s.out
      ∧ (countReturn s).pending = s.pending := by
  simp only [countReturn]
  (repeat' split) <;> simp

@[simp] theorem freeReturned_frame (slot : Nat) (s : State) :
    (freeReturned slot s).link.area = s.link.area ∧ (freeReturned slot s).link.areaSet = s.link.areaSet
      ∧ (freeReturned slot s).link.unreported = s.link.unreported ∧ (freeReturned slot s).link.idleTimer = s.link.idleTimer
      ∧ (freeReturned slot s).link.waiting = s.link.waiting ∧ (freeReturned slot s).link.readData = s.link.readData
      ∧ (freeReturned slot s).intake = s.intake ∧ (freeReturned slot s).setup = s.setup
      ∧ (freeReturned slot s).paper.active = s.paper.active
      ∧ (freeReturned slot s).paper.target = s.paper.target ∧ (freeReturned slot s).paper.timer = s.paper.timer
      ∧ (freeReturned slot s).plan.switchFlag = s.plan.switchFlag
      ∧ (freeReturned slot s).plan.framesExposed = s.plan.framesExposed
      ∧ (freeReturned slot s).plan.budgetRemakes = s.plan.budgetRemakes
      ∧ (freeReturned slot s).plan.jamRemakes = s.plan.jamRemakes
      ∧ (freeReturned slot s).fetch = s.fetch ∧ (freeReturned slot s).pulse = s.pulse ∧ (freeReturned slot s).line = s.line
      ∧ (freeReturned slot s).supply = s.supply ∧ (freeReturned slot s).web = s.web ∧ (freeReturned slot s).cut = s.cut
      ∧ (freeReturned slot s).sort = s.sort ∧ (freeReturned slot s).eng = s.eng ∧ (freeReturned slot s).out = s.out
      ∧ (freeReturned slot s).pending = s.pending := by
  unfold freeReturned
  (repeat' split) <;> simp

@[simp] theorem issueWrite_frame (w : SlotWrite) (s : State) :
    (issueWrite w s).link.area = s.link.area ∧ (issueWrite w s).link.areaSet = s.link.areaSet
      ∧ (issueWrite w s).link.waiting = s.link.waiting
      ∧ (issueWrite w s).link.readData = s.link.readData ∧ (issueWrite w s).intake = s.intake
      ∧ (issueWrite w s).setup = s.setup
      ∧ (issueWrite w s).paper.active = s.paper.active ∧ (issueWrite w s).paper.target = s.paper.target
      ∧ (issueWrite w s).paper.timer = s.paper.timer
      ∧ (issueWrite w s).plan.switchFlag = s.plan.switchFlag ∧ (issueWrite w s).plan.framesExposed = s.plan.framesExposed
      ∧ (issueWrite w s).plan.budgetRemakes = s.plan.budgetRemakes ∧ (issueWrite w s).plan.jamRemakes = s.plan.jamRemakes
      ∧ (issueWrite w s).fetch = s.fetch ∧ (issueWrite w s).pulse = s.pulse ∧ (issueWrite w s).line = s.line
      ∧ (issueWrite w s).supply = s.supply
      ∧ (issueWrite w s).web = s.web ∧ (issueWrite w s).cut = s.cut ∧ (issueWrite w s).sort = s.sort
      ∧ (issueWrite w s).eng = s.eng
      ∧ (issueWrite w s).pending = s.pending := by
  unfold issueWrite
  (repeat' split) <;> simp

@[simp] theorem issueList_frame (ws : List SlotWrite) (k : Nat) (s : State) :
    (issueList ws k s).link.area = s.link.area ∧ (issueList ws k s).link.areaSet = s.link.areaSet
      ∧ (issueList ws k s).link.readData = s.link.readData
      ∧ (issueList ws k s).intake = s.intake ∧ (issueList ws k s).setup = s.setup
      ∧ (issueList ws k s).paper.active = s.paper.active
      ∧ (issueList ws k s).paper.target = s.paper.target ∧ (issueList ws k s).paper.timer = s.paper.timer
      ∧ (issueList ws k s).plan.switchFlag = s.plan.switchFlag ∧ (issueList ws k s).plan.framesExposed = s.plan.framesExposed
      ∧ (issueList ws k s).plan.budgetRemakes = s.plan.budgetRemakes ∧ (issueList ws k s).plan.jamRemakes = s.plan.jamRemakes
      ∧ (issueList ws k s).fetch = s.fetch ∧ (issueList ws k s).pulse = s.pulse ∧ (issueList ws k s).line = s.line
      ∧ (issueList ws k s).supply = s.supply ∧ (issueList ws k s).web = s.web ∧ (issueList ws k s).cut = s.cut
      ∧ (issueList ws k s).sort = s.sort
      ∧ (issueList ws k s).eng = s.eng ∧ (issueList ws k s).pending = s.pending := by
  induction ws generalizing s k with
  | nil => simp [issueList]
  | cons w rest ih => cases k <;> simp [issueList, ih]

@[simp] theorem issueWaiting_frame (room : Option Nat) (s : State) :
    (issueWaiting room s).intake = s.intake ∧ (issueWaiting room s).setup = s.setup ∧ (issueWaiting room s).fetch = s.fetch
      ∧ (issueWaiting room s).pulse = s.pulse ∧ (issueWaiting room s).line = s.line ∧ (issueWaiting room s).supply = s.supply
      ∧ (issueWaiting room s).web = s.web ∧ (issueWaiting room s).cut = s.cut ∧ (issueWaiting room s).sort = s.sort
      ∧ (issueWaiting room s).eng = s.eng ∧ (issueWaiting room s).pending = s.pending
      ∧ (issueWaiting room s).link.area = s.link.area ∧ (issueWaiting room s).link.areaSet = s.link.areaSet
      ∧ (issueWaiting room s).link.readData = s.link.readData ∧ (issueWaiting room s).paper.active = s.paper.active
      ∧ (issueWaiting room s).paper.target = s.paper.target ∧ (issueWaiting room s).paper.timer = s.paper.timer
      ∧ (issueWaiting room s).plan.switchFlag = s.plan.switchFlag
      ∧ (issueWaiting room s).plan.framesExposed = s.plan.framesExposed
      ∧ (issueWaiting room s).plan.budgetRemakes = s.plan.budgetRemakes
      ∧ (issueWaiting room s).plan.jamRemakes = s.plan.jamRemakes := by
  simp only [issueWaiting]; (repeat' split) <;> simp

@[simp] theorem refuse_frame (slot : Nat) (code : RefuseCode) (s : State) :
    (refuse slot code s).link.area = s.link.area ∧ (refuse slot code s).link.areaSet = s.link.areaSet
      ∧ (refuse slot code s).link.causes = s.link.causes ∧ (refuse slot code s).link.unreported = s.link.unreported
      ∧ (refuse slot code s).link.idleTimer = s.link.idleTimer ∧ (refuse slot code s).link.readData = s.link.readData
      ∧ (refuse slot code s).intake = s.intake ∧ (refuse slot code s).setup = s.setup ∧ (refuse slot code s).paper = s.paper
      ∧ (refuse slot code s).plan = s.plan ∧ (refuse slot code s).fetch = s.fetch ∧ (refuse slot code s).pulse = s.pulse
      ∧ (refuse slot code s).line = s.line ∧ (refuse slot code s).supply = s.supply ∧ (refuse slot code s).web = s.web
      ∧ (refuse slot code s).cut = s.cut ∧ (refuse slot code s).sort = s.sort ∧ (refuse slot code s).eng = s.eng
      ∧ (refuse slot code s).out = s.out
      ∧ (refuse slot code s).pending = s.pending := by
  simp [refuse]

@[simp] theorem admissionWrites_frame (o : Order) (s : State) :
    (admissionWrites o s).link.area = s.link.area ∧ (admissionWrites o s).link.areaSet = s.link.areaSet
      ∧ (admissionWrites o s).link.causes = s.link.causes ∧ (admissionWrites o s).link.unreported = s.link.unreported
      ∧ (admissionWrites o s).link.idleTimer = s.link.idleTimer ∧ (admissionWrites o s).link.readData = s.link.readData
      ∧ (admissionWrites o s).intake = s.intake ∧ (admissionWrites o s).setup = s.setup
      ∧ (admissionWrites o s).paper = s.paper
      ∧ (admissionWrites o s).plan = s.plan ∧ (admissionWrites o s).fetch = s.fetch ∧ (admissionWrites o s).pulse = s.pulse
      ∧ (admissionWrites o s).line = s.line ∧ (admissionWrites o s).supply = s.supply ∧ (admissionWrites o s).web = s.web
      ∧ (admissionWrites o s).cut = s.cut ∧ (admissionWrites o s).sort = s.sort ∧ (admissionWrites o s).eng = s.eng
      ∧ (admissionWrites o s).out = s.out ∧ (admissionWrites o s).pending = s.pending := by
  refine ⟨?_, ?_, ?_, ?_, ?_, ?_, ?_, ?_, ?_, ?_, ?_, ?_, ?_, ?_, ?_, ?_, ?_, ?_, ?_, ?_⟩
  · unfold admissionWrites
    exact (foldl_keep (fun s : State => s.link.area) _ (fun s x => by simp) _ _).trans (by simp)
  · unfold admissionWrites
    exact (foldl_keep (fun s : State => s.link.areaSet) _ (fun s x => by simp) _ _).trans (by simp)
  · unfold admissionWrites
    exact (foldl_keep (fun s : State => s.link.causes) _ (fun s x => by simp) _ _).trans (by simp)
  · unfold admissionWrites
    exact (foldl_keep (fun s : State => s.link.unreported) _ (fun s x => by simp) _ _).trans (by simp)
  · unfold admissionWrites
    exact (foldl_keep (fun s : State => s.link.idleTimer) _ (fun s x => by simp) _ _).trans (by simp)
  · unfold admissionWrites
    exact (foldl_keep (fun s : State => s.link.readData) _ (fun s x => by simp) _ _).trans (by simp)
  · unfold admissionWrites
    exact (foldl_keep (fun s : State => s.intake) _ (fun s x => by simp) _ _).trans (by simp)
  · unfold admissionWrites
    exact (foldl_keep (fun s : State => s.setup) _ (fun s x => by simp) _ _).trans (by simp)
  · unfold admissionWrites
    exact (foldl_keep (fun s : State => s.paper) _ (fun s x => by simp) _ _).trans (by simp)
  · unfold admissionWrites
    exact (foldl_keep (fun s : State => s.plan) _ (fun s x => by simp) _ _).trans (by simp)
  · unfold admissionWrites
    exact (foldl_keep (fun s : State => s.fetch) _ (fun s x => by simp) _ _).trans (by simp)
  · unfold admissionWrites
    exact (foldl_keep (fun s : State => s.pulse) _ (fun s x => by simp) _ _).trans (by simp)
  · unfold admissionWrites
    exact (foldl_keep (fun s : State => s.line) _ (fun s x => by simp) _ _).trans (by simp)
  · unfold admissionWrites
    exact (foldl_keep (fun s : State => s.supply) _ (fun s x => by simp) _ _).trans (by simp)
  · unfold admissionWrites
    exact (foldl_keep (fun s : State => s.web) _ (fun s x => by simp) _ _).trans (by simp)
  · unfold admissionWrites
    exact (foldl_keep (fun s : State => s.cut) _ (fun s x => by simp) _ _).trans (by simp)
  · unfold admissionWrites
    exact (foldl_keep (fun s : State => s.sort) _ (fun s x => by simp) _ _).trans (by simp)
  · unfold admissionWrites
    exact (foldl_keep (fun s : State => s.eng) _ (fun s x => by simp) _ _).trans (by simp)
  · unfold admissionWrites
    exact (foldl_keep (fun s : State => s.out) _ (fun s x => by simp) _ _).trans (by simp)
  · unfold admissionWrites
    exact (foldl_keep (fun s : State => s.pending) _ (fun s x => by simp) _ _).trans (by simp)

@[simp] theorem enterTable_frame (i : Nat) (o : Order) (s : State) :
    (enterTable i o s).link = s.link ∧ (enterTable i o s).intake.timer = s.intake.timer
      ∧ (enterTable i o s).intake.lostPending = s.intake.lostPending
      ∧ (enterTable i o s).intake.sweep = s.intake.sweep ∧ (enterTable i o s).intake.cellRead = s.intake.cellRead
      ∧ (enterTable i o s).intake.cellOwed = s.intake.cellOwed ∧ (enterTable i o s).intake.detached = s.intake.detached
      ∧ (enterTable i o s).setup = s.setup ∧ (enterTable i o s).paper = s.paper
      ∧ (enterTable i o s).plan.switchFlag = s.plan.switchFlag
      ∧ (enterTable i o s).plan.framesExposed = s.plan.framesExposed
      ∧ (enterTable i o s).plan.budgetRemakes = s.plan.budgetRemakes
      ∧ (enterTable i o s).plan.jamRemakes = s.plan.jamRemakes ∧ (enterTable i o s).fetch = s.fetch
      ∧ (enterTable i o s).pulse = s.pulse
      ∧ (enterTable i o s).line = s.line ∧ (enterTable i o s).supply = s.supply ∧ (enterTable i o s).web = s.web
      ∧ (enterTable i o s).cut = s.cut
      ∧ (enterTable i o s).sort = s.sort ∧ (enterTable i o s).eng = s.eng ∧ (enterTable i o s).out = s.out
      ∧ (enterTable i o s).pending = s.pending := by
  simp [enterTable]

@[simp] theorem admitOrder_frame (i slot : Nat) (d : TakeData) (s : State) :
    (admitOrder i slot d s).link.area = s.link.area ∧ (admitOrder i slot d s).link.areaSet = s.link.areaSet
      ∧ (admitOrder i slot d s).link.unreported = s.link.unreported
      ∧ (admitOrder i slot d s).link.idleTimer = s.link.idleTimer
      ∧ (admitOrder i slot d s).link.readData = s.link.readData ∧ (admitOrder i slot d s).intake.timer = s.intake.timer
      ∧ (admitOrder i slot d s).intake.lostPending = s.intake.lostPending
      ∧ (admitOrder i slot d s).intake.sweep = s.intake.sweep
      ∧ (admitOrder i slot d s).intake.cellRead = s.intake.cellRead
      ∧ (admitOrder i slot d s).intake.cellOwed = s.intake.cellOwed
      ∧ (admitOrder i slot d s).intake.detached = s.intake.detached ∧ (admitOrder i slot d s).setup = s.setup
      ∧ (admitOrder i slot d s).paper.active = s.paper.active
      ∧ (admitOrder i slot d s).paper.target = s.paper.target ∧ (admitOrder i slot d s).paper.timer = s.paper.timer
      ∧ (admitOrder i slot d s).plan.switchFlag = s.plan.switchFlag
      ∧ (admitOrder i slot d s).plan.framesExposed = s.plan.framesExposed
      ∧ (admitOrder i slot d s).plan.budgetRemakes = s.plan.budgetRemakes
      ∧ (admitOrder i slot d s).plan.jamRemakes = s.plan.jamRemakes
      ∧ (admitOrder i slot d s).fetch = s.fetch ∧ (admitOrder i slot d s).pulse = s.pulse
      ∧ (admitOrder i slot d s).line = s.line
      ∧ (admitOrder i slot d s).supply = s.supply ∧ (admitOrder i slot d s).web = s.web ∧ (admitOrder i slot d s).cut = s.cut
      ∧ (admitOrder i slot d s).sort = s.sort
      ∧ (admitOrder i slot d s).eng = s.eng ∧ (admitOrder i slot d s).out = s.out
      ∧ (admitOrder i slot d s).pending = s.pending := by
  simp [admitOrder]

@[simp] theorem nextTake_frame (s : State) :
    (nextTake s).link = s.link ∧ (nextTake s).intake.timer = s.intake.timer ∧ (nextTake s).intake.takeSeq = s.intake.takeSeq
      ∧ (nextTake s).intake.lostPending = s.intake.lostPending ∧ (nextTake s).intake.cellRead = s.intake.cellRead
      ∧ (nextTake s).intake.cellOwed = s.intake.cellOwed ∧ (nextTake s).intake.detached = s.intake.detached
      ∧ (nextTake s).setup = s.setup
      ∧ (nextTake s).paper = s.paper ∧ (nextTake s).plan = s.plan ∧ (nextTake s).fetch = s.fetch
      ∧ (nextTake s).pulse = s.pulse
      ∧ (nextTake s).line = s.line ∧ (nextTake s).supply = s.supply ∧ (nextTake s).web = s.web ∧ (nextTake s).cut = s.cut
      ∧ (nextTake s).sort = s.sort
      ∧ (nextTake s).eng = s.eng ∧ (nextTake s).pending = s.pending := by
  refine ⟨?_, ?_, ?_, ?_, ?_, ?_, ?_, ?_, ?_, ?_, ?_, ?_, ?_, ?_, ?_, ?_, ?_, ?_, ?_⟩
  · unfold nextTake
    (repeat' split)
    · rfl
    · rfl
    · exact (foldl_keep (fun s : State => s.link) _ (fun s x => by simp) _ _).trans (by simp)
    · simp
  · unfold nextTake
    (repeat' split)
    · rfl
    · rfl
    · exact (foldl_keep (fun s : State => s.intake.timer) _ (fun s x => by simp) _ _).trans (by simp)
    · simp
  · unfold nextTake
    (repeat' split)
    · rfl
    · rfl
    · exact (foldl_keep (fun s : State => s.intake.takeSeq) _ (fun s x => by simp) _ _).trans (by simp)
    · simp
  · unfold nextTake
    (repeat' split)
    · rfl
    · rfl
    · exact (foldl_keep (fun s : State => s.intake.lostPending) _ (fun s x => by simp) _ _).trans (by simp)
    · simp
  · unfold nextTake
    (repeat' split)
    · rfl
    · rfl
    · exact (foldl_keep (fun s : State => s.intake.cellRead) _ (fun s x => by simp) _ _).trans (by simp)
    · simp
  · unfold nextTake
    (repeat' split)
    · rfl
    · rfl
    · exact (foldl_keep (fun s : State => s.intake.cellOwed) _ (fun s x => by simp) _ _).trans (by simp)
    · simp
  · unfold nextTake
    (repeat' split)
    · rfl
    · rfl
    · exact (foldl_keep (fun s : State => s.intake.detached) _ (fun s x => by simp) _ _).trans (by simp)
    · simp
  · unfold nextTake
    (repeat' split)
    · rfl
    · rfl
    · exact (foldl_keep (fun s : State => s.setup) _ (fun s x => by simp) _ _).trans (by simp)
    · simp
  · unfold nextTake
    (repeat' split)
    · rfl
    · rfl
    · exact (foldl_keep (fun s : State => s.paper) _ (fun s x => by simp) _ _).trans (by simp)
    · simp
  · unfold nextTake
    (repeat' split)
    · rfl
    · rfl
    · exact (foldl_keep (fun s : State => s.plan) _ (fun s x => by simp) _ _).trans (by simp)
    · simp
  · unfold nextTake
    (repeat' split)
    · rfl
    · rfl
    · exact (foldl_keep (fun s : State => s.fetch) _ (fun s x => by simp) _ _).trans (by simp)
    · simp
  · unfold nextTake
    (repeat' split)
    · rfl
    · rfl
    · exact (foldl_keep (fun s : State => s.pulse) _ (fun s x => by simp) _ _).trans (by simp)
    · simp
  · unfold nextTake
    (repeat' split)
    · rfl
    · rfl
    · exact (foldl_keep (fun s : State => s.line) _ (fun s x => by simp) _ _).trans (by simp)
    · simp
  · unfold nextTake
    (repeat' split)
    · rfl
    · rfl
    · exact (foldl_keep (fun s : State => s.supply) _ (fun s x => by simp) _ _).trans (by simp)
    · simp
  · unfold nextTake
    (repeat' split)
    · rfl
    · rfl
    · exact (foldl_keep (fun s : State => s.web) _ (fun s x => by simp) _ _).trans (by simp)
    · simp
  · unfold nextTake
    (repeat' split)
    · rfl
    · rfl
    · exact (foldl_keep (fun s : State => s.cut) _ (fun s x => by simp) _ _).trans (by simp)
    · simp
  · unfold nextTake
    (repeat' split)
    · rfl
    · rfl
    · exact (foldl_keep (fun s : State => s.sort) _ (fun s x => by simp) _ _).trans (by simp)
    · simp
  · unfold nextTake
    (repeat' split)
    · rfl
    · rfl
    · exact (foldl_keep (fun s : State => s.eng) _ (fun s x => by simp) _ _).trans (by simp)
    · simp
  · unfold nextTake
    (repeat' split)
    · rfl
    · rfl
    · exact (foldl_keep (fun s : State => s.pending) _ (fun s x => by simp) _ _).trans (by simp)
    · simp

@[simp] theorem clearTake_frame (s : State) :
    (clearTake s).link = s.link ∧ (clearTake s).intake.timer = s.intake.timer
      ∧ (clearTake s).intake.takeSeq = s.intake.takeSeq
      ∧ (clearTake s).intake.lostPending = s.intake.lostPending ∧ (clearTake s).intake.cellRead = s.intake.cellRead
      ∧ (clearTake s).intake.cellOwed = s.intake.cellOwed ∧ (clearTake s).intake.detached = s.intake.detached
      ∧ (clearTake s).setup = s.setup
      ∧ (clearTake s).paper = s.paper ∧ (clearTake s).plan = s.plan ∧ (clearTake s).fetch = s.fetch
      ∧ (clearTake s).pulse = s.pulse
      ∧ (clearTake s).line = s.line ∧ (clearTake s).supply = s.supply ∧ (clearTake s).web = s.web ∧ (clearTake s).cut = s.cut
      ∧ (clearTake s).sort = s.sort ∧ (clearTake s).eng = s.eng ∧ (clearTake s).out = s.out
      ∧ (clearTake s).pending = s.pending := by
  unfold clearTake
  (repeat' split) <;> simp

@[simp] theorem finishTake_frame (slot : Nat) (d : TakeData) (s : State) :
    (finishTake slot d s).link.area = s.link.area ∧ (finishTake slot d s).link.areaSet = s.link.areaSet
      ∧ (finishTake slot d s).link.unreported = s.link.unreported ∧ (finishTake slot d s).link.idleTimer = s.link.idleTimer
      ∧ (finishTake slot d s).link.readData = s.link.readData ∧ (finishTake slot d s).intake.timer = s.intake.timer
      ∧ (finishTake slot d s).intake.lostPending = s.intake.lostPending
      ∧ (finishTake slot d s).intake.cellRead = s.intake.cellRead
      ∧ (finishTake slot d s).intake.cellOwed = s.intake.cellOwed ∧ (finishTake slot d s).intake.detached = s.intake.detached
      ∧ (finishTake slot d s).setup = s.setup ∧ (finishTake slot d s).paper.active = s.paper.active
      ∧ (finishTake slot d s).paper.target = s.paper.target ∧ (finishTake slot d s).paper.timer = s.paper.timer
      ∧ (finishTake slot d s).plan.switchFlag = s.plan.switchFlag
      ∧ (finishTake slot d s).plan.framesExposed = s.plan.framesExposed
      ∧ (finishTake slot d s).plan.budgetRemakes = s.plan.budgetRemakes
      ∧ (finishTake slot d s).plan.jamRemakes = s.plan.jamRemakes
      ∧ (finishTake slot d s).fetch = s.fetch ∧ (finishTake slot d s).pulse = s.pulse ∧ (finishTake slot d s).line = s.line
      ∧ (finishTake slot d s).supply = s.supply ∧ (finishTake slot d s).web = s.web ∧ (finishTake slot d s).cut = s.cut
      ∧ (finishTake slot d s).sort = s.sort ∧ (finishTake slot d s).eng = s.eng
      ∧ (finishTake slot d s).pending = s.pending := by
  simp only [finishTake]
  (repeat' split) <;> simp

@[simp] theorem resumeTake_frame (room : Option Nat) (s : State) :
    (resumeTake room s).link.area = s.link.area ∧ (resumeTake room s).link.areaSet = s.link.areaSet
      ∧ (resumeTake room s).link.unreported = s.link.unreported ∧ (resumeTake room s).link.idleTimer = s.link.idleTimer
      ∧ (resumeTake room s).link.readData = s.link.readData ∧ (resumeTake room s).intake.timer = s.intake.timer
      ∧ (resumeTake room s).intake.lostPending = s.intake.lostPending
      ∧ (resumeTake room s).intake.cellRead = s.intake.cellRead
      ∧ (resumeTake room s).intake.cellOwed = s.intake.cellOwed ∧ (resumeTake room s).intake.detached = s.intake.detached
      ∧ (resumeTake room s).setup = s.setup ∧ (resumeTake room s).paper.active = s.paper.active
      ∧ (resumeTake room s).paper.target = s.paper.target
      ∧ (resumeTake room s).paper.timer = s.paper.timer ∧ (resumeTake room s).plan.switchFlag = s.plan.switchFlag
      ∧ (resumeTake room s).plan.framesExposed = s.plan.framesExposed
      ∧ (resumeTake room s).plan.budgetRemakes = s.plan.budgetRemakes
      ∧ (resumeTake room s).plan.jamRemakes = s.plan.jamRemakes ∧ (resumeTake room s).fetch = s.fetch
      ∧ (resumeTake room s).pulse = s.pulse
      ∧ (resumeTake room s).line = s.line ∧ (resumeTake room s).supply = s.supply ∧ (resumeTake room s).web = s.web
      ∧ (resumeTake room s).cut = s.cut
      ∧ (resumeTake room s).sort = s.sort ∧ (resumeTake room s).eng = s.eng ∧ (resumeTake room s).pending = s.pending := by
  unfold resumeTake
  (repeat' split) <;> simp

@[simp] theorem markTaken_frame (slot : Nat) (d : TakeData) (w : Sweep) (s : State) :
    (markTaken slot d w s).link = s.link ∧ (markTaken slot d w s).intake.timer = s.intake.timer
      ∧ (markTaken slot d w s).intake.takeSeq = s.intake.takeSeq
      ∧ (markTaken slot d w s).intake.lostPending = s.intake.lostPending
      ∧ (markTaken slot d w s).intake.cellRead = s.intake.cellRead
      ∧ (markTaken slot d w s).intake.cellOwed = s.intake.cellOwed
      ∧ (markTaken slot d w s).intake.detached = s.intake.detached ∧ (markTaken slot d w s).setup = s.setup
      ∧ (markTaken slot d w s).paper = s.paper
      ∧ (markTaken slot d w s).plan = s.plan ∧ (markTaken slot d w s).fetch = s.fetch ∧ (markTaken slot d w s).pulse = s.pulse
      ∧ (markTaken slot d w s).line = s.line ∧ (markTaken slot d w s).supply = s.supply ∧ (markTaken slot d w s).web = s.web
      ∧ (markTaken slot d w s).cut = s.cut ∧ (markTaken slot d w s).sort = s.sort ∧ (markTaken slot d w s).eng = s.eng
      ∧ (markTaken slot d w s).pending = s.pending := by
  simp [markTaken]

@[simp] theorem takeReads_frame (result : TakeResult) (s : State) :
    (takeReads result s).link.area = s.link.area ∧ (takeReads result s).link.areaSet = s.link.areaSet
      ∧ (takeReads result s).link.unreported = s.link.unreported ∧ (takeReads result s).link.idleTimer = s.link.idleTimer
      ∧ (takeReads result s).link.waiting = s.link.waiting ∧ (takeReads result s).link.readData = s.link.readData
      ∧ (takeReads result s).intake.timer = s.intake.timer ∧ (takeReads result s).intake.takeSeq = s.intake.takeSeq
      ∧ (takeReads result s).intake.lostPending = s.intake.lostPending
      ∧ (takeReads result s).intake.cellRead = s.intake.cellRead
      ∧ (takeReads result s).intake.cellOwed = s.intake.cellOwed ∧ (takeReads result s).intake.detached = s.intake.detached
      ∧ (takeReads result s).setup = s.setup ∧ (takeReads result s).paper = s.paper ∧ (takeReads result s).plan = s.plan
      ∧ (takeReads result s).fetch = s.fetch ∧ (takeReads result s).pulse = s.pulse ∧ (takeReads result s).line = s.line
      ∧ (takeReads result s).supply = s.supply ∧ (takeReads result s).web = s.web ∧ (takeReads result s).cut = s.cut
      ∧ (takeReads result s).sort = s.sort ∧ (takeReads result s).eng.state = s.eng.state
      ∧ (takeReads result s).eng.resetKind = s.eng.resetKind
      ∧ (takeReads result s).eng.hold = s.eng.hold ∧ (takeReads result s).pending = s.pending := by
  unfold takeReads
  (repeat' split) <;> simp

@[simp] theorem writeAnswer_frame (slot : Nat) (number : Byte) (a : Answer) (s : State) :
    (writeAnswer slot number a s).link.area = s.link.area ∧ (writeAnswer slot number a s).link.areaSet = s.link.areaSet
      ∧ (writeAnswer slot number a s).link.causes = s.link.causes
      ∧ (writeAnswer slot number a s).link.unreported = s.link.unreported
      ∧ (writeAnswer slot number a s).link.idleTimer = s.link.idleTimer
      ∧ (writeAnswer slot number a s).link.readData = s.link.readData
      ∧ (writeAnswer slot number a s).intake = s.intake ∧ (writeAnswer slot number a s).setup = s.setup
      ∧ (writeAnswer slot number a s).paper = s.paper ∧ (writeAnswer slot number a s).plan = s.plan
      ∧ (writeAnswer slot number a s).fetch = s.fetch
      ∧ (writeAnswer slot number a s).pulse = s.pulse ∧ (writeAnswer slot number a s).line = s.line
      ∧ (writeAnswer slot number a s).supply = s.supply
      ∧ (writeAnswer slot number a s).web = s.web ∧ (writeAnswer slot number a s).cut = s.cut
      ∧ (writeAnswer slot number a s).sort = s.sort
      ∧ (writeAnswer slot number a s).eng = s.eng ∧ (writeAnswer slot number a s).out = s.out
      ∧ (writeAnswer slot number a s).pending = s.pending := by
  simp [writeAnswer]

@[simp] theorem dropRequest_frame (slot : Nat) (s : State) :
    (dropRequest slot s).link = s.link ∧ (dropRequest slot s).intake.timer = s.intake.timer
      ∧ (dropRequest slot s).intake.takeSeq = s.intake.takeSeq
      ∧ (dropRequest slot s).intake.lostPending = s.intake.lostPending
      ∧ (dropRequest slot s).intake.cellRead = s.intake.cellRead
      ∧ (dropRequest slot s).intake.cellOwed = s.intake.cellOwed ∧ (dropRequest slot s).intake.detached = s.intake.detached
      ∧ (dropRequest slot s).setup = s.setup ∧ (dropRequest slot s).paper = s.paper ∧ (dropRequest slot s).plan = s.plan
      ∧ (dropRequest slot s).fetch = s.fetch ∧ (dropRequest slot s).pulse = s.pulse ∧ (dropRequest slot s).line = s.line
      ∧ (dropRequest slot s).supply = s.supply ∧ (dropRequest slot s).web = s.web ∧ (dropRequest slot s).cut = s.cut
      ∧ (dropRequest slot s).sort = s.sort ∧ (dropRequest slot s).eng = s.eng ∧ (dropRequest slot s).out = s.out
      ∧ (dropRequest slot s).pending = s.pending := by
  unfold dropRequest
  (repeat' split) <;> simp

@[simp] theorem hoistAnswer_frame (slot : Nat) (s : State) :
    (hoistAnswer slot s).link.area = s.link.area ∧ (hoistAnswer slot s).link.areaSet = s.link.areaSet
      ∧ (hoistAnswer slot s).link.causes = s.link.causes ∧ (hoistAnswer slot s).link.unreported = s.link.unreported
      ∧ (hoistAnswer slot s).link.idleTimer = s.link.idleTimer ∧ (hoistAnswer slot s).link.readData = s.link.readData
      ∧ (hoistAnswer slot s).intake = s.intake ∧ (hoistAnswer slot s).setup = s.setup ∧ (hoistAnswer slot s).paper = s.paper
      ∧ (hoistAnswer slot s).plan = s.plan ∧ (hoistAnswer slot s).fetch = s.fetch ∧ (hoistAnswer slot s).pulse = s.pulse
      ∧ (hoistAnswer slot s).line = s.line ∧ (hoistAnswer slot s).supply = s.supply ∧ (hoistAnswer slot s).web = s.web
      ∧ (hoistAnswer slot s).cut = s.cut ∧ (hoistAnswer slot s).sort = s.sort ∧ (hoistAnswer slot s).eng = s.eng
      ∧ (hoistAnswer slot s).out = s.out
      ∧ (hoistAnswer slot s).pending = s.pending := by
  simp [hoistAnswer]

@[simp] theorem handRequest_frame (r : Request) (i : Nat) (o : Order) (s : State) :
    (handRequest r i o s).link.area = s.link.area ∧ (handRequest r i o s).link.areaSet = s.link.areaSet
      ∧ (handRequest r i o s).link.unreported = s.link.unreported ∧ (handRequest r i o s).link.idleTimer = s.link.idleTimer
      ∧ (handRequest r i o s).link.readData = s.link.readData ∧ (handRequest r i o s).intake = s.intake
      ∧ (handRequest r i o s).setup = s.setup
      ∧ (handRequest r i o s).paper.active = s.paper.active ∧ (handRequest r i o s).paper.target = s.paper.target
      ∧ (handRequest r i o s).paper.timer = s.paper.timer ∧ (handRequest r i o s).plan.switchFlag = s.plan.switchFlag
      ∧ (handRequest r i o s).plan.framesExposed = s.plan.framesExposed
      ∧ (handRequest r i o s).plan.budgetRemakes = s.plan.budgetRemakes
      ∧ (handRequest r i o s).plan.jamRemakes = s.plan.jamRemakes ∧ (handRequest r i o s).fetch = s.fetch
      ∧ (handRequest r i o s).pulse = s.pulse
      ∧ (handRequest r i o s).line = s.line ∧ (handRequest r i o s).supply = s.supply ∧ (handRequest r i o s).web = s.web
      ∧ (handRequest r i o s).cut = s.cut ∧ (handRequest r i o s).sort.lane = s.sort.lane
      ∧ (handRequest r i o s).sort.rejectCount = s.sort.rejectCount
      ∧ (handRequest r i o s).sort.rejectFull = s.sort.rejectFull
      ∧ (handRequest r i o s).sort.misroutes = s.sort.misroutes ∧ (handRequest r i o s).sort.clock = s.sort.clock
      ∧ (handRequest r i o s).sort.keys = s.sort.keys ∧ (handRequest r i o s).sort.blink1 = s.sort.blink1
      ∧ (handRequest r i o s).sort.blink4 = s.sort.blink4 ∧ (handRequest r i o s).eng = s.eng
      ∧ (handRequest r i o s).out = s.out
      ∧ (handRequest r i o s).pending = s.pending := by
  unfold handRequest
  (repeat' split) <;> simp

@[simp] theorem answerRequest_frame (r : Request) (slot : Nat) (code number : Byte) (s : State) :
    (answerRequest r slot code number s).setup = s.setup ∧ (answerRequest r slot code number s).fetch = s.fetch
      ∧ (answerRequest r slot code number s).pulse = s.pulse ∧ (answerRequest r slot code number s).line = s.line
      ∧ (answerRequest r slot code number s).supply = s.supply ∧ (answerRequest r slot code number s).web = s.web
      ∧ (answerRequest r slot code number s).cut = s.cut ∧ (answerRequest r slot code number s).eng = s.eng
      ∧ (answerRequest r slot code number s).out = s.out ∧ (answerRequest r slot code number s).pending = s.pending
      ∧ (answerRequest r slot code number s).link.area = s.link.area
      ∧ (answerRequest r slot code number s).link.areaSet = s.link.areaSet
      ∧ (answerRequest r slot code number s).link.unreported = s.link.unreported
      ∧ (answerRequest r slot code number s).link.idleTimer = s.link.idleTimer
      ∧ (answerRequest r slot code number s).link.readData = s.link.readData
      ∧ (answerRequest r slot code number s).intake.timer = s.intake.timer
      ∧ (answerRequest r slot code number s).intake.takeSeq = s.intake.takeSeq
      ∧ (answerRequest r slot code number s).intake.lostPending = s.intake.lostPending
      ∧ (answerRequest r slot code number s).intake.cellRead = s.intake.cellRead
      ∧ (answerRequest r slot code number s).intake.cellOwed = s.intake.cellOwed
      ∧ (answerRequest r slot code number s).intake.detached = s.intake.detached
      ∧ (answerRequest r slot code number s).paper.active = s.paper.active
      ∧ (answerRequest r slot code number s).paper.target = s.paper.target
      ∧ (answerRequest r slot code number s).paper.timer = s.paper.timer
      ∧ (answerRequest r slot code number s).plan.switchFlag = s.plan.switchFlag
      ∧ (answerRequest r slot code number s).plan.framesExposed = s.plan.framesExposed
      ∧ (answerRequest r slot code number s).plan.budgetRemakes = s.plan.budgetRemakes
      ∧ (answerRequest r slot code number s).plan.jamRemakes = s.plan.jamRemakes
      ∧ (answerRequest r slot code number s).sort.lane = s.sort.lane
      ∧ (answerRequest r slot code number s).sort.rejectCount = s.sort.rejectCount
      ∧ (answerRequest r slot code number s).sort.rejectFull = s.sort.rejectFull
      ∧ (answerRequest r slot code number s).sort.misroutes = s.sort.misroutes
      ∧ (answerRequest r slot code number s).sort.clock = s.sort.clock
      ∧ (answerRequest r slot code number s).sort.keys = s.sort.keys
      ∧ (answerRequest r slot code number s).sort.blink1 = s.sort.blink1
      ∧ (answerRequest r slot code number s).sort.blink4 = s.sort.blink4 := by
  simp only [answerRequest]; (repeat' split) <;> simp

@[simp] theorem recordReads_frame (reads : List SlotRead) (s : State) :
    (recordReads reads s).link.area = s.link.area ∧ (recordReads reads s).link.areaSet = s.link.areaSet
      ∧ (recordReads reads s).link.unreported = s.link.unreported ∧ (recordReads reads s).link.idleTimer = s.link.idleTimer
      ∧ (recordReads reads s).link.waiting = s.link.waiting ∧ (recordReads reads s).link.readData = s.link.readData
      ∧ (recordReads reads s).intake = s.intake ∧ (recordReads reads s).setup = s.setup
      ∧ (recordReads reads s).paper = s.paper
      ∧ (recordReads reads s).plan = s.plan ∧ (recordReads reads s).fetch = s.fetch ∧ (recordReads reads s).pulse = s.pulse
      ∧ (recordReads reads s).line = s.line ∧ (recordReads reads s).supply = s.supply ∧ (recordReads reads s).web = s.web
      ∧ (recordReads reads s).cut = s.cut ∧ (recordReads reads s).sort = s.sort
      ∧ (recordReads reads s).eng.state = s.eng.state
      ∧ (recordReads reads s).eng.resetKind = s.eng.resetKind ∧ (recordReads reads s).eng.hold = s.eng.hold
      ∧ (recordReads reads s).out = s.out
      ∧ (recordReads reads s).pending = s.pending := by
  refine ⟨?_, ?_, ?_, ?_, ?_, ?_, ?_, ?_, ?_, ?_, ?_, ?_, ?_, ?_, ?_, ?_, ?_, ?_, ?_, ?_, ?_, ?_⟩
  · unfold recordReads
    exact (foldl_keep (fun s : State => s.link.area) _ (fun s x => by split <;> simp) _ _).trans (by simp)
  · unfold recordReads
    exact (foldl_keep (fun s : State => s.link.areaSet) _ (fun s x => by split <;> simp) _ _).trans (by simp)
  · unfold recordReads
    exact (foldl_keep (fun s : State => s.link.unreported) _ (fun s x => by split <;> simp) _ _).trans (by simp)
  · unfold recordReads
    exact (foldl_keep (fun s : State => s.link.idleTimer) _ (fun s x => by split <;> simp) _ _).trans (by simp)
  · unfold recordReads
    exact (foldl_keep (fun s : State => s.link.waiting) _ (fun s x => by split <;> simp) _ _).trans (by simp)
  · unfold recordReads
    exact (foldl_keep (fun s : State => s.link.readData) _ (fun s x => by split <;> simp) _ _).trans (by simp)
  · unfold recordReads
    exact (foldl_keep (fun s : State => s.intake) _ (fun s x => by split <;> simp) _ _).trans (by simp)
  · unfold recordReads
    exact (foldl_keep (fun s : State => s.setup) _ (fun s x => by split <;> simp) _ _).trans (by simp)
  · unfold recordReads
    exact (foldl_keep (fun s : State => s.paper) _ (fun s x => by split <;> simp) _ _).trans (by simp)
  · unfold recordReads
    exact (foldl_keep (fun s : State => s.plan) _ (fun s x => by split <;> simp) _ _).trans (by simp)
  · unfold recordReads
    exact (foldl_keep (fun s : State => s.fetch) _ (fun s x => by split <;> simp) _ _).trans (by simp)
  · unfold recordReads
    exact (foldl_keep (fun s : State => s.pulse) _ (fun s x => by split <;> simp) _ _).trans (by simp)
  · unfold recordReads
    exact (foldl_keep (fun s : State => s.line) _ (fun s x => by split <;> simp) _ _).trans (by simp)
  · unfold recordReads
    exact (foldl_keep (fun s : State => s.supply) _ (fun s x => by split <;> simp) _ _).trans (by simp)
  · unfold recordReads
    exact (foldl_keep (fun s : State => s.web) _ (fun s x => by split <;> simp) _ _).trans (by simp)
  · unfold recordReads
    exact (foldl_keep (fun s : State => s.cut) _ (fun s x => by split <;> simp) _ _).trans (by simp)
  · unfold recordReads
    exact (foldl_keep (fun s : State => s.sort) _ (fun s x => by split <;> simp) _ _).trans (by simp)
  · unfold recordReads
    exact (foldl_keep (fun s : State => s.eng.state) _ (fun s x => by split <;> simp) _ _).trans (by simp)
  · unfold recordReads
    exact (foldl_keep (fun s : State => s.eng.resetKind) _ (fun s x => by split <;> simp) _ _).trans (by simp)
  · unfold recordReads
    exact (foldl_keep (fun s : State => s.eng.hold) _ (fun s x => by split <;> simp) _ _).trans (by simp)
  · unfold recordReads
    exact (foldl_keep (fun s : State => s.out) _ (fun s x => by split <;> simp) _ _).trans (by simp)
  · unfold recordReads
    exact (foldl_keep (fun s : State => s.pending) _ (fun s x => by split <;> simp) _ _).trans (by simp)

@[simp] theorem emitStepOne_frame (reads : List SlotRead) (s : State) :
    (emitStepOne reads s).link = s.link ∧ (emitStepOne reads s).intake = s.intake ∧ (emitStepOne reads s).setup = s.setup
      ∧ (emitStepOne reads s).paper = s.paper ∧ (emitStepOne reads s).plan = s.plan ∧ (emitStepOne reads s).fetch = s.fetch
      ∧ (emitStepOne reads s).pulse = s.pulse ∧ (emitStepOne reads s).line = s.line ∧ (emitStepOne reads s).supply = s.supply
      ∧ (emitStepOne reads s).web = s.web ∧ (emitStepOne reads s).cut = s.cut ∧ (emitStepOne reads s).sort = s.sort
      ∧ (emitStepOne reads s).eng = s.eng ∧ (emitStepOne reads s).pending = s.pending := by
  refine ⟨?_, ?_, ?_, ?_, ?_, ?_, ?_, ?_, ?_, ?_, ?_, ?_, ?_, ?_⟩
  · unfold emitStepOne; exact (foldl_keep (fun s : State => s.link) _ (fun s x => by simp) _ _)
  · unfold emitStepOne; exact (foldl_keep (fun s : State => s.intake) _ (fun s x => by simp) _ _)
  · unfold emitStepOne; exact (foldl_keep (fun s : State => s.setup) _ (fun s x => by simp) _ _)
  · unfold emitStepOne; exact (foldl_keep (fun s : State => s.paper) _ (fun s x => by simp) _ _)
  · unfold emitStepOne; exact (foldl_keep (fun s : State => s.plan) _ (fun s x => by simp) _ _)
  · unfold emitStepOne; exact (foldl_keep (fun s : State => s.fetch) _ (fun s x => by simp) _ _)
  · unfold emitStepOne; exact (foldl_keep (fun s : State => s.pulse) _ (fun s x => by simp) _ _)
  · unfold emitStepOne; exact (foldl_keep (fun s : State => s.line) _ (fun s x => by simp) _ _)
  · unfold emitStepOne; exact (foldl_keep (fun s : State => s.supply) _ (fun s x => by simp) _ _)
  · unfold emitStepOne; exact (foldl_keep (fun s : State => s.web) _ (fun s x => by simp) _ _)
  · unfold emitStepOne; exact (foldl_keep (fun s : State => s.cut) _ (fun s x => by simp) _ _)
  · unfold emitStepOne; exact (foldl_keep (fun s : State => s.sort) _ (fun s x => by simp) _ _)
  · unfold emitStepOne; exact (foldl_keep (fun s : State => s.eng) _ (fun s x => by simp) _ _)
  · unfold emitStepOne; exact (foldl_keep (fun s : State => s.pending) _ (fun s x => by simp) _ _)

@[simp] theorem endStepOne_frame (reads : List SlotRead) (w : Sweep) (s : State) :
    (endStepOne reads w s).setup = s.setup ∧ (endStepOne reads w s).paper = s.paper ∧ (endStepOne reads w s).plan = s.plan
      ∧ (endStepOne reads w s).fetch = s.fetch ∧ (endStepOne reads w s).pulse = s.pulse ∧ (endStepOne reads w s).line = s.line
      ∧ (endStepOne reads w s).supply = s.supply ∧ (endStepOne reads w s).web = s.web ∧ (endStepOne reads w s).cut = s.cut
      ∧ (endStepOne reads w s).sort = s.sort ∧ (endStepOne reads w s).pending = s.pending
      ∧ (endStepOne reads w s).link.area = s.link.area ∧ (endStepOne reads w s).link.areaSet = s.link.areaSet
      ∧ (endStepOne reads w s).link.unreported = s.link.unreported ∧ (endStepOne reads w s).link.idleTimer = s.link.idleTimer
      ∧ (endStepOne reads w s).link.waiting = s.link.waiting ∧ (endStepOne reads w s).link.readData = s.link.readData
      ∧ (endStepOne reads w s).intake.timer = s.intake.timer ∧ (endStepOne reads w s).intake.takeSeq = s.intake.takeSeq
      ∧ (endStepOne reads w s).intake.lostPending = s.intake.lostPending
      ∧ (endStepOne reads w s).intake.cellRead = s.intake.cellRead
      ∧ (endStepOne reads w s).intake.cellOwed = s.intake.cellOwed
      ∧ (endStepOne reads w s).intake.detached = s.intake.detached ∧ (endStepOne reads w s).eng.state = s.eng.state
      ∧ (endStepOne reads w s).eng.resetKind = s.eng.resetKind ∧ (endStepOne reads w s).eng.hold = s.eng.hold := by
  simp [endStepOne]

@[simp] theorem answerAll_frame (qs : List SlotRequest) (s : State) :
    (answerAll qs s).link.area = s.link.area ∧ (answerAll qs s).link.areaSet = s.link.areaSet
      ∧ (answerAll qs s).link.unreported = s.link.unreported
      ∧ (answerAll qs s).link.idleTimer = s.link.idleTimer ∧ (answerAll qs s).link.readData = s.link.readData
      ∧ (answerAll qs s).intake.timer = s.intake.timer ∧ (answerAll qs s).intake.takeSeq = s.intake.takeSeq
      ∧ (answerAll qs s).intake.lostPending = s.intake.lostPending ∧ (answerAll qs s).intake.cellRead = s.intake.cellRead
      ∧ (answerAll qs s).intake.cellOwed = s.intake.cellOwed ∧ (answerAll qs s).intake.detached = s.intake.detached
      ∧ (answerAll qs s).setup = s.setup
      ∧ (answerAll qs s).paper.active = s.paper.active ∧ (answerAll qs s).paper.target = s.paper.target
      ∧ (answerAll qs s).paper.timer = s.paper.timer
      ∧ (answerAll qs s).plan.switchFlag = s.plan.switchFlag ∧ (answerAll qs s).plan.framesExposed = s.plan.framesExposed
      ∧ (answerAll qs s).plan.budgetRemakes = s.plan.budgetRemakes ∧ (answerAll qs s).plan.jamRemakes = s.plan.jamRemakes
      ∧ (answerAll qs s).fetch = s.fetch ∧ (answerAll qs s).pulse = s.pulse ∧ (answerAll qs s).line = s.line
      ∧ (answerAll qs s).supply = s.supply
      ∧ (answerAll qs s).web = s.web ∧ (answerAll qs s).cut = s.cut ∧ (answerAll qs s).sort.lane = s.sort.lane
      ∧ (answerAll qs s).sort.rejectCount = s.sort.rejectCount ∧ (answerAll qs s).sort.rejectFull = s.sort.rejectFull
      ∧ (answerAll qs s).sort.misroutes = s.sort.misroutes ∧ (answerAll qs s).sort.clock = s.sort.clock
      ∧ (answerAll qs s).sort.keys = s.sort.keys
      ∧ (answerAll qs s).sort.blink1 = s.sort.blink1 ∧ (answerAll qs s).sort.blink4 = s.sort.blink4
      ∧ (answerAll qs s).eng = s.eng
      ∧ (answerAll qs s).out = s.out ∧ (answerAll qs s).pending = s.pending := by
  refine ⟨?_, ?_, ?_, ?_, ?_, ?_, ?_, ?_, ?_, ?_, ?_, ?_, ?_, ?_, ?_, ?_, ?_, ?_, ?_, ?_, ?_, ?_, ?_, ?_, ?_, ?_, ?_, ?_, ?_, ?_, ?_, ?_, ?_, ?_, ?_, ?_⟩
  · unfold answerAll
    exact (foldl_keep (fun s : State => s.link.area) _ (fun s x => by simp) _ _).trans (by simp)
  · unfold answerAll
    exact (foldl_keep (fun s : State => s.link.areaSet) _ (fun s x => by simp) _ _).trans (by simp)
  · unfold answerAll
    exact (foldl_keep (fun s : State => s.link.unreported) _ (fun s x => by simp) _ _).trans (by simp)
  · unfold answerAll
    exact (foldl_keep (fun s : State => s.link.idleTimer) _ (fun s x => by simp) _ _).trans (by simp)
  · unfold answerAll
    exact (foldl_keep (fun s : State => s.link.readData) _ (fun s x => by simp) _ _).trans (by simp)
  · unfold answerAll
    exact (foldl_keep (fun s : State => s.intake.timer) _ (fun s x => by simp) _ _).trans (by simp)
  · unfold answerAll
    exact (foldl_keep (fun s : State => s.intake.takeSeq) _ (fun s x => by simp) _ _).trans (by simp)
  · unfold answerAll
    exact (foldl_keep (fun s : State => s.intake.lostPending) _ (fun s x => by simp) _ _).trans (by simp)
  · unfold answerAll
    exact (foldl_keep (fun s : State => s.intake.cellRead) _ (fun s x => by simp) _ _).trans (by simp)
  · unfold answerAll
    exact (foldl_keep (fun s : State => s.intake.cellOwed) _ (fun s x => by simp) _ _).trans (by simp)
  · unfold answerAll
    exact (foldl_keep (fun s : State => s.intake.detached) _ (fun s x => by simp) _ _).trans (by simp)
  · unfold answerAll
    exact (foldl_keep (fun s : State => s.setup) _ (fun s x => by simp) _ _).trans (by simp)
  · unfold answerAll
    exact (foldl_keep (fun s : State => s.paper.active) _ (fun s x => by simp) _ _).trans (by simp)
  · unfold answerAll
    exact (foldl_keep (fun s : State => s.paper.target) _ (fun s x => by simp) _ _).trans (by simp)
  · unfold answerAll
    exact (foldl_keep (fun s : State => s.paper.timer) _ (fun s x => by simp) _ _).trans (by simp)
  · unfold answerAll
    exact (foldl_keep (fun s : State => s.plan.switchFlag) _ (fun s x => by simp) _ _).trans (by simp)
  · unfold answerAll
    exact (foldl_keep (fun s : State => s.plan.framesExposed) _ (fun s x => by simp) _ _).trans (by simp)
  · unfold answerAll
    exact (foldl_keep (fun s : State => s.plan.budgetRemakes) _ (fun s x => by simp) _ _).trans (by simp)
  · unfold answerAll
    exact (foldl_keep (fun s : State => s.plan.jamRemakes) _ (fun s x => by simp) _ _).trans (by simp)
  · unfold answerAll
    exact (foldl_keep (fun s : State => s.fetch) _ (fun s x => by simp) _ _).trans (by simp)
  · unfold answerAll
    exact (foldl_keep (fun s : State => s.pulse) _ (fun s x => by simp) _ _).trans (by simp)
  · unfold answerAll
    exact (foldl_keep (fun s : State => s.line) _ (fun s x => by simp) _ _).trans (by simp)
  · unfold answerAll
    exact (foldl_keep (fun s : State => s.supply) _ (fun s x => by simp) _ _).trans (by simp)
  · unfold answerAll
    exact (foldl_keep (fun s : State => s.web) _ (fun s x => by simp) _ _).trans (by simp)
  · unfold answerAll
    exact (foldl_keep (fun s : State => s.cut) _ (fun s x => by simp) _ _).trans (by simp)
  · unfold answerAll
    exact (foldl_keep (fun s : State => s.sort.lane) _ (fun s x => by simp) _ _).trans (by simp)
  · unfold answerAll
    exact (foldl_keep (fun s : State => s.sort.rejectCount) _ (fun s x => by simp) _ _).trans (by simp)
  · unfold answerAll
    exact (foldl_keep (fun s : State => s.sort.rejectFull) _ (fun s x => by simp) _ _).trans (by simp)
  · unfold answerAll
    exact (foldl_keep (fun s : State => s.sort.misroutes) _ (fun s x => by simp) _ _).trans (by simp)
  · unfold answerAll
    exact (foldl_keep (fun s : State => s.sort.clock) _ (fun s x => by simp) _ _).trans (by simp)
  · unfold answerAll
    exact (foldl_keep (fun s : State => s.sort.keys) _ (fun s x => by simp) _ _).trans (by simp)
  · unfold answerAll
    exact (foldl_keep (fun s : State => s.sort.blink1) _ (fun s x => by simp) _ _).trans (by simp)
  · unfold answerAll
    exact (foldl_keep (fun s : State => s.sort.blink4) _ (fun s x => by simp) _ _).trans (by simp)
  · unfold answerAll
    exact (foldl_keep (fun s : State => s.eng) _ (fun s x => by simp) _ _).trans (by simp)
  · unfold answerAll
    exact (foldl_keep (fun s : State => s.out) _ (fun s x => by simp) _ _).trans (by simp)
  · unfold answerAll
    exact (foldl_keep (fun s : State => s.pending) _ (fun s x => by simp) _ _).trans (by simp)

@[simp] theorem checkSlot_frame (s : State) (x : SlotScan) :
    (checkSlot s x).link.area = s.link.area ∧ (checkSlot s x).link.areaSet = s.link.areaSet
      ∧ (checkSlot s x).link.unreported = s.link.unreported
      ∧ (checkSlot s x).link.idleTimer = s.link.idleTimer ∧ (checkSlot s x).link.readData = s.link.readData
      ∧ (checkSlot s x).intake.timer = s.intake.timer ∧ (checkSlot s x).intake.takeSeq = s.intake.takeSeq
      ∧ (checkSlot s x).intake.lostPending = s.intake.lostPending ∧ (checkSlot s x).intake.sweep = s.intake.sweep
      ∧ (checkSlot s x).intake.cellRead = s.intake.cellRead ∧ (checkSlot s x).intake.cellOwed = s.intake.cellOwed
      ∧ (checkSlot s x).setup = s.setup
      ∧ (checkSlot s x).paper.active = s.paper.active ∧ (checkSlot s x).paper.target = s.paper.target
      ∧ (checkSlot s x).paper.timer = s.paper.timer
      ∧ (checkSlot s x).plan.switchFlag = s.plan.switchFlag ∧ (checkSlot s x).plan.framesExposed = s.plan.framesExposed
      ∧ (checkSlot s x).plan.budgetRemakes = s.plan.budgetRemakes ∧ (checkSlot s x).plan.jamRemakes = s.plan.jamRemakes
      ∧ (checkSlot s x).fetch = s.fetch ∧ (checkSlot s x).pulse = s.pulse ∧ (checkSlot s x).line = s.line
      ∧ (checkSlot s x).supply = s.supply
      ∧ (checkSlot s x).web = s.web ∧ (checkSlot s x).cut = s.cut ∧ (checkSlot s x).sort.lane = s.sort.lane
      ∧ (checkSlot s x).sort.rejectCount = s.sort.rejectCount ∧ (checkSlot s x).sort.rejectFull = s.sort.rejectFull
      ∧ (checkSlot s x).sort.misroutes = s.sort.misroutes ∧ (checkSlot s x).sort.clock = s.sort.clock
      ∧ (checkSlot s x).sort.keys = s.sort.keys
      ∧ (checkSlot s x).sort.blink1 = s.sort.blink1 ∧ (checkSlot s x).sort.blink4 = s.sort.blink4
      ∧ (checkSlot s x).eng = s.eng
      ∧ (checkSlot s x).out = s.out ∧ (checkSlot s x).pending = s.pending := by
  unfold checkSlot
  (repeat' split) <;> simp

@[simp] theorem foldl_checkSlot_frame (l : List SlotScan) (s : State) :
    (l.foldl checkSlot s).link.area = s.link.area ∧ (l.foldl checkSlot s).link.areaSet = s.link.areaSet
      ∧ (l.foldl checkSlot s).link.unreported = s.link.unreported ∧ (l.foldl checkSlot s).link.idleTimer = s.link.idleTimer
      ∧ (l.foldl checkSlot s).link.readData = s.link.readData ∧ (l.foldl checkSlot s).intake.timer = s.intake.timer
      ∧ (l.foldl checkSlot s).intake.takeSeq = s.intake.takeSeq
      ∧ (l.foldl checkSlot s).intake.lostPending = s.intake.lostPending
      ∧ (l.foldl checkSlot s).intake.sweep = s.intake.sweep ∧ (l.foldl checkSlot s).intake.cellRead = s.intake.cellRead
      ∧ (l.foldl checkSlot s).intake.cellOwed = s.intake.cellOwed ∧ (l.foldl checkSlot s).setup = s.setup
      ∧ (l.foldl checkSlot s).paper.active = s.paper.active ∧ (l.foldl checkSlot s).paper.target = s.paper.target
      ∧ (l.foldl checkSlot s).paper.timer = s.paper.timer ∧ (l.foldl checkSlot s).plan.switchFlag = s.plan.switchFlag
      ∧ (l.foldl checkSlot s).plan.framesExposed = s.plan.framesExposed
      ∧ (l.foldl checkSlot s).plan.budgetRemakes = s.plan.budgetRemakes
      ∧ (l.foldl checkSlot s).plan.jamRemakes = s.plan.jamRemakes ∧ (l.foldl checkSlot s).fetch = s.fetch
      ∧ (l.foldl checkSlot s).pulse = s.pulse
      ∧ (l.foldl checkSlot s).line = s.line ∧ (l.foldl checkSlot s).supply = s.supply ∧ (l.foldl checkSlot s).web = s.web
      ∧ (l.foldl checkSlot s).cut = s.cut ∧ (l.foldl checkSlot s).sort.lane = s.sort.lane
      ∧ (l.foldl checkSlot s).sort.rejectCount = s.sort.rejectCount
      ∧ (l.foldl checkSlot s).sort.rejectFull = s.sort.rejectFull
      ∧ (l.foldl checkSlot s).sort.misroutes = s.sort.misroutes ∧ (l.foldl checkSlot s).sort.clock = s.sort.clock
      ∧ (l.foldl checkSlot s).sort.keys = s.sort.keys ∧ (l.foldl checkSlot s).sort.blink1 = s.sort.blink1
      ∧ (l.foldl checkSlot s).sort.blink4 = s.sort.blink4 ∧ (l.foldl checkSlot s).eng = s.eng
      ∧ (l.foldl checkSlot s).out = s.out
      ∧ (l.foldl checkSlot s).pending = s.pending := by
  refine ⟨?_, ?_, ?_, ?_, ?_, ?_, ?_, ?_, ?_, ?_, ?_, ?_, ?_, ?_, ?_, ?_, ?_, ?_, ?_, ?_, ?_, ?_, ?_, ?_, ?_, ?_, ?_, ?_, ?_, ?_, ?_, ?_, ?_, ?_, ?_, ?_⟩
  · exact foldl_keep (fun s : State => s.link.area) _ (fun s x => by simp) _ _
  · exact foldl_keep (fun s : State => s.link.areaSet) _ (fun s x => by simp) _ _
  · exact foldl_keep (fun s : State => s.link.unreported) _ (fun s x => by simp) _ _
  · exact foldl_keep (fun s : State => s.link.idleTimer) _ (fun s x => by simp) _ _
  · exact foldl_keep (fun s : State => s.link.readData) _ (fun s x => by simp) _ _
  · exact foldl_keep (fun s : State => s.intake.timer) _ (fun s x => by simp) _ _
  · exact foldl_keep (fun s : State => s.intake.takeSeq) _ (fun s x => by simp) _ _
  · exact foldl_keep (fun s : State => s.intake.lostPending) _ (fun s x => by simp) _ _
  · exact foldl_keep (fun s : State => s.intake.sweep) _ (fun s x => by simp) _ _
  · exact foldl_keep (fun s : State => s.intake.cellRead) _ (fun s x => by simp) _ _
  · exact foldl_keep (fun s : State => s.intake.cellOwed) _ (fun s x => by simp) _ _
  · exact foldl_keep (fun s : State => s.setup) _ (fun s x => by simp) _ _
  · exact foldl_keep (fun s : State => s.paper.active) _ (fun s x => by simp) _ _
  · exact foldl_keep (fun s : State => s.paper.target) _ (fun s x => by simp) _ _
  · exact foldl_keep (fun s : State => s.paper.timer) _ (fun s x => by simp) _ _
  · exact foldl_keep (fun s : State => s.plan.switchFlag) _ (fun s x => by simp) _ _
  · exact foldl_keep (fun s : State => s.plan.framesExposed) _ (fun s x => by simp) _ _
  · exact foldl_keep (fun s : State => s.plan.budgetRemakes) _ (fun s x => by simp) _ _
  · exact foldl_keep (fun s : State => s.plan.jamRemakes) _ (fun s x => by simp) _ _
  · exact foldl_keep (fun s : State => s.fetch) _ (fun s x => by simp) _ _
  · exact foldl_keep (fun s : State => s.pulse) _ (fun s x => by simp) _ _
  · exact foldl_keep (fun s : State => s.line) _ (fun s x => by simp) _ _
  · exact foldl_keep (fun s : State => s.supply) _ (fun s x => by simp) _ _
  · exact foldl_keep (fun s : State => s.web) _ (fun s x => by simp) _ _
  · exact foldl_keep (fun s : State => s.cut) _ (fun s x => by simp) _ _
  · exact foldl_keep (fun s : State => s.sort.lane) _ (fun s x => by simp) _ _
  · exact foldl_keep (fun s : State => s.sort.rejectCount) _ (fun s x => by simp) _ _
  · exact foldl_keep (fun s : State => s.sort.rejectFull) _ (fun s x => by simp) _ _
  · exact foldl_keep (fun s : State => s.sort.misroutes) _ (fun s x => by simp) _ _
  · exact foldl_keep (fun s : State => s.sort.clock) _ (fun s x => by simp) _ _
  · exact foldl_keep (fun s : State => s.sort.keys) _ (fun s x => by simp) _ _
  · exact foldl_keep (fun s : State => s.sort.blink1) _ (fun s x => by simp) _ _
  · exact foldl_keep (fun s : State => s.sort.blink4) _ (fun s x => by simp) _ _
  · exact foldl_keep (fun s : State => s.eng) _ (fun s x => by simp) _ _
  · exact foldl_keep (fun s : State => s.out) _ (fun s x => by simp) _ _
  · exact foldl_keep (fun s : State => s.pending) _ (fun s x => by simp) _ _

@[simp] theorem setStep_frame (st : SweepStep) (s : State) :
    (setStep st s).link = s.link ∧ (setStep st s).intake.timer = s.intake.timer
      ∧ (setStep st s).intake.takeSeq = s.intake.takeSeq
      ∧ (setStep st s).intake.lostPending = s.intake.lostPending ∧ (setStep st s).intake.cellRead = s.intake.cellRead
      ∧ (setStep st s).intake.cellOwed = s.intake.cellOwed ∧ (setStep st s).intake.detached = s.intake.detached
      ∧ (setStep st s).setup = s.setup
      ∧ (setStep st s).paper = s.paper ∧ (setStep st s).plan = s.plan ∧ (setStep st s).fetch = s.fetch
      ∧ (setStep st s).pulse = s.pulse
      ∧ (setStep st s).line = s.line ∧ (setStep st s).supply = s.supply ∧ (setStep st s).web = s.web
      ∧ (setStep st s).cut = s.cut
      ∧ (setStep st s).sort = s.sort ∧ (setStep st s).eng = s.eng ∧ (setStep st s).out = s.out
      ∧ (setStep st s).pending = s.pending := by
  unfold setStep
  (repeat' split) <;> simp

@[simp] theorem endStepTwo_frame (w : Sweep) (s : State) :
    (endStepTwo w s).link.area = s.link.area ∧ (endStepTwo w s).link.areaSet = s.link.areaSet
      ∧ (endStepTwo w s).link.readData = s.link.readData
      ∧ (endStepTwo w s).intake.timer = s.intake.timer ∧ (endStepTwo w s).intake.takeSeq = s.intake.takeSeq
      ∧ (endStepTwo w s).intake.lostPending = s.intake.lostPending ∧ (endStepTwo w s).intake.cellRead = s.intake.cellRead
      ∧ (endStepTwo w s).intake.cellOwed = s.intake.cellOwed ∧ (endStepTwo w s).setup = s.setup
      ∧ (endStepTwo w s).paper.active = s.paper.active
      ∧ (endStepTwo w s).paper.target = s.paper.target ∧ (endStepTwo w s).paper.timer = s.paper.timer
      ∧ (endStepTwo w s).plan.switchFlag = s.plan.switchFlag ∧ (endStepTwo w s).plan.framesExposed = s.plan.framesExposed
      ∧ (endStepTwo w s).plan.budgetRemakes = s.plan.budgetRemakes ∧ (endStepTwo w s).plan.jamRemakes = s.plan.jamRemakes
      ∧ (endStepTwo w s).fetch = s.fetch ∧ (endStepTwo w s).pulse = s.pulse ∧ (endStepTwo w s).line = s.line
      ∧ (endStepTwo w s).supply = s.supply
      ∧ (endStepTwo w s).web = s.web ∧ (endStepTwo w s).cut = s.cut ∧ (endStepTwo w s).sort.lane = s.sort.lane
      ∧ (endStepTwo w s).sort.rejectCount = s.sort.rejectCount ∧ (endStepTwo w s).sort.rejectFull = s.sort.rejectFull
      ∧ (endStepTwo w s).sort.misroutes = s.sort.misroutes ∧ (endStepTwo w s).sort.clock = s.sort.clock
      ∧ (endStepTwo w s).sort.keys = s.sort.keys
      ∧ (endStepTwo w s).sort.blink1 = s.sort.blink1 ∧ (endStepTwo w s).sort.blink4 = s.sort.blink4
      ∧ (endStepTwo w s).eng = s.eng ∧ (endStepTwo w s).pending = s.pending := by
  simp [endStepTwo]

@[simp] theorem endStepThree_frame (w : Sweep) (s : State) :
    (endStepThree w s).link = s.link ∧ (endStepThree w s).intake.timer = s.intake.timer
      ∧ (endStepThree w s).intake.takeSeq = s.intake.takeSeq
      ∧ (endStepThree w s).intake.cellRead = s.intake.cellRead ∧ (endStepThree w s).intake.cellOwed = s.intake.cellOwed
      ∧ (endStepThree w s).intake.detached = s.intake.detached ∧ (endStepThree w s).setup = s.setup
      ∧ (endStepThree w s).paper = s.paper
      ∧ (endStepThree w s).plan = s.plan ∧ (endStepThree w s).fetch = s.fetch ∧ (endStepThree w s).pulse = s.pulse
      ∧ (endStepThree w s).line = s.line
      ∧ (endStepThree w s).supply = s.supply ∧ (endStepThree w s).web = s.web ∧ (endStepThree w s).cut = s.cut
      ∧ (endStepThree w s).sort = s.sort
      ∧ (endStepThree w s).eng = s.eng ∧ (endStepThree w s).pending = s.pending := by
  simp [endStepThree]

@[simp] theorem readCell_frame (s : State) :
    (readCell s).link = s.link ∧ (readCell s).intake.timer = s.intake.timer ∧ (readCell s).intake.takeSeq = s.intake.takeSeq
      ∧ (readCell s).intake.lostPending = s.intake.lostPending ∧ (readCell s).intake.sweep = s.intake.sweep
      ∧ (readCell s).intake.cellOwed = s.intake.cellOwed ∧ (readCell s).intake.detached = s.intake.detached
      ∧ (readCell s).setup = s.setup
      ∧ (readCell s).paper = s.paper ∧ (readCell s).plan = s.plan ∧ (readCell s).fetch = s.fetch
      ∧ (readCell s).pulse = s.pulse
      ∧ (readCell s).line = s.line ∧ (readCell s).supply = s.supply ∧ (readCell s).web = s.web ∧ (readCell s).cut = s.cut
      ∧ (readCell s).sort = s.sort
      ∧ (readCell s).eng = s.eng ∧ (readCell s).pending = s.pending := by
  unfold readCell
  (repeat' split) <;> simp

@[simp] theorem endSweep_frame (s : State) :
    (endSweep s).link = s.link ∧ (endSweep s).intake.timer = s.intake.timer ∧ (endSweep s).intake.takeSeq = s.intake.takeSeq
      ∧ (endSweep s).intake.lostPending = s.intake.lostPending ∧ (endSweep s).intake.cellRead = s.intake.cellRead
      ∧ (endSweep s).intake.cellOwed = s.intake.cellOwed ∧ (endSweep s).intake.detached = s.intake.detached
      ∧ (endSweep s).setup = s.setup
      ∧ (endSweep s).paper = s.paper ∧ (endSweep s).plan = s.plan ∧ (endSweep s).fetch = s.fetch
      ∧ (endSweep s).pulse = s.pulse
      ∧ (endSweep s).line = s.line ∧ (endSweep s).supply = s.supply ∧ (endSweep s).web = s.web ∧ (endSweep s).cut = s.cut
      ∧ (endSweep s).sort = s.sort
      ∧ (endSweep s).eng = s.eng ∧ (endSweep s).out = s.out ∧ (endSweep s).pending = s.pending := by
  unfold endSweep
  (repeat' split) <;> simp

@[simp] theorem beginStep_frame (reads : List SlotRead) (s : State) :
    (beginStep reads s).setup = s.setup ∧ (beginStep reads s).fetch = s.fetch ∧ (beginStep reads s).pulse = s.pulse
      ∧ (beginStep reads s).line = s.line ∧ (beginStep reads s).supply = s.supply ∧ (beginStep reads s).web = s.web
      ∧ (beginStep reads s).cut = s.cut ∧ (beginStep reads s).pending = s.pending
      ∧ (beginStep reads s).link.area = s.link.area ∧ (beginStep reads s).link.areaSet = s.link.areaSet
      ∧ (beginStep reads s).link.readData = s.link.readData ∧ (beginStep reads s).intake.timer = s.intake.timer
      ∧ (beginStep reads s).intake.takeSeq = s.intake.takeSeq ∧ (beginStep reads s).intake.cellOwed = s.intake.cellOwed
      ∧ (beginStep reads s).paper.active = s.paper.active ∧ (beginStep reads s).paper.target = s.paper.target
      ∧ (beginStep reads s).paper.timer = s.paper.timer ∧ (beginStep reads s).plan.switchFlag = s.plan.switchFlag
      ∧ (beginStep reads s).plan.framesExposed = s.plan.framesExposed
      ∧ (beginStep reads s).plan.budgetRemakes = s.plan.budgetRemakes
      ∧ (beginStep reads s).plan.jamRemakes = s.plan.jamRemakes ∧ (beginStep reads s).sort.lane = s.sort.lane
      ∧ (beginStep reads s).sort.rejectCount = s.sort.rejectCount ∧ (beginStep reads s).sort.rejectFull = s.sort.rejectFull
      ∧ (beginStep reads s).sort.misroutes = s.sort.misroutes ∧ (beginStep reads s).sort.clock = s.sort.clock
      ∧ (beginStep reads s).sort.keys = s.sort.keys ∧ (beginStep reads s).sort.blink1 = s.sort.blink1
      ∧ (beginStep reads s).sort.blink4 = s.sort.blink4 ∧ (beginStep reads s).eng.state = s.eng.state
      ∧ (beginStep reads s).eng.resetKind = s.eng.resetKind ∧ (beginStep reads s).eng.hold = s.eng.hold := by
  simp only [beginStep]; (repeat' split) <;> simp

@[simp] theorem sweepStep_frame (reads : List SlotRead) (s : State) :
    (sweepStep reads s).setup = s.setup ∧ (sweepStep reads s).fetch = s.fetch ∧ (sweepStep reads s).pulse = s.pulse
      ∧ (sweepStep reads s).line = s.line ∧ (sweepStep reads s).supply = s.supply ∧ (sweepStep reads s).web = s.web
      ∧ (sweepStep reads s).cut = s.cut ∧ (sweepStep reads s).pending = s.pending
      ∧ (sweepStep reads s).link.area = s.link.area ∧ (sweepStep reads s).link.areaSet = s.link.areaSet
      ∧ (sweepStep reads s).link.readData = s.link.readData ∧ (sweepStep reads s).intake.timer = s.intake.timer
      ∧ (sweepStep reads s).intake.takeSeq = s.intake.takeSeq ∧ (sweepStep reads s).intake.cellOwed = s.intake.cellOwed
      ∧ (sweepStep reads s).paper.active = s.paper.active ∧ (sweepStep reads s).paper.target = s.paper.target
      ∧ (sweepStep reads s).paper.timer = s.paper.timer ∧ (sweepStep reads s).plan.switchFlag = s.plan.switchFlag
      ∧ (sweepStep reads s).plan.framesExposed = s.plan.framesExposed
      ∧ (sweepStep reads s).plan.budgetRemakes = s.plan.budgetRemakes
      ∧ (sweepStep reads s).plan.jamRemakes = s.plan.jamRemakes ∧ (sweepStep reads s).sort.lane = s.sort.lane
      ∧ (sweepStep reads s).sort.rejectCount = s.sort.rejectCount ∧ (sweepStep reads s).sort.rejectFull = s.sort.rejectFull
      ∧ (sweepStep reads s).sort.misroutes = s.sort.misroutes ∧ (sweepStep reads s).sort.clock = s.sort.clock
      ∧ (sweepStep reads s).sort.keys = s.sort.keys ∧ (sweepStep reads s).sort.blink1 = s.sort.blink1
      ∧ (sweepStep reads s).sort.blink4 = s.sort.blink4 ∧ (sweepStep reads s).eng.state = s.eng.state
      ∧ (sweepStep reads s).eng.resetKind = s.eng.resetKind ∧ (sweepStep reads s).eng.hold = s.eng.hold := by
  simp only [sweepStep]; (repeat' split) <;> simp

@[simp] theorem readOperands_frame (s : State) :
    (readOperands s).link = s.link ∧ (readOperands s).intake = s.intake ∧ (readOperands s).setup = s.setup
      ∧ (readOperands s).paper = s.paper ∧ (readOperands s).plan = s.plan ∧ (readOperands s).fetch = s.fetch
      ∧ (readOperands s).pulse = s.pulse ∧ (readOperands s).line = s.line ∧ (readOperands s).supply = s.supply
      ∧ (readOperands s).web = s.web ∧ (readOperands s).cut = s.cut ∧ (readOperands s).sort = s.sort
      ∧ (readOperands s).eng = s.eng ∧ (readOperands s).pending = s.pending := by
  refine ⟨?_, ?_, ?_, ?_, ?_, ?_, ?_, ?_, ?_, ?_, ?_, ?_, ?_, ?_⟩
  · unfold readOperands; exact (foldl_keep (fun s : State => s.link) _ (fun s x => by simp) _ _)
  · unfold readOperands; exact (foldl_keep (fun s : State => s.intake) _ (fun s x => by simp) _ _)
  · unfold readOperands; exact (foldl_keep (fun s : State => s.setup) _ (fun s x => by simp) _ _)
  · unfold readOperands; exact (foldl_keep (fun s : State => s.paper) _ (fun s x => by simp) _ _)
  · unfold readOperands; exact (foldl_keep (fun s : State => s.plan) _ (fun s x => by simp) _ _)
  · unfold readOperands; exact (foldl_keep (fun s : State => s.fetch) _ (fun s x => by simp) _ _)
  · unfold readOperands; exact (foldl_keep (fun s : State => s.pulse) _ (fun s x => by simp) _ _)
  · unfold readOperands; exact (foldl_keep (fun s : State => s.line) _ (fun s x => by simp) _ _)
  · unfold readOperands; exact (foldl_keep (fun s : State => s.supply) _ (fun s x => by simp) _ _)
  · unfold readOperands; exact (foldl_keep (fun s : State => s.web) _ (fun s x => by simp) _ _)
  · unfold readOperands; exact (foldl_keep (fun s : State => s.cut) _ (fun s x => by simp) _ _)
  · unfold readOperands; exact (foldl_keep (fun s : State => s.sort) _ (fun s x => by simp) _ _)
  · unfold readOperands; exact (foldl_keep (fun s : State => s.eng) _ (fun s x => by simp) _ _)
  · unfold readOperands; exact (foldl_keep (fun s : State => s.pending) _ (fun s x => by simp) _ _)

@[simp] theorem cellReadFault_frame (off : Nat) (s : State) :
    (cellReadFault off s).setup = s.setup ∧ (cellReadFault off s).paper = s.paper ∧ (cellReadFault off s).plan = s.plan
      ∧ (cellReadFault off s).fetch = s.fetch ∧ (cellReadFault off s).pulse = s.pulse ∧ (cellReadFault off s).line = s.line
      ∧ (cellReadFault off s).supply = s.supply ∧ (cellReadFault off s).web = s.web ∧ (cellReadFault off s).cut = s.cut
      ∧ (cellReadFault off s).sort = s.sort ∧ (cellReadFault off s).out = s.out ∧ (cellReadFault off s).pending = s.pending
      ∧ (cellReadFault off s).link.area = s.link.area ∧ (cellReadFault off s).link.areaSet = s.link.areaSet
      ∧ (cellReadFault off s).link.unreported = s.link.unreported ∧ (cellReadFault off s).link.idleTimer = s.link.idleTimer
      ∧ (cellReadFault off s).link.waiting = s.link.waiting ∧ (cellReadFault off s).link.readData = s.link.readData
      ∧ (cellReadFault off s).intake.timer = s.intake.timer ∧ (cellReadFault off s).intake.takeSeq = s.intake.takeSeq
      ∧ (cellReadFault off s).intake.lostPending = s.intake.lostPending
      ∧ (cellReadFault off s).intake.detached = s.intake.detached ∧ (cellReadFault off s).eng.state = s.eng.state
      ∧ (cellReadFault off s).eng.resetKind = s.eng.resetKind ∧ (cellReadFault off s).eng.hold = s.eng.hold := by
  simp [cellReadFault]

@[simp] theorem cellReadDone_frame (r : CellResult) (s : State) :
    (cellReadDone r s).setup = s.setup ∧ (cellReadDone r s).paper = s.paper ∧ (cellReadDone r s).plan = s.plan
      ∧ (cellReadDone r s).fetch = s.fetch ∧ (cellReadDone r s).pulse = s.pulse ∧ (cellReadDone r s).line = s.line
      ∧ (cellReadDone r s).supply = s.supply ∧ (cellReadDone r s).web = s.web ∧ (cellReadDone r s).cut = s.cut
      ∧ (cellReadDone r s).sort = s.sort ∧ (cellReadDone r s).pending = s.pending ∧ (cellReadDone r s).link.area = s.link.area
      ∧ (cellReadDone r s).link.areaSet = s.link.areaSet ∧ (cellReadDone r s).link.unreported = s.link.unreported
      ∧ (cellReadDone r s).link.idleTimer = s.link.idleTimer ∧ (cellReadDone r s).link.waiting = s.link.waiting
      ∧ (cellReadDone r s).link.readData = s.link.readData ∧ (cellReadDone r s).intake.timer = s.intake.timer
      ∧ (cellReadDone r s).intake.takeSeq = s.intake.takeSeq ∧ (cellReadDone r s).intake.lostPending = s.intake.lostPending
      ∧ (cellReadDone r s).intake.detached = s.intake.detached ∧ (cellReadDone r s).eng.state = s.eng.state
      ∧ (cellReadDone r s).eng.resetKind = s.eng.resetKind ∧ (cellReadDone r s).eng.hold = s.eng.hold := by
  simp only [cellReadDone]; (repeat' split) <;> simp

@[simp] theorem answerCell_frame (a : CellAnswer) (s : State) :
    (answerCell a s).link = s.link ∧ (answerCell a s).intake.timer = s.intake.timer
      ∧ (answerCell a s).intake.takeSeq = s.intake.takeSeq
      ∧ (answerCell a s).intake.lostPending = s.intake.lostPending ∧ (answerCell a s).intake.cellRead = s.intake.cellRead
      ∧ (answerCell a s).intake.detached = s.intake.detached ∧ (answerCell a s).setup = s.setup
      ∧ (answerCell a s).paper = s.paper
      ∧ (answerCell a s).plan = s.plan ∧ (answerCell a s).fetch = s.fetch ∧ (answerCell a s).pulse = s.pulse
      ∧ (answerCell a s).line = s.line
      ∧ (answerCell a s).supply = s.supply ∧ (answerCell a s).web = s.web ∧ (answerCell a s).cut = s.cut
      ∧ (answerCell a s).sort = s.sort
      ∧ (answerCell a s).eng = s.eng ∧ (answerCell a s).pending = s.pending := by
  simp [answerCell]

@[simp] theorem oweAnswer_frame (slot i : Nat) (o : Order) (s : State) :
    (oweAnswer slot i o s).setup = s.setup ∧ (oweAnswer slot i o s).paper = s.paper ∧ (oweAnswer slot i o s).fetch = s.fetch
      ∧ (oweAnswer slot i o s).pulse = s.pulse ∧ (oweAnswer slot i o s).line = s.line
      ∧ (oweAnswer slot i o s).supply = s.supply ∧ (oweAnswer slot i o s).web = s.web ∧ (oweAnswer slot i o s).cut = s.cut
      ∧ (oweAnswer slot i o s).sort = s.sort ∧ (oweAnswer slot i o s).eng = s.eng ∧ (oweAnswer slot i o s).out = s.out
      ∧ (oweAnswer slot i o s).pending = s.pending ∧ (oweAnswer slot i o s).link.area = s.link.area
      ∧ (oweAnswer slot i o s).link.areaSet = s.link.areaSet ∧ (oweAnswer slot i o s).link.causes = s.link.causes
      ∧ (oweAnswer slot i o s).link.unreported = s.link.unreported ∧ (oweAnswer slot i o s).link.idleTimer = s.link.idleTimer
      ∧ (oweAnswer slot i o s).link.readData = s.link.readData ∧ (oweAnswer slot i o s).intake.timer = s.intake.timer
      ∧ (oweAnswer slot i o s).intake.takeSeq = s.intake.takeSeq
      ∧ (oweAnswer slot i o s).intake.lostPending = s.intake.lostPending
      ∧ (oweAnswer slot i o s).intake.cellRead = s.intake.cellRead
      ∧ (oweAnswer slot i o s).intake.cellOwed = s.intake.cellOwed
      ∧ (oweAnswer slot i o s).intake.detached = s.intake.detached ∧ (oweAnswer slot i o s).plan.queue = s.plan.queue
      ∧ (oweAnswer slot i o s).plan.switchFlag = s.plan.switchFlag
      ∧ (oweAnswer slot i o s).plan.framesExposed = s.plan.framesExposed
      ∧ (oweAnswer slot i o s).plan.budgetRemakes = s.plan.budgetRemakes
      ∧ (oweAnswer slot i o s).plan.jamRemakes = s.plan.jamRemakes := by
  simp only [oweAnswer]; (repeat' split) <;> simp

@[simp] theorem beginReturn_frame (i : Nat) (o : Order) (s : State) :
    (beginReturn i o s).setup = s.setup ∧ (beginReturn i o s).paper = s.paper ∧ (beginReturn i o s).fetch = s.fetch
      ∧ (beginReturn i o s).pulse = s.pulse ∧ (beginReturn i o s).line = s.line ∧ (beginReturn i o s).supply = s.supply
      ∧ (beginReturn i o s).web = s.web ∧ (beginReturn i o s).cut = s.cut ∧ (beginReturn i o s).sort = s.sort
      ∧ (beginReturn i o s).eng = s.eng ∧ (beginReturn i o s).out = s.out ∧ (beginReturn i o s).pending = s.pending
      ∧ (beginReturn i o s).link.area = s.link.area ∧ (beginReturn i o s).link.areaSet = s.link.areaSet
      ∧ (beginReturn i o s).link.causes = s.link.causes ∧ (beginReturn i o s).link.unreported = s.link.unreported
      ∧ (beginReturn i o s).link.idleTimer = s.link.idleTimer ∧ (beginReturn i o s).link.readData = s.link.readData
      ∧ (beginReturn i o s).intake.timer = s.intake.timer ∧ (beginReturn i o s).intake.takeSeq = s.intake.takeSeq
      ∧ (beginReturn i o s).intake.lostPending = s.intake.lostPending
      ∧ (beginReturn i o s).intake.cellRead = s.intake.cellRead ∧ (beginReturn i o s).intake.cellOwed = s.intake.cellOwed
      ∧ (beginReturn i o s).intake.detached = s.intake.detached ∧ (beginReturn i o s).plan.queue = s.plan.queue
      ∧ (beginReturn i o s).plan.switchFlag = s.plan.switchFlag
      ∧ (beginReturn i o s).plan.framesExposed = s.plan.framesExposed
      ∧ (beginReturn i o s).plan.budgetRemakes = s.plan.budgetRemakes
      ∧ (beginReturn i o s).plan.jamRemakes = s.plan.jamRemakes := by
  simp [beginReturn]

@[simp] theorem slotReturn_frame (slot : Nat) (s : State) :
    (slotReturn slot s).link.area = s.link.area ∧ (slotReturn slot s).link.areaSet = s.link.areaSet
      ∧ (slotReturn slot s).link.causes = s.link.causes
      ∧ (slotReturn slot s).link.unreported = s.link.unreported ∧ (slotReturn slot s).link.idleTimer = s.link.idleTimer
      ∧ (slotReturn slot s).link.readData = s.link.readData ∧ (slotReturn slot s).intake.timer = s.intake.timer
      ∧ (slotReturn slot s).intake.takeSeq = s.intake.takeSeq ∧ (slotReturn slot s).intake.lostPending = s.intake.lostPending
      ∧ (slotReturn slot s).intake.cellRead = s.intake.cellRead ∧ (slotReturn slot s).intake.cellOwed = s.intake.cellOwed
      ∧ (slotReturn slot s).intake.detached = s.intake.detached ∧ (slotReturn slot s).setup = s.setup
      ∧ (slotReturn slot s).paper = s.paper
      ∧ (slotReturn slot s).plan.queue = s.plan.queue ∧ (slotReturn slot s).plan.switchFlag = s.plan.switchFlag
      ∧ (slotReturn slot s).plan.framesExposed = s.plan.framesExposed
      ∧ (slotReturn slot s).plan.budgetRemakes = s.plan.budgetRemakes
      ∧ (slotReturn slot s).plan.jamRemakes = s.plan.jamRemakes ∧ (slotReturn slot s).fetch = s.fetch
      ∧ (slotReturn slot s).pulse = s.pulse
      ∧ (slotReturn slot s).line = s.line ∧ (slotReturn slot s).supply = s.supply ∧ (slotReturn slot s).web = s.web
      ∧ (slotReturn slot s).cut = s.cut
      ∧ (slotReturn slot s).sort = s.sort ∧ (slotReturn slot s).eng = s.eng ∧ (slotReturn slot s).out = s.out
      ∧ (slotReturn slot s).pending = s.pending := by
  unfold slotReturn
  (repeat' split) <;> simp

@[simp] theorem returnDueOf_frame (s : State) (i : Nat) :
    (returnDueOf s i).setup = s.setup ∧ (returnDueOf s i).paper = s.paper ∧ (returnDueOf s i).fetch = s.fetch
      ∧ (returnDueOf s i).pulse = s.pulse ∧ (returnDueOf s i).line = s.line ∧ (returnDueOf s i).supply = s.supply
      ∧ (returnDueOf s i).web = s.web ∧ (returnDueOf s i).cut = s.cut ∧ (returnDueOf s i).sort = s.sort
      ∧ (returnDueOf s i).eng = s.eng ∧ (returnDueOf s i).out = s.out ∧ (returnDueOf s i).pending = s.pending
      ∧ (returnDueOf s i).link.area = s.link.area ∧ (returnDueOf s i).link.areaSet = s.link.areaSet
      ∧ (returnDueOf s i).link.causes = s.link.causes ∧ (returnDueOf s i).link.unreported = s.link.unreported
      ∧ (returnDueOf s i).link.idleTimer = s.link.idleTimer ∧ (returnDueOf s i).link.readData = s.link.readData
      ∧ (returnDueOf s i).intake.timer = s.intake.timer ∧ (returnDueOf s i).intake.takeSeq = s.intake.takeSeq
      ∧ (returnDueOf s i).intake.lostPending = s.intake.lostPending ∧ (returnDueOf s i).intake.cellRead = s.intake.cellRead
      ∧ (returnDueOf s i).intake.cellOwed = s.intake.cellOwed ∧ (returnDueOf s i).intake.detached = s.intake.detached
      ∧ (returnDueOf s i).plan.queue = s.plan.queue ∧ (returnDueOf s i).plan.switchFlag = s.plan.switchFlag
      ∧ (returnDueOf s i).plan.framesExposed = s.plan.framesExposed
      ∧ (returnDueOf s i).plan.budgetRemakes = s.plan.budgetRemakes
      ∧ (returnDueOf s i).plan.jamRemakes = s.plan.jamRemakes := by
  simp only [returnDueOf]; (repeat' split) <;> simp

@[simp] theorem returnsAfterLoad_frame (s : State) :
    (returnsAfterLoad s).setup = s.setup ∧ (returnsAfterLoad s).paper = s.paper ∧ (returnsAfterLoad s).fetch = s.fetch
      ∧ (returnsAfterLoad s).pulse = s.pulse ∧ (returnsAfterLoad s).line = s.line ∧ (returnsAfterLoad s).supply = s.supply
      ∧ (returnsAfterLoad s).web = s.web ∧ (returnsAfterLoad s).cut = s.cut ∧ (returnsAfterLoad s).sort = s.sort
      ∧ (returnsAfterLoad s).eng = s.eng ∧ (returnsAfterLoad s).out = s.out ∧ (returnsAfterLoad s).pending = s.pending
      ∧ (returnsAfterLoad s).link.area = s.link.area ∧ (returnsAfterLoad s).link.areaSet = s.link.areaSet
      ∧ (returnsAfterLoad s).link.causes = s.link.causes ∧ (returnsAfterLoad s).link.unreported = s.link.unreported
      ∧ (returnsAfterLoad s).link.idleTimer = s.link.idleTimer ∧ (returnsAfterLoad s).link.readData = s.link.readData
      ∧ (returnsAfterLoad s).intake.timer = s.intake.timer ∧ (returnsAfterLoad s).intake.takeSeq = s.intake.takeSeq
      ∧ (returnsAfterLoad s).intake.lostPending = s.intake.lostPending
      ∧ (returnsAfterLoad s).intake.cellRead = s.intake.cellRead ∧ (returnsAfterLoad s).intake.cellOwed = s.intake.cellOwed
      ∧ (returnsAfterLoad s).intake.detached = s.intake.detached ∧ (returnsAfterLoad s).plan.queue = s.plan.queue
      ∧ (returnsAfterLoad s).plan.switchFlag = s.plan.switchFlag
      ∧ (returnsAfterLoad s).plan.framesExposed = s.plan.framesExposed
      ∧ (returnsAfterLoad s).plan.budgetRemakes = s.plan.budgetRemakes
      ∧ (returnsAfterLoad s).plan.jamRemakes = s.plan.jamRemakes := by
  refine ⟨?_, ?_, ?_, ?_, ?_, ?_, ?_, ?_, ?_, ?_, ?_, ?_, ?_, ?_, ?_, ?_, ?_, ?_, ?_, ?_, ?_, ?_, ?_, ?_, ?_, ?_, ?_, ?_, ?_⟩
  · unfold returnsAfterLoad; split; rfl; exact (foldl_keep (fun s : State => s.setup) _ (fun s x => by simp) _ _)
  · unfold returnsAfterLoad; split; rfl; exact (foldl_keep (fun s : State => s.paper) _ (fun s x => by simp) _ _)
  · unfold returnsAfterLoad; split; rfl; exact (foldl_keep (fun s : State => s.fetch) _ (fun s x => by simp) _ _)
  · unfold returnsAfterLoad; split; rfl; exact (foldl_keep (fun s : State => s.pulse) _ (fun s x => by simp) _ _)
  · unfold returnsAfterLoad; split; rfl; exact (foldl_keep (fun s : State => s.line) _ (fun s x => by simp) _ _)
  · unfold returnsAfterLoad; split; rfl; exact (foldl_keep (fun s : State => s.supply) _ (fun s x => by simp) _ _)
  · unfold returnsAfterLoad; split; rfl; exact (foldl_keep (fun s : State => s.web) _ (fun s x => by simp) _ _)
  · unfold returnsAfterLoad; split; rfl; exact (foldl_keep (fun s : State => s.cut) _ (fun s x => by simp) _ _)
  · unfold returnsAfterLoad; split; rfl; exact (foldl_keep (fun s : State => s.sort) _ (fun s x => by simp) _ _)
  · unfold returnsAfterLoad; split; rfl; exact (foldl_keep (fun s : State => s.eng) _ (fun s x => by simp) _ _)
  · unfold returnsAfterLoad; split; rfl; exact (foldl_keep (fun s : State => s.out) _ (fun s x => by simp) _ _)
  · unfold returnsAfterLoad; split; rfl; exact (foldl_keep (fun s : State => s.pending) _ (fun s x => by simp) _ _)
  · unfold returnsAfterLoad; split; rfl; exact (foldl_keep (fun s : State => s.link.area) _ (fun s x => by simp) _ _)
  · unfold returnsAfterLoad; split; rfl; exact (foldl_keep (fun s : State => s.link.areaSet) _ (fun s x => by simp) _ _)
  · unfold returnsAfterLoad; split; rfl; exact (foldl_keep (fun s : State => s.link.causes) _ (fun s x => by simp) _ _)
  · unfold returnsAfterLoad; split; rfl; exact (foldl_keep (fun s : State => s.link.unreported) _ (fun s x => by simp) _ _)
  · unfold returnsAfterLoad; split; rfl; exact (foldl_keep (fun s : State => s.link.idleTimer) _ (fun s x => by simp) _ _)
  · unfold returnsAfterLoad; split; rfl; exact (foldl_keep (fun s : State => s.link.readData) _ (fun s x => by simp) _ _)
  · unfold returnsAfterLoad; split; rfl; exact (foldl_keep (fun s : State => s.intake.timer) _ (fun s x => by simp) _ _)
  · unfold returnsAfterLoad; split; rfl; exact (foldl_keep (fun s : State => s.intake.takeSeq) _ (fun s x => by simp) _ _)
  · unfold returnsAfterLoad; split; rfl; exact (foldl_keep (fun s : State => s.intake.lostPending) _ (fun s x => by simp) _ _)
  · unfold returnsAfterLoad; split; rfl; exact (foldl_keep (fun s : State => s.intake.cellRead) _ (fun s x => by simp) _ _)
  · unfold returnsAfterLoad; split; rfl; exact (foldl_keep (fun s : State => s.intake.cellOwed) _ (fun s x => by simp) _ _)
  · unfold returnsAfterLoad; split; rfl; exact (foldl_keep (fun s : State => s.intake.detached) _ (fun s x => by simp) _ _)
  · unfold returnsAfterLoad; split; rfl; exact (foldl_keep (fun s : State => s.plan.queue) _ (fun s x => by simp) _ _)
  · unfold returnsAfterLoad; split; rfl; exact (foldl_keep (fun s : State => s.plan.switchFlag) _ (fun s x => by simp) _ _)
  · unfold returnsAfterLoad; split; rfl; exact (foldl_keep (fun s : State => s.plan.framesExposed) _ (fun s x => by simp) _ _)
  · unfold returnsAfterLoad; split; rfl; exact (foldl_keep (fun s : State => s.plan.budgetRemakes) _ (fun s x => by simp) _ _)
  · unfold returnsAfterLoad; split; rfl; exact (foldl_keep (fun s : State => s.plan.jamRemakes) _ (fun s x => by simp) _ _)

@[simp] theorem failTaken_frame (i : Nat) (s : State) :
    (failTaken i s).setup = s.setup ∧ (failTaken i s).fetch = s.fetch ∧ (failTaken i s).pulse = s.pulse
      ∧ (failTaken i s).line = s.line ∧ (failTaken i s).supply = s.supply ∧ (failTaken i s).web = s.web
      ∧ (failTaken i s).cut = s.cut ∧ (failTaken i s).eng = s.eng ∧ (failTaken i s).out = s.out
      ∧ (failTaken i s).pending = s.pending ∧ (failTaken i s).link.area = s.link.area
      ∧ (failTaken i s).link.areaSet = s.link.areaSet ∧ (failTaken i s).link.unreported = s.link.unreported
      ∧ (failTaken i s).link.idleTimer = s.link.idleTimer ∧ (failTaken i s).link.readData = s.link.readData
      ∧ (failTaken i s).intake.timer = s.intake.timer ∧ (failTaken i s).intake.takeSeq = s.intake.takeSeq
      ∧ (failTaken i s).intake.lostPending = s.intake.lostPending ∧ (failTaken i s).intake.sweep = s.intake.sweep
      ∧ (failTaken i s).intake.cellRead = s.intake.cellRead ∧ (failTaken i s).intake.cellOwed = s.intake.cellOwed
      ∧ (failTaken i s).paper.active = s.paper.active ∧ (failTaken i s).paper.target = s.paper.target
      ∧ (failTaken i s).paper.timer = s.paper.timer ∧ (failTaken i s).plan.switchFlag = s.plan.switchFlag
      ∧ (failTaken i s).plan.framesExposed = s.plan.framesExposed ∧ (failTaken i s).plan.budgetRemakes = s.plan.budgetRemakes
      ∧ (failTaken i s).plan.jamRemakes = s.plan.jamRemakes ∧ (failTaken i s).sort.lane = s.sort.lane
      ∧ (failTaken i s).sort.rejectCount = s.sort.rejectCount ∧ (failTaken i s).sort.rejectFull = s.sort.rejectFull
      ∧ (failTaken i s).sort.misroutes = s.sort.misroutes ∧ (failTaken i s).sort.clock = s.sort.clock
      ∧ (failTaken i s).sort.keys = s.sort.keys ∧ (failTaken i s).sort.blink1 = s.sort.blink1
      ∧ (failTaken i s).sort.blink4 = s.sort.blink4 := by
  simp only [failTaken]; (repeat' split) <;> simp

@[simp] theorem failWrite_frame (slot offset : Nat) (s : State) :
    (failWrite slot offset s).setup = s.setup ∧ (failWrite slot offset s).fetch = s.fetch
      ∧ (failWrite slot offset s).pulse = s.pulse ∧ (failWrite slot offset s).line = s.line
      ∧ (failWrite slot offset s).supply = s.supply ∧ (failWrite slot offset s).web = s.web
      ∧ (failWrite slot offset s).cut = s.cut ∧ (failWrite slot offset s).eng = s.eng
      ∧ (failWrite slot offset s).pending = s.pending ∧ (failWrite slot offset s).link.area = s.link.area
      ∧ (failWrite slot offset s).link.areaSet = s.link.areaSet
      ∧ (failWrite slot offset s).link.unreported = s.link.unreported
      ∧ (failWrite slot offset s).link.idleTimer = s.link.idleTimer
      ∧ (failWrite slot offset s).link.readData = s.link.readData ∧ (failWrite slot offset s).intake.timer = s.intake.timer
      ∧ (failWrite slot offset s).intake.takeSeq = s.intake.takeSeq
      ∧ (failWrite slot offset s).intake.lostPending = s.intake.lostPending
      ∧ (failWrite slot offset s).intake.cellRead = s.intake.cellRead
      ∧ (failWrite slot offset s).intake.cellOwed = s.intake.cellOwed
      ∧ (failWrite slot offset s).paper.active = s.paper.active ∧ (failWrite slot offset s).paper.target = s.paper.target
      ∧ (failWrite slot offset s).paper.timer = s.paper.timer ∧ (failWrite slot offset s).plan.switchFlag = s.plan.switchFlag
      ∧ (failWrite slot offset s).plan.framesExposed = s.plan.framesExposed
      ∧ (failWrite slot offset s).plan.budgetRemakes = s.plan.budgetRemakes
      ∧ (failWrite slot offset s).plan.jamRemakes = s.plan.jamRemakes ∧ (failWrite slot offset s).sort.lane = s.sort.lane
      ∧ (failWrite slot offset s).sort.rejectCount = s.sort.rejectCount
      ∧ (failWrite slot offset s).sort.rejectFull = s.sort.rejectFull
      ∧ (failWrite slot offset s).sort.misroutes = s.sort.misroutes ∧ (failWrite slot offset s).sort.clock = s.sort.clock
      ∧ (failWrite slot offset s).sort.keys = s.sort.keys ∧ (failWrite slot offset s).sort.blink1 = s.sort.blink1
      ∧ (failWrite slot offset s).sort.blink4 = s.sort.blink4 := by
  simp only [failWrite]; (repeat' split) <;> simp

@[simp] theorem slotWriteError_frame (slot offset : Nat) (standing : WriteStanding) (s : State) :
    (slotWriteError slot offset standing s).link.area = s.link.area
      ∧ (slotWriteError slot offset standing s).link.areaSet = s.link.areaSet
      ∧ (slotWriteError slot offset standing s).link.unreported = s.link.unreported
      ∧ (slotWriteError slot offset standing s).link.idleTimer = s.link.idleTimer
      ∧ (slotWriteError slot offset standing s).link.readData = s.link.readData
      ∧ (slotWriteError slot offset standing s).intake.timer = s.intake.timer
      ∧ (slotWriteError slot offset standing s).intake.takeSeq = s.intake.takeSeq
      ∧ (slotWriteError slot offset standing s).intake.lostPending = s.intake.lostPending
      ∧ (slotWriteError slot offset standing s).intake.cellRead = s.intake.cellRead
      ∧ (slotWriteError slot offset standing s).intake.cellOwed = s.intake.cellOwed
      ∧ (slotWriteError slot offset standing s).setup = s.setup
      ∧ (slotWriteError slot offset standing s).paper.active = s.paper.active
      ∧ (slotWriteError slot offset standing s).paper.target = s.paper.target
      ∧ (slotWriteError slot offset standing s).paper.timer = s.paper.timer
      ∧ (slotWriteError slot offset standing s).plan.switchFlag = s.plan.switchFlag
      ∧ (slotWriteError slot offset standing s).plan.framesExposed = s.plan.framesExposed
      ∧ (slotWriteError slot offset standing s).plan.budgetRemakes = s.plan.budgetRemakes
      ∧ (slotWriteError slot offset standing s).plan.jamRemakes = s.plan.jamRemakes
      ∧ (slotWriteError slot offset standing s).fetch = s.fetch
      ∧ (slotWriteError slot offset standing s).pulse = s.pulse ∧ (slotWriteError slot offset standing s).line = s.line
      ∧ (slotWriteError slot offset standing s).supply = s.supply ∧ (slotWriteError slot offset standing s).web = s.web
      ∧ (slotWriteError slot offset standing s).cut = s.cut ∧ (slotWriteError slot offset standing s).sort.lane = s.sort.lane
      ∧ (slotWriteError slot offset standing s).sort.rejectCount = s.sort.rejectCount
      ∧ (slotWriteError slot offset standing s).sort.rejectFull = s.sort.rejectFull
      ∧ (slotWriteError slot offset standing s).sort.misroutes = s.sort.misroutes
      ∧ (slotWriteError slot offset standing s).sort.clock = s.sort.clock
      ∧ (slotWriteError slot offset standing s).sort.keys = s.sort.keys
      ∧ (slotWriteError slot offset standing s).sort.blink1 = s.sort.blink1
      ∧ (slotWriteError slot offset standing s).sort.blink4 = s.sort.blink4
      ∧ (slotWriteError slot offset standing s).eng.state = s.eng.state
      ∧ (slotWriteError slot offset standing s).eng.resetKind = s.eng.resetKind
      ∧ (slotWriteError slot offset standing s).eng.hold = s.eng.hold
      ∧ (slotWriteError slot offset standing s).pending = s.pending := by
  unfold slotWriteError
  (repeat' split) <;> simp

@[simp] theorem progress_frame (room : Option Nat) (s : State) :
    (progress room s).link.area = s.link.area ∧ (progress room s).link.areaSet = s.link.areaSet
      ∧ (progress room s).link.readData = s.link.readData
      ∧ (progress room s).intake.timer = s.intake.timer ∧ (progress room s).intake.lostPending = s.intake.lostPending
      ∧ (progress room s).intake.cellRead = s.intake.cellRead ∧ (progress room s).intake.cellOwed = s.intake.cellOwed
      ∧ (progress room s).intake.detached = s.intake.detached ∧ (progress room s).setup = s.setup
      ∧ (progress room s).paper.active = s.paper.active
      ∧ (progress room s).paper.target = s.paper.target ∧ (progress room s).paper.timer = s.paper.timer
      ∧ (progress room s).plan.switchFlag = s.plan.switchFlag ∧ (progress room s).plan.framesExposed = s.plan.framesExposed
      ∧ (progress room s).plan.budgetRemakes = s.plan.budgetRemakes ∧ (progress room s).plan.jamRemakes = s.plan.jamRemakes
      ∧ (progress room s).fetch = s.fetch ∧ (progress room s).pulse = s.pulse ∧ (progress room s).line = s.line
      ∧ (progress room s).supply = s.supply
      ∧ (progress room s).web = s.web ∧ (progress room s).cut = s.cut ∧ (progress room s).sort = s.sort
      ∧ (progress room s).eng = s.eng
      ∧ (progress room s).pending = s.pending := by
  simp [progress]

@[simp] theorem tick_frame (s : State) :
    (tick s).link.area = s.link.area ∧ (tick s).link.areaSet = s.link.areaSet ∧ (tick s).link.causes = s.link.causes
      ∧ (tick s).link.unreported = s.link.unreported ∧ (tick s).link.waiting = s.link.waiting
      ∧ (tick s).link.readData = s.link.readData
      ∧ (tick s).intake.takeSeq = s.intake.takeSeq ∧ (tick s).intake.lostPending = s.intake.lostPending
      ∧ (tick s).intake.sweep = s.intake.sweep
      ∧ (tick s).intake.cellRead = s.intake.cellRead ∧ (tick s).intake.cellOwed = s.intake.cellOwed
      ∧ (tick s).intake.detached = s.intake.detached
      ∧ (tick s).setup = s.setup ∧ (tick s).paper.magA = s.paper.magA ∧ (tick s).paper.magB = s.paper.magB
      ∧ (tick s).paper.active = s.paper.active
      ∧ (tick s).paper.target = s.paper.target ∧ (tick s).plan = s.plan ∧ (tick s).fetch = s.fetch ∧ (tick s).pulse = s.pulse
      ∧ (tick s).line = s.line
      ∧ (tick s).supply = s.supply ∧ (tick s).web = s.web ∧ (tick s).cut.knife = s.cut.knife
      ∧ (tick s).cut.leftHome = s.cut.leftHome
      ∧ (tick s).cut.solenoid = s.cut.solenoid ∧ (tick s).cut.offset = s.cut.offset ∧ (tick s).cut.cursor = s.cut.cursor
      ∧ (tick s).cut.misses = s.cut.misses ∧ (tick s).cut.markLost = s.cut.markLost ∧ (tick s).cut.home = s.cut.home
      ∧ (tick s).cut.jam = s.cut.jam
      ∧ (tick s).sort.lane = s.sort.lane ∧ (tick s).sort.bins = s.sort.bins ∧ (tick s).sort.rejectCount = s.sort.rejectCount
      ∧ (tick s).sort.rejectFull = s.sort.rejectFull ∧ (tick s).sort.misroutes = s.sort.misroutes
      ∧ (tick s).sort.keys = s.sort.keys
      ∧ (tick s).sort.blink1 = s.sort.blink1 ∧ (tick s).sort.blink4 = s.sort.blink4 ∧ (tick s).eng = s.eng
      ∧ (tick s).out = s.out
      ∧ (tick s).pending = s.pending := by
  simp [tick]

@[simp] theorem takeArea_frame (base : Long) (s : State) :
    (takeArea base s).link.causes = s.link.causes ∧ (takeArea base s).link.unreported = s.link.unreported
      ∧ (takeArea base s).link.idleTimer = s.link.idleTimer ∧ (takeArea base s).link.readData = s.link.readData
      ∧ (takeArea base s).intake.takeSeq = s.intake.takeSeq ∧ (takeArea base s).intake.lostPending = s.intake.lostPending
      ∧ (takeArea base s).intake.detached = s.intake.detached ∧ (takeArea base s).setup = s.setup
      ∧ (takeArea base s).paper = s.paper
      ∧ (takeArea base s).plan = s.plan ∧ (takeArea base s).fetch = s.fetch ∧ (takeArea base s).pulse = s.pulse
      ∧ (takeArea base s).line = s.line
      ∧ (takeArea base s).supply = s.supply ∧ (takeArea base s).web = s.web ∧ (takeArea base s).cut = s.cut
      ∧ (takeArea base s).sort = s.sort
      ∧ (takeArea base s).eng = s.eng ∧ (takeArea base s).pending = s.pending := by
  unfold takeArea
  (repeat' split) <;> simp

@[simp] theorem stopEngine_frame (s : State) :
    (stopEngine s).link.area = s.link.area ∧ (stopEngine s).link.areaSet = s.link.areaSet
      ∧ (stopEngine s).link.readData = s.link.readData
      ∧ (stopEngine s).intake.lostPending = s.intake.lostPending ∧ (stopEngine s).intake.cellRead = s.intake.cellRead
      ∧ (stopEngine s).intake.cellOwed = s.intake.cellOwed ∧ (stopEngine s).intake.detached = s.intake.detached
      ∧ (stopEngine s).setup = s.setup
      ∧ (stopEngine s).paper.active = s.paper.active ∧ (stopEngine s).plan.framesExposed = s.plan.framesExposed
      ∧ (stopEngine s).plan.budgetRemakes = s.plan.budgetRemakes ∧ (stopEngine s).plan.jamRemakes = s.plan.jamRemakes
      ∧ (stopEngine s).fetch = s.fetch
      ∧ (stopEngine s).pulse = s.pulse ∧ (stopEngine s).line.w = s.line.w ∧ (stopEngine s).line.prescale = s.line.prescale
      ∧ (stopEngine s).line.divisor = s.line.divisor ∧ (stopEngine s).line.punch = s.line.punch
      ∧ (stopEngine s).line.webReady = s.line.webReady
      ∧ (stopEngine s).supply.sags = s.supply.sags ∧ (stopEngine s).web.nextNumber = s.web.nextNumber
      ∧ (stopEngine s).web.cutterPos = s.web.cutterPos
      ∧ (stopEngine s).web.spoils = s.web.spoils ∧ (stopEngine s).cut.knife = s.cut.knife
      ∧ (stopEngine s).cut.leftHome = s.cut.leftHome
      ∧ (stopEngine s).cut.solenoid = s.cut.solenoid ∧ (stopEngine s).cut.offset = s.cut.offset
      ∧ (stopEngine s).cut.misses = s.cut.misses
      ∧ (stopEngine s).cut.markLost = s.cut.markLost ∧ (stopEngine s).cut.home = s.cut.home
      ∧ (stopEngine s).cut.jam = s.cut.jam
      ∧ (stopEngine s).sort.lane = s.sort.lane ∧ (stopEngine s).sort.bins = s.sort.bins
      ∧ (stopEngine s).sort.rejectCount = s.sort.rejectCount
      ∧ (stopEngine s).sort.rejectFull = s.sort.rejectFull ∧ (stopEngine s).sort.misroutes = s.sort.misroutes
      ∧ (stopEngine s).sort.keys = s.sort.keys
      ∧ (stopEngine s).sort.blink1 = s.sort.blink1 ∧ (stopEngine s).sort.blink4 = s.sort.blink4
      ∧ (stopEngine s).eng.resetKind = s.eng.resetKind
      ∧ (stopEngine s).eng.record = s.eng.record ∧ (stopEngine s).eng.overflow = s.eng.overflow
      ∧ (stopEngine s).eng.hold = s.eng.hold
      ∧ (stopEngine s).pending = s.pending := by
  unfold stopEngine
  (repeat' split) <;> simp

@[simp] theorem readStatus_frame (s : State) :
    (readStatus s).link.area = s.link.area ∧ (readStatus s).link.areaSet = s.link.areaSet
      ∧ (readStatus s).link.idleTimer = s.link.idleTimer
      ∧ (readStatus s).link.waiting = s.link.waiting ∧ (readStatus s).intake = s.intake ∧ (readStatus s).setup = s.setup
      ∧ (readStatus s).paper = s.paper ∧ (readStatus s).plan = s.plan ∧ (readStatus s).fetch = s.fetch
      ∧ (readStatus s).pulse = s.pulse
      ∧ (readStatus s).line = s.line ∧ (readStatus s).supply = s.supply ∧ (readStatus s).web = s.web
      ∧ (readStatus s).cut = s.cut
      ∧ (readStatus s).sort = s.sort ∧ (readStatus s).eng = s.eng ∧ (readStatus s).out = s.out
      ∧ (readStatus s).pending = s.pending := by
  simp [readStatus]

@[simp] theorem setupRead_frame (result : Option (BitVec 64)) (s : State) :
    (setupRead result s).paper = s.paper ∧ (setupRead result s).pulse = s.pulse ∧ (setupRead result s).line = s.line
      ∧ (setupRead result s).supply = s.supply ∧ (setupRead result s).web = s.web ∧ (setupRead result s).cut = s.cut
      ∧ (setupRead result s).sort = s.sort ∧ (setupRead result s).pending = s.pending
      ∧ (setupRead result s).link.area = s.link.area ∧ (setupRead result s).link.areaSet = s.link.areaSet
      ∧ (setupRead result s).link.unreported = s.link.unreported ∧ (setupRead result s).link.idleTimer = s.link.idleTimer
      ∧ (setupRead result s).link.readData = s.link.readData ∧ (setupRead result s).intake.timer = s.intake.timer
      ∧ (setupRead result s).intake.takeSeq = s.intake.takeSeq
      ∧ (setupRead result s).intake.lostPending = s.intake.lostPending
      ∧ (setupRead result s).intake.cellRead = s.intake.cellRead ∧ (setupRead result s).intake.cellOwed = s.intake.cellOwed
      ∧ (setupRead result s).intake.detached = s.intake.detached ∧ (setupRead result s).plan.queue = s.plan.queue
      ∧ (setupRead result s).plan.switchFlag = s.plan.switchFlag
      ∧ (setupRead result s).plan.framesExposed = s.plan.framesExposed
      ∧ (setupRead result s).plan.budgetRemakes = s.plan.budgetRemakes
      ∧ (setupRead result s).plan.jamRemakes = s.plan.jamRemakes
      ∧ (setupRead result s).fetch.reads = s.fetch.reads ∧ (setupRead result s).fetch.underruns = s.fetch.underruns
      ∧ (setupRead result s).eng.state = s.eng.state ∧ (setupRead result s).eng.resetKind = s.eng.resetKind
      ∧ (setupRead result s).eng.hold = s.eng.hold := by
  simp only [setupRead]; (repeat' split) <;> simp

@[simp] theorem recordChanged_frame (s : State) :
    (recordChanged s).link.area = s.link.area ∧ (recordChanged s).link.areaSet = s.link.areaSet
      ∧ (recordChanged s).link.unreported = s.link.unreported ∧ (recordChanged s).link.idleTimer = s.link.idleTimer
      ∧ (recordChanged s).link.readData = s.link.readData ∧ (recordChanged s).intake = s.intake
      ∧ (recordChanged s).setup = s.setup
      ∧ (recordChanged s).paper.active = s.paper.active ∧ (recordChanged s).paper.target = s.paper.target
      ∧ (recordChanged s).paper.timer = s.paper.timer ∧ (recordChanged s).plan.queue = s.plan.queue
      ∧ (recordChanged s).plan.switchFlag = s.plan.switchFlag ∧ (recordChanged s).plan.framesExposed = s.plan.framesExposed
      ∧ (recordChanged s).plan.budgetRemakes = s.plan.budgetRemakes ∧ (recordChanged s).plan.jamRemakes = s.plan.jamRemakes
      ∧ (recordChanged s).fetch = s.fetch ∧ (recordChanged s).pulse = s.pulse ∧ (recordChanged s).line = s.line
      ∧ (recordChanged s).supply = s.supply
      ∧ (recordChanged s).web = s.web ∧ (recordChanged s).cut = s.cut ∧ (recordChanged s).sort = s.sort
      ∧ (recordChanged s).eng = s.eng
      ∧ (recordChanged s).out = s.out ∧ (recordChanged s).pending = s.pending := by
  simp [recordChanged]

@[simp] theorem loadRecord_frame (m : Mag) (width : Nat) (surface : Surface) (tone length : Nat) (lot : Word) (s : State) :
    (loadRecord m width surface tone length lot s).link.area = s.link.area
      ∧ (loadRecord m width surface tone length lot s).link.areaSet = s.link.areaSet
      ∧ (loadRecord m width surface tone length lot s).link.unreported = s.link.unreported
      ∧ (loadRecord m width surface tone length lot s).link.idleTimer = s.link.idleTimer
      ∧ (loadRecord m width surface tone length lot s).link.readData = s.link.readData
      ∧ (loadRecord m width surface tone length lot s).intake = s.intake
      ∧ (loadRecord m width surface tone length lot s).setup = s.setup
      ∧ (loadRecord m width surface tone length lot s).paper.active = s.paper.active
      ∧ (loadRecord m width surface tone length lot s).paper.target = s.paper.target
      ∧ (loadRecord m width surface tone length lot s).paper.timer = s.paper.timer
      ∧ (loadRecord m width surface tone length lot s).plan.queue = s.plan.queue
      ∧ (loadRecord m width surface tone length lot s).plan.switchFlag = s.plan.switchFlag
      ∧ (loadRecord m width surface tone length lot s).plan.framesExposed = s.plan.framesExposed
      ∧ (loadRecord m width surface tone length lot s).plan.budgetRemakes = s.plan.budgetRemakes
      ∧ (loadRecord m width surface tone length lot s).plan.jamRemakes = s.plan.jamRemakes
      ∧ (loadRecord m width surface tone length lot s).fetch = s.fetch
      ∧ (loadRecord m width surface tone length lot s).pulse = s.pulse
      ∧ (loadRecord m width surface tone length lot s).line = s.line
      ∧ (loadRecord m width surface tone length lot s).supply = s.supply
      ∧ (loadRecord m width surface tone length lot s).web = s.web
      ∧ (loadRecord m width surface tone length lot s).cut = s.cut
      ∧ (loadRecord m width surface tone length lot s).sort = s.sort
      ∧ (loadRecord m width surface tone length lot s).eng = s.eng
      ∧ (loadRecord m width surface tone length lot s).out = s.out
      ∧ (loadRecord m width surface tone length lot s).pending = s.pending := by
  simp [loadRecord]

@[simp] theorem clearRecord_frame (m : Mag) (s : State) :
    (clearRecord m s).link.area = s.link.area ∧ (clearRecord m s).link.areaSet = s.link.areaSet
      ∧ (clearRecord m s).link.unreported = s.link.unreported ∧ (clearRecord m s).link.idleTimer = s.link.idleTimer
      ∧ (clearRecord m s).link.readData = s.link.readData ∧ (clearRecord m s).intake = s.intake
      ∧ (clearRecord m s).setup = s.setup
      ∧ (clearRecord m s).paper.active = s.paper.active ∧ (clearRecord m s).paper.target = s.paper.target
      ∧ (clearRecord m s).paper.timer = s.paper.timer ∧ (clearRecord m s).plan.queue = s.plan.queue
      ∧ (clearRecord m s).plan.switchFlag = s.plan.switchFlag ∧ (clearRecord m s).plan.framesExposed = s.plan.framesExposed
      ∧ (clearRecord m s).plan.budgetRemakes = s.plan.budgetRemakes ∧ (clearRecord m s).plan.jamRemakes = s.plan.jamRemakes
      ∧ (clearRecord m s).fetch = s.fetch ∧ (clearRecord m s).pulse = s.pulse ∧ (clearRecord m s).line = s.line
      ∧ (clearRecord m s).supply = s.supply
      ∧ (clearRecord m s).web = s.web ∧ (clearRecord m s).cut = s.cut ∧ (clearRecord m s).sort = s.sort
      ∧ (clearRecord m s).eng = s.eng
      ∧ (clearRecord m s).out = s.out ∧ (clearRecord m s).pending = s.pending := by
  simp [clearRecord]

@[simp] theorem setPresent_frame (m : Mag) (level : Bool) (s : State) :
    (setPresent m level s).link = s.link ∧ (setPresent m level s).intake = s.intake ∧ (setPresent m level s).setup = s.setup
      ∧ (setPresent m level s).paper.active = s.paper.active ∧ (setPresent m level s).paper.target = s.paper.target
      ∧ (setPresent m level s).paper.timer = s.paper.timer ∧ (setPresent m level s).plan = s.plan
      ∧ (setPresent m level s).fetch = s.fetch
      ∧ (setPresent m level s).pulse = s.pulse ∧ (setPresent m level s).line = s.line
      ∧ (setPresent m level s).supply = s.supply
      ∧ (setPresent m level s).web = s.web ∧ (setPresent m level s).cut = s.cut ∧ (setPresent m level s).sort = s.sort
      ∧ (setPresent m level s).eng = s.eng ∧ (setPresent m level s).out = s.out
      ∧ (setPresent m level s).pending = s.pending := by
  simp [setPresent]

@[simp] theorem senseEmpty_frame (m : Mag) (s : State) :
    (senseEmpty m s).link = s.link ∧ (senseEmpty m s).intake = s.intake ∧ (senseEmpty m s).setup = s.setup
      ∧ (senseEmpty m s).plan = s.plan ∧ (senseEmpty m s).fetch = s.fetch ∧ (senseEmpty m s).pulse = s.pulse
      ∧ (senseEmpty m s).line = s.line ∧ (senseEmpty m s).supply = s.supply ∧ (senseEmpty m s).web = s.web
      ∧ (senseEmpty m s).cut = s.cut ∧ (senseEmpty m s).sort = s.sort ∧ (senseEmpty m s).eng = s.eng
      ∧ (senseEmpty m s).out = s.out ∧ (senseEmpty m s).pending = s.pending ∧ (senseEmpty m s).paper.active = s.paper.active
      ∧ (senseEmpty m s).paper.target = s.paper.target ∧ (senseEmpty m s).paper.timer = s.paper.timer := by
  simp only [senseEmpty]; (repeat' split) <;> simp

@[simp] theorem forgetWaiting_frame (s : State) :
    (forgetWaiting s).link = s.link ∧ (forgetWaiting s).intake = s.intake ∧ (forgetWaiting s).setup = s.setup
      ∧ (forgetWaiting s).paper = s.paper
      ∧ (forgetWaiting s).plan.queue = s.plan.queue ∧ (forgetWaiting s).plan.switchFlag = s.plan.switchFlag
      ∧ (forgetWaiting s).plan.framesExposed = s.plan.framesExposed
      ∧ (forgetWaiting s).plan.budgetRemakes = s.plan.budgetRemakes
      ∧ (forgetWaiting s).plan.jamRemakes = s.plan.jamRemakes ∧ (forgetWaiting s).fetch = s.fetch
      ∧ (forgetWaiting s).pulse = s.pulse
      ∧ (forgetWaiting s).line = s.line ∧ (forgetWaiting s).supply = s.supply ∧ (forgetWaiting s).web = s.web
      ∧ (forgetWaiting s).cut = s.cut
      ∧ (forgetWaiting s).sort = s.sort ∧ (forgetWaiting s).eng = s.eng ∧ (forgetWaiting s).out = s.out
      ∧ (forgetWaiting s).pending = s.pending := by
  simp [forgetWaiting]

@[simp] theorem completeChange_frame (m : Mag) (s : State) :
    (completeChange m s).link.area = s.link.area ∧ (completeChange m s).link.areaSet = s.link.areaSet
      ∧ (completeChange m s).link.unreported = s.link.unreported ∧ (completeChange m s).link.idleTimer = s.link.idleTimer
      ∧ (completeChange m s).link.waiting = s.link.waiting ∧ (completeChange m s).link.readData = s.link.readData
      ∧ (completeChange m s).intake = s.intake ∧ (completeChange m s).setup = s.setup
      ∧ (completeChange m s).plan.queue = s.plan.queue
      ∧ (completeChange m s).plan.framesExposed = s.plan.framesExposed
      ∧ (completeChange m s).plan.budgetRemakes = s.plan.budgetRemakes
      ∧ (completeChange m s).plan.jamRemakes = s.plan.jamRemakes ∧ (completeChange m s).fetch = s.fetch
      ∧ (completeChange m s).pulse = s.pulse
      ∧ (completeChange m s).line = s.line ∧ (completeChange m s).supply = s.supply
      ∧ (completeChange m s).web.cutterPos = s.web.cutterPos
      ∧ (completeChange m s).web.waste = s.web.waste ∧ (completeChange m s).web.spoils = s.web.spoils
      ∧ (completeChange m s).cut = s.cut
      ∧ (completeChange m s).sort = s.sort ∧ (completeChange m s).eng = s.eng ∧ (completeChange m s).out = s.out
      ∧ (completeChange m s).pending = s.pending := by
  simp [completeChange]

end Sys2Proof.Machine
end

