-- ==== Sys2Proof/Laws/Link.lean ====
section
/-! SUPPORT. The link: what accesses, waiting slot writes and the write-through come to. -/

open Sys2Proof Sys2Proof.Machine

namespace Sys2Proof.Machine

theorem emitAccess_out (o : Output) (s : State) : emitAccess o s = { s with out := s.out ++ (if s.link.areaSet then [o] else []) } := by
  unfold emitAccess emit; split <;> simp

theorem writeField_eq (s : State) (x : StatusField) :
    writeField s x = { s with out := s.out ++ (if s.link.areaSet then [.write (jobAddr s x.offset) x.size x.value] else []) } := by
  simp [writeField, emitWrite, emitAccess_out]

theorem foldl_writeField (l : List StatusField) (s : State) :
    l.foldl writeField s = { s with out := s.out ++
      (if s.link.areaSet then l.map (fun x => .write (jobAddr s x.offset) x.size x.value) else []) } := by
  induction l generalizing s with
  | nil => simp
  | cons x rest ih =>
    rw [List.foldl_cons, ih, writeField_eq]
    split <;> simp [jobAddr]

theorem emitRead_set (off n : Nat) (s : State) (h : s.link.areaSet = true) :
    emitRead off n s = { s with out := s.out ++ [.read (jobAddr s off) n] } := by
  simp [emitRead, emitAccess_out, h]

theorem act_live {room : Option Nat} {f : State → State} {s : State} (h : live s = true) :
    act room f s = publish s (progress room (f (clearOut s))) := by simp [act, h, perform]

theorem actPin_live {lv f : State → State} {s : State} (hl : live s = true) : actPin lv f s = publish s (progress none (f (lv (clearOut s)))) := by
  simp [actPin, hl, perform]

theorem issueList_plain (l : List SlotWrite) (hl : ∀ x ∈ l, x.offset ≠ 0) (n : Nat) (hn : l.length ≤ n) (s : State) :
    issueList l n s = { s with link.waiting := [], out := s.out ++ (if s.link.areaSet then l.map (fun x =>
      Output.write (jobAddr s (0x10000 + x.slot * 0x1000 + x.offset)) x.size x.value) else []) } := by
  induction l generalizing n s with
  | nil => simp [issueList]
  | cons x rest ih =>
    obtain ⟨m, rfl⟩ : ∃ m, n = m + 1 := ⟨n - 1, by simp at hn; omega⟩
    simp only [issueList]
    have hx : x.offset ≠ offToken := hl x (by simp)
    have hw : issueWrite x s = emitWrite (slotOffset x.slot x.offset) x.size x.value s := by
      simp [issueWrite, hx]
    rw [hw, ih (fun y hy => hl y (by simp [hy])) m (by simpa using hn)]
    simp only [emitWrite, emitAccess_out, slotOffset]
    split <;> simp [jobAddr]

theorem issueList_out (l : List SlotWrite) (n : Nat) (hn : l.length ≤ n) (s : State) :
    (issueList l n s).out = s.out ++ (if s.link.areaSet then l.map (fun x =>
      Output.write (jobAddr s (0x10000 + x.slot * 0x1000 + x.offset)) x.size x.value) else []) := by
  induction l generalizing n s with
  | nil => simp [issueList]
  | cons x rest ih =>
    obtain ⟨m, rfl⟩ : ∃ m, n = m + 1 := ⟨n - 1, by simp at hn; omega⟩
    simp only [issueList]
    rw [ih m (by simpa using hn)]
    have h1 : (issueWrite x s).out = s.out ++ if s.link.areaSet then [Output.write (jobAddr s (0x10000 + x.slot * 0x1000 + x.offset)) x.size x.value] else [] := by
      unfold issueWrite; split <;> simp [emitWrite, emitAccess_out, slotOffset]
    have h2 : (issueWrite x s).link.areaSet = s.link.areaSet := by simp
    have h3 : ∀ k, jobAddr (issueWrite x s) k = jobAddr s k := by intro k; simp [jobAddr]
    rw [h1, h2]
    simp only [h3]
    split <;> simp

/-- With no setup load running, every write that waits is due. -/
theorem issueWaiting_due (room : Option Nat) {s : State} (h : s.setup.state ≠ .loading) :
    issueWaiting room s = issueList s.link.waiting (room.getD s.link.waiting.length) s := by
  unfold issueWaiting; rw [if_neg h]

/-- While a load runs, the writes of the returns that wait for it stay, behind what the link had no room for. -/
theorem issueWaiting_loading (room : Option Nat) {s : State} (h : s.setup.state = .loading) :
    let due := s.link.waiting.filter (fun w => !awaitsLoad s w.slot)
    let t := issueList due (room.getD due.length) s
    issueWaiting room s =
      { t with link.waiting := t.link.waiting ++ s.link.waiting.filter (fun w => awaitsLoad s w.slot) } := by
  unfold issueWaiting; rw [if_pos h]

theorem issueWaiting_nil (room : Option Nat) {s : State} (h : s.link.waiting = []) : issueWaiting room s = s := by
  have e : { s with link.waiting := [] } = s := by rw [← h]
  unfold issueWaiting
  split
  · simp only [h, List.filter_nil, issueList, List.append_nil]; exact e
  · simp only [h, issueList]; exact e

theorem issueWaiting_out {s : State} (h : s.setup.state ≠ .loading) :
    (issueWaiting none s).out = s.out ++ (if s.link.areaSet then s.link.waiting.map (fun x =>
      Output.write (jobAddr s (0x10000 + x.slot * 0x1000 + x.offset)) x.size x.value) else []) := by
  rw [issueWaiting_due none h]; exact issueList_out _ _ (by simp) _

theorem issue_last_token (l : List SlotWrite) (hl : ∀ x ∈ l, x.offset ≠ 0) (slot sz : Nat) (s : State) :
    ∃ u : State, issueList (l ++ [⟨slot, 0, sz, 3⟩]) (l.length + 1) s = { countReturn (freeReturned slot u) with link.waiting := [] }
      ∧ u.plan = s.plan ∧ u.setup = s.setup ∧ u.link.unreported = s.link.unreported ∧ u.sort = s.sort ∧ u.paper = s.paper := by
  induction l generalizing s with
  | nil =>
    refine ⟨emitWrite (slotOffset slot 0) sz 3 s, ?_, by simp⟩
    simp [issueList, issueWrite, offToken, tokenReturned]
  | cons x r ih =>
    have hx : x.offset ≠ offToken := hl x (by simp)
    obtain ⟨u, h1, h2⟩ := ih (fun y hy => hl y (by simp [hy])) (issueWrite x s)
    have hw : issueWrite x s = emitWrite (slotOffset x.slot x.offset) x.size x.value s := by simp [issueWrite, hx]
    refine ⟨u, ?_, ?_⟩
    · simpa [issueList] using h1
    · rw [hw] at h2; simpa using h2

theorem resumeTake_none {room} {s : State} (h : ∀ w, s.intake.sweep = some w → w.taken = none) : resumeTake room s = s := by
  unfold resumeTake
  split
  · rfl
  · rename_i w hw; simp [h w hw]

/-- With no take past its TAKEN write, no RETURNED write waiting and no load running, the writes that wait go out and nothing
else changes. -/
theorem progress_plain (s : State) (hs : s.setup.state ≠ .loading) (h : ∀ w, s.intake.sweep = some w → w.taken = none) (hx : ∀ x ∈ s.link.waiting, x.offset ≠ 0) :
    progress none s =
        { s with link.waiting := []
                 out := s.out ++ (if s.link.areaSet then s.link.waiting.map (fun x =>
                   Output.write (jobAddr s (0x10000 + x.slot * 0x1000 + x.offset)) x.size x.value) else []) } := by
  simp only [progress, resumeTake_none h, issueWaiting_due none hs]
  rw [issueList_plain _ hx _ (by simp)]

theorem progress_idle {s : State} (h : ∀ w, s.intake.sweep = some w → w.taken = none) (hw : s.link.waiting = []) (room) :
    progress room s = s := by
  rw [progress, resumeTake_none h, issueWaiting_nil room hw]

theorem progress_out (s : State) (hs : s.setup.state ≠ .loading) (h : ∀ w, s.intake.sweep = some w → w.taken = none) :
    (progress none s).out = s.out ++ (if s.link.areaSet then s.link.waiting.map (fun x =>
      Output.write (jobAddr s (0x10000 + x.slot * 0x1000 + x.offset)) x.size x.value) else []) := by
  rw [progress, resumeTake_none h]; exact issueWaiting_out hs

theorem progress_final (s : State) (hs : s.setup.state ≠ .loading) (h : ∀ w, s.intake.sweep = some w → w.taken = none) (l : List SlotWrite) (slot : Nat)
    (hl : ∀ x ∈ l, x.offset ≠ 0) (hw : s.link.waiting = l ++ [⟨slot, 0, 4, 3⟩]) :
    ∃ u : State, progress none s = { countReturn (freeReturned slot u) with link.waiting := [] }
      ∧ u.plan = s.plan ∧ u.setup = s.setup ∧ u.link.unreported = s.link.unreported ∧ u.sort = s.sort ∧ u.paper = s.paper := by
  obtain ⟨u, h1, h2⟩ := issue_last_token l hl slot 4 s
  refine ⟨u, ?_, h2⟩
  simp only [progress, resumeTake_none h, issueWaiting_due none hs, hw]
  simpa using h1

theorem insertWrite_mem (w : SlotWrite) (l : List SlotWrite) : w ∈ insertWrite w l := by
  induction l with
  | nil => simp [insertWrite]
  | cons x rest ih => simp only [insertWrite]; split <;> [simp; (split <;> simp [ih])]

theorem insertWrite_other (w : SlotWrite) (l : List SlotWrite) (x : SlotWrite) (h : x.slot ≠ w.slot ∨ x.offset ≠ w.offset) :
    x ∈ insertWrite w l ↔ x ∈ l := by
  have hne : x ≠ w := by rintro rfl; simp at h
  induction l with
  | nil => simp [insertWrite, hne]
  | cons y rest ih =>
    simp only [insertWrite]
    split
    · rename_i hy
      have : x ≠ y := by rintro rfl; simp at hy; rcases h with h | h <;> simp_all
      simp [this, hne]
    · split <;> simp [hne, ih]

theorem mem_push_self (slot off sz v : Nat) (s : State) : ⟨slot, off, sz, v⟩ ∈ (pushWrite slot off sz v s).link.waiting := insertWrite_mem _ _

theorem mem_push_other {x : SlotWrite} {slot off sz v : Nat} {s : State} (h : x ∈ s.link.waiting) (hne : x.slot ≠ slot ∨ x.offset ≠ off) :
    x ∈ (pushWrite slot off sz v s).link.waiting := (insertWrite_other _ _ _ hne).2 h

/-- The write-through adds to the outputs and settles every mark; nothing else changes (R6). -/
theorem publish_fields (b s : State) : publish b s = { s with link.dirty := [], out := (publish b s).out } := by
  unfold publish; dsimp only; split
  · rw [foldl_writeField]
  · rfl

theorem publish_out (b s : State) : ∃ l, (publish b s).out = s.out ++ l := by
  unfold publish; dsimp only; split
  · rw [foldl_writeField]; exact ⟨_, rfl⟩
  · exact ⟨[], by simp⟩

theorem publish_intake (b s : State) : (publish b s).intake = s.intake := by rw [publish_fields]

theorem publish_plan (b s : State) : (publish b s).plan = s.plan := by rw [publish_fields]

theorem publish_link (b s : State) : (publish b s).link = { s.link with dirty := [] } := by rw [publish_fields]

theorem publish_out_sub {b s : State} {l : List Output} (h : l.Sublist s.out) : l.Sublist (publish b s).out := by
  obtain ⟨x, hx⟩ := publish_out b s
  rw [hx]; exact h.trans (List.sublist_append_left _ _)

theorem publish_out_mem {b s : State} {o : Output} (h : o ∈ s.out) : o ∈ (publish b s).out := by
  obtain ⟨x, hx⟩ := publish_out b s
  rw [hx]; exact List.mem_append_left _ h

theorem head_publish {b s : State} {o : Output} {l} (h : s.out = o :: l) : (publish b s).out.head? = some o := by
  obtain ⟨x, hx⟩ := publish_out b s
  rw [hx, h]; rfl

theorem countReturn_link (s : State) : (countReturn s).link.unreported = min (s.link.unreported + 1) 64 ∧
    (countReturn s).link.idleTimer = some s.setup.params.notifyIdle := by
  unfold countReturn; dsimp only; split <;> simp [raiseCompleted]

theorem endSweep_eq (s : State) : endSweep s = { s with intake.sweep := sweepEnded s } := by
  unfold endSweep sweepEnded
  rcases h : s.intake.sweep with _ | w
  · simp; rw [← h]
  · dsimp only; split
    · rfl
    · rw [← h]

theorem answerCell_eq (a : CellAnswer) (s : State) (h : s.link.areaSet = true) : answerCell a s = cellAnswered a.code s := by
  simp only [answerCell, endSweep_eq, emitWrite, emitAccess_out, h, cellAnswered]
  simp [jobAddr, offCell, tokenAnswered]
  simp [sweepEnded]

/-- A request of the cell whose token has read POSTED is answered, its effect before the answer where it is DONE (R7). -/
theorem cellRequest_eq (a : CellAnswer) (f : State → State) (s : State) (h : s.link.areaSet = true)
    (ho : s.intake.cellOwed = true) (hf : a = .done → (f s).link.areaSet = true) :
    cellRequest a f s = cellAnswered a.code (if a = .done then f s else s) := by
  unfold cellRequest; rw [if_pos (by simp [h, ho])]
  split
  · rw [answerCell_eq]; exact hf ‹_›
  · rw [answerCell_eq]; exact h

theorem cellRequest_none (a : CellAnswer) (f : State → State) {s : State}
    (h : s.link.areaSet = false ∨ s.intake.cellOwed = false) : cellRequest a f s = s := by
  unfold cellRequest; rw [if_neg]; rcases h with h | h <;> simp [h]

/-! ## The fields due to be written -/

@[simp] theorem raiseAttention_dirty (s : State) : (raiseAttention s).link.dirty = s.link.dirty := rfl
@[simp] theorem emit_dirty (o : Output) (s : State) : (emit o s).link.dirty = s.link.dirty := rfl
@[simp] theorem emitAccess_dirty (o : Output) (s : State) : (emitAccess o s).link.dirty = s.link.dirty := by
  rw [emitAccess_out]
@[simp] theorem emitRead_dirty (off n : Nat) (s : State) : (emitRead off n s).link.dirty = s.link.dirty := emitAccess_dirty _ s
@[simp] theorem emitWrite_dirty (off n v : Nat) (s : State) : (emitWrite off n v s).link.dirty = s.link.dirty :=
  emitAccess_dirty _ s
@[simp] theorem pushWrite_dirty (k off n v : Nat) (s : State) : (pushWrite k off n v s).link.dirty = s.link.dirty := rfl
@[simp] theorem dropWrites_dirty (k : Nat) (s : State) : (dropWrites k s).link.dirty = s.link.dirty := rfl
@[simp] theorem putOrder_dirty (i : Nat) (o : Option Order) (s : State) : (putOrder i o s).link.dirty = s.link.dirty := rfl
@[simp] theorem publish_dirty (b s : State) : (publish b s).link.dirty = [] := by rw [publish_link]

/-- Accesses read out of one list of slot fields, in its order. -/
theorem emitReads_out (slot : Nat) (fields : List (Nat × Nat)) (s : State) :
    emitReads slot fields s = { s with out := s.out ++ (if s.link.areaSet then fields.map (fun x =>
      .read (jobAddr s (0x10000 + slot * 0x1000 + x.1)) x.2) else []) } := by
  unfold emitReads
  induction fields generalizing s with
  | nil => simp
  | cons x rest ih =>
    rw [List.foldl_cons, ih]
    simp only [emitRead, emitAccess_out, slotOffset]
    split <;> simp [jobAddr]

end Sys2Proof.Machine
end

