-- ==== Sys2Proof/Laws/Intake.lean ====
section
/-! SUPPORT. The intake unit: sweeps, takes, requests and the order of candidates. -/

open Sys2Proof Sys2Proof.Machine

namespace Sys2Proof.Machine

theorem foldl_emitRead (l : List Nat) (g : Nat → Nat) (n : Nat) (s : State) :
    l.foldl (fun s i => emitRead (g i) n s) s = { s with out := s.out ++
      (if s.link.areaSet then l.map (fun i => .read (jobAddr s (g i)) n) else []) } := by
  induction l generalizing s with
  | nil => simp
  | cons x rest ih =>
    rw [List.foldl_cons, ih]
    simp only [emitRead, emitAccess_out]
    split <;> simp [jobAddr]

theorem startSweep_eq (s : State) : startSweep s =
    { s with intake.sweep := some (s.intake.sweep.getD Sweep.begun)
             out := s.out ++ (if s.intake.sweep = none then tokenReads s else []) } := by
  unfold startSweep
  rcases h : s.intake.sweep with _ | w
  · simp only [Option.isSome_none, foldl_emitRead]
    simp [tokenReads, slotOffset, offToken, Config.slots]; rfl
  · simp; rw [← h]

theorem moving_iff (s : State) : moving s = true ↔ s.eng.state = .running ∨ s.eng.state = .stopping := by simp [moving]

theorem nextTake_step (s : State) : (nextTake s).intake.sweep.map Sweep.step = s.intake.sweep.map Sweep.step := by
  unfold nextTake
  split
  · rename_i h; simp [h]
  · rename_i w h
    split
    · simp [h]
    · split
      · simp [h]
      · simp [h]

theorem clearTake_step (s : State) : (clearTake s).intake.sweep.map Sweep.step = s.intake.sweep.map Sweep.step := by
  unfold clearTake; split <;> simp_all

theorem nextTake_cell (s : State) : (nextTake s).intake.cellRead = s.intake.cellRead ∧ (nextTake s).intake.cellOwed = s.intake.cellOwed
   ∧ (nextTake s).intake.lostPending = s.intake.lostPending := by simp

theorem resumeTake_sweep (room : Option Nat) (s : State) :
    (resumeTake room s).intake.sweep.map Sweep.step = s.intake.sweep.map Sweep.step
    ∧ (resumeTake room s).intake.cellRead = s.intake.cellRead ∧ (resumeTake room s).intake.lostPending = s.intake.lostPending := by
  unfold resumeTake
  split
  · exact ⟨rfl, rfl, rfl⟩
  · split
    · split
      · exact ⟨rfl, rfl, rfl⟩
      · unfold finishTake
        simp only [nextTake_step, nextTake_cell]
        refine ⟨?_, ?_, ?_⟩
        · split
          · simp [clearTake_step]
          · split <;> simp [clearTake_step]
        · split
          · simp
          · split <;> simp
        · split
          · simp
          · split <;> simp
    · exact ⟨rfl, rfl, rfl⟩

theorem progress_sweep (room : Option Nat) (s : State) :
    (progress room s).intake.sweep.map Sweep.step = s.intake.sweep.map Sweep.step
    ∧ (progress room s).intake.cellRead = s.intake.cellRead ∧ (progress room s).intake.lostPending = s.intake.lostPending := by
  have h : (progress room s).intake = (resumeTake room s).intake := by simp [progress]
  rw [h]; exact resumeTake_sweep room s

theorem nextTake_out (s : State) : ∃ l, (nextTake s).out = s.out ++ l := by
  unfold nextTake
  split
  · exact ⟨[], by simp⟩
  · split
    · exact ⟨[], by simp⟩
    · split
      · rw [emitReads_out]; exact ⟨_, rfl⟩
      · exact ⟨[], by simp⟩

theorem progress_taken (s : State) (w : Sweep) (slot : Nat) (d : TakeData) (hw : s.intake.sweep = some w) (ht : w.taken = some (slot, d)) :
    progress none s = issueWaiting none (finishTake slot d s) := by
  simp [progress, resumeTake, hw, ht]

theorem dropRequest_eq (slot : Nat) (s : State) : dropRequest slot s =
    { s with intake.sweep := s.intake.sweep.map (fun w => { w with requests := w.requests.filter (fun q => q.slot != slot) }) } := by
  unfold dropRequest
  rcases h : s.intake.sweep with _ | w
  · simp; rw [← h]
  · simp

/-- What step 2 may answer (R9, R16). -/
theorem requestRead_iff (s : State) (slot : Nat) (code number : Byte) :
    requestRead s slot code number = true ↔ ∃ w, s.intake.sweep = some w ∧ w.step = .two
      ∧ ({ slot := slot, code := code, number := number } : SlotRequest) ∈ w.requests := by
  unfold requestRead; split <;> simp_all

/-- A request that step 1 has not read, and a number last answered, is left alone (R16). -/
theorem answerRequest_left (r : Request) (slot : Nat) (code number : Byte) (s : State)
    (h : requestRead s slot code number = false ∨ requestOf code ≠ r) : answerRequest r slot code number s = s := by
  unfold answerRequest
  split
  · rfl
  · split
    · rfl
    · rw [if_pos]; tauto

theorem mem_insertCandidate (x y : Nat × Bool × Word) (l) : y ∈ insertCandidate x l ↔ y = x ∨ y ∈ l := by
  induction l with
  | nil => simp [insertCandidate]
  | cons z r ih => simp only [insertCandidate]; split <;> simp [ih]; tauto

theorem takenBefore_total (x y : Nat × Bool × Word) : takenBefore x y = true ∨ takenBefore y x = true := by
  obtain ⟨a, ra, ta⟩ := x; obtain ⟨b, rb, tb⟩ := y
  simp only [takenBefore]
  by_cases h : ra = rb
  · subst h
    by_cases h2 : ta = tb
    · subst h2; simp; omega
    · simp [h2, Ne.symm h2]; omega
  · cases ra <;> cases rb <;> simp_all

theorem takenBefore_trans (x y z : Nat × Bool × Word) (h1 : takenBefore x y = true) (h2 : takenBefore y z = true) : takenBefore x z = true := by
  obtain ⟨a, ra, ta⟩ := x; obtain ⟨b, rb, tb⟩ := y; obtain ⟨c, rc, tc⟩ := z
  simp only [takenBefore] at *
  have e : ∀ p q : Word, p = q ↔ p.toNat = q.toNat := fun p q => BitVec.toNat_inj.symm
  simp only [e] at *
  cases ra <;> cases rb <;> cases rc <;> simp_all <;> (split at h1 <;> split at h2 <;> split <;> simp_all <;> omega)

theorem sorted_insert (x) (l : List (Nat × Bool × Word)) (h : l.Pairwise (fun a b => takenBefore a b = true)) :
    (insertCandidate x l).Pairwise (fun a b => takenBefore a b = true) := by
  induction l with
  | nil => simp [insertCandidate]
  | cons z r ih =>
    rw [List.pairwise_cons] at h
    simp only [insertCandidate]
    split
    · rename_i hx
      rw [List.pairwise_cons]
      refine ⟨fun y hy => ?_, List.pairwise_cons.2 h⟩
      rcases List.mem_cons.1 hy with rfl | hy
      · exact hx
      · exact takenBefore_trans _ _ _ hx (h.1 y hy)
    · rename_i hx
      rw [List.pairwise_cons]
      refine ⟨fun y hy => ?_, ih h.2⟩
      rcases (mem_insertCandidate _ _ _).1 hy with rfl | hy
      · exact (takenBefore_total _ _).resolve_left hx
      · exact h.1 y hy

theorem areaTaken_iff (s : State) : areaTaken s = true ↔ s.eng.state = .stopped ∧ s.setup.state ≠ .loading ∧ ∀ c ∈ s.plan.table, c = none := by
  simp [areaTaken, and_assoc]

theorem baseOf_eq (v : Long) : baseOf v = (v >>> 16) <<< 16 := by
  unfold baseOf
  ext i hi
  simp only [BitVec.getElem_and, BitVec.getElem_shiftLeft]
  interval_cases i <;> simp [BitVec.getElem_eq_testBit_toNat] <;> (try intro _) <;> decide

end Sys2Proof.Machine
end

