-- ==== Sys2Proof/Laws/Engine.lean ====
section
/-! SUPPORT. Stoppages and entering RUNNING: what the spoil keeps, and the causes with ATTENTION set. -/

open Sys2Proof Sys2Proof.Machine

namespace Sys2Proof.Machine

theorem foldl_spoil_keep {γ : Type} (p : State → γ) (h : ∀ (how : Settle) i e n s, p (settleFrame how i e n s) = p s)
    (l : List MapEntry) (s : State) : p (l.foldl spoilReport s) = p s := by
  induction l generalizing s with
  | nil => rfl
  | cons x rest ih =>
    rw [List.foldl_cons, ih]; unfold spoilReport; split
    · split
      · rfl
      · exact h _ _ _ _ _
    · rfl

def Att (C : Causes) (s : State) : Prop := s.link.causes = C

theorem att_raise {C s} (hc : C.attention = true) (h : Att C s) : Att C (raiseAttention s) := by
  unfold Att at *; simp only [raiseAttention]; rw [h]; rw [← hc]

theorem att_congr {C} {s t : State} (h : Att C s) (e : t.link.causes = s.link.causes) : Att C t := e.trans h

theorem att_foldl {α : Type} {C} (f : State → α → State) (hf : ∀ s a, Att C s → Att C (f s a)) (l : List α) {s : State} (h : Att C s) : Att C (l.foldl f s) := by
  induction l generalizing s with
  | nil => exact h
  | cons a l ih => exact ih (hf _ _ h)

theorem att_evalLowOf {C s} (hc : C.attention = true) (m : Mag) (h : Att C s) : Att C (evalLowOf m s) := by
  unfold evalLowOf; dsimp only; split
  · exact att_raise hc (att_congr h (by simp))
  · exact att_congr h (by simp)

theorem att_evalLow {C s} (hc : C.attention = true) (h : Att C s) : Att C (evalLow s) := att_evalLowOf hc _ (att_evalLowOf hc _ h)

theorem att_attend {C s} (hc : C.attention = true) (b) (h : Att C s) : Att C (attendBin b s) := by
  unfold attendBin; split
  · exact h
  · exact att_raise hc (att_congr h (by simp))

theorem att_completeBin {C s} (hc : C.attention = true) (x b) (h : Att C s) : Att C (completeBin x s b) := by
  unfold completeBin; dsimp only; split
  · exact att_congr h (by simp)
  · split
    · exact att_attend hc _ (att_congr h (by simp))
    · split
      · exact att_raise hc (att_congr h (by simp))
      · exact att_congr h (by simp)

theorem att_completeOrder {C s} (hc : C.attention = true) (i o) (h : Att C s) : Att C (completeOrder i o s) := by
  have h1 : Att C (completionReport o.bins o.cancelled (enterState i o .complete s)) :=
    att_foldl _ (fun s b h => att_completeBin hc _ _ h) _ (att_congr h (by simp))
  unfold completeOrder; dsimp only; split
  · exact att_evalLow hc (att_congr h1 (by simp))
  · exact h1

theorem att_evalOrder {C s} (hc : C.attention = true) (i) (h : Att C s) : Att C (evalOrder i s) := by
  unfold evalOrder; split
  · exact h
  · split
    · exact h
    · split
      · exact att_completeOrder hc _ _ h
      · exact att_congr h (by simp)

theorem att_settle {C s} (hc : C.attention = true) (how i ei n) (h : Att C s) : Att C (settleFrame how i ei n s) := by
  unfold settleFrame; split
  · exact h
  · split
    · dsimp only
      refine att_evalOrder hc _ (att_evalLow hc (att_congr h ?_))
      simp; split <;> simp
    · exact h

theorem enterRunning_eq (s : State) (h : s.out = []) (hd : s.link.dirty = []) (jam : Bool) :
    releaseKnife (loadTimer (startSweep (raiseRun (setEngine .running { s with cut.jam := jam })))) =
     { runningEntered s with cut.jam := jam } := by
  simp only [startSweep_eq, raiseRun, emit, loadTimer, releaseKnife, runningEntered, clearOut, setEngine, markFields, h, hd]
  split <;> simp_all [tokenReads, jobAddr]

theorem enterRunning_cases (s : State) :
    (s.line.webReady = false → enterRunning false (clearOut s) = runningEntered s)
    ∧ (s.line.webReady = true → enterRunning false (clearOut s) = webReady (runningEntered s))
    ∧ enterRunning true (clearOut s) = stoppage .jam { runningEntered s with cut.jam := true } := by
  have hr : runningEntered (clearOut s) = runningEntered s := rfl
  refine ⟨fun h => ?_, fun h => ?_, ?_⟩
  · simp only [enterRunning, enterRunning_eq (clearOut s) rfl rfl, hr]
    simp [runningEntered, clearOut, h]
  · simp only [enterRunning, enterRunning_eq (clearOut s) rfl rfl, hr]
    simp [runningEntered, clearOut, h]
  · simp only [enterRunning, enterRunning_eq (clearOut s) rfl rfl, hr]
    have : (stoppage .jam { runningEntered s with cut.jam := true }).line.web = .idle := by
      simp [stoppage, runningEntered, enterPaused, dropRun]
    simp only [if_true]
    rw [if_neg]
    rw [this]; simp

end Sys2Proof.Machine
end

