-- ==== Sys2Proof/Laws/Fetch.lean ====
section
/-! SUPPORT. Lines of width 0 in FCH: how they join, that none is left waiting, and that the buffer keeps its bound (R70, R71). -/

namespace Sys2Proof.Machine

theorem emptyLine_room {s : State} {c : Word × Nat} (h : emptyLine s = some c) :
    s.fetch.buffer.length + s.fetch.reads.length < Config.bufferLines ∧ s.fetch.cursor = some c := by
  unfold emptyLine at h
  split at h
  · rename_i g
    simp [mayIssue, Option.filter_eq_some_iff] at g h
    exact ⟨g.1.2, h.1⟩
  · cases h

@[simp] theorem joinLine_buffer (n : Word) (i : Nat) (s : State) :
    (joinLine n i s).fetch.buffer = s.fetch.buffer ++ [{ number := n, index := i, pixels := [] }] := by
  simp [joinLine]

/-- The buffer with the reads out keeps L10's bound while lines of width 0 join. -/
theorem joinLines_bound (k : Nat) (s : State)
    (h : s.fetch.buffer.length + s.fetch.reads.length ≤ Config.bufferLines) :
    (joinLines k s).fetch.buffer.length + (joinLines k s).fetch.reads.length ≤ Config.bufferLines := by
  induction k generalizing s with
  | zero => exact h
  | succ k ih =>
    simp only [joinLines]
    split
    · exact h
    · rename_i n i g
      exact ih _ (by have := (emptyLine_room g).1; simp; omega)

theorem evalFetch_bound (s : State) (h : s.fetch.buffer.length + s.fetch.reads.length ≤ Config.bufferLines) :
    (evalFetch s).fetch.buffer.length + (evalFetch s).fetch.reads.length ≤ Config.bufferLines :=
  joinLines_bound _ _ (by simpa using h)

theorem joinLines_settled (k : Nat) (s : State)
    (h : Config.bufferLines ≤ k + (s.fetch.buffer.length + s.fetch.reads.length)) : emptyLine (joinLines k s) = none := by
  induction k generalizing s with
  | zero =>
    cases g : emptyLine s with
    | none => simpa [joinLines] using g
    | some c => have := (emptyLine_room g).1; omega
  | succ k ih =>
    simp only [joinLines]
    split
    · assumption
    · exact ih _ (by simp; omega)

/-- No line of width 0 that could join is left at the cursor once FCH has evaluated R71. -/
theorem evalFetch_settled (s : State) : emptyLine (evalFetch s) = none := joinLines_settled _ _ (by simp)

/-- Joining stops where no line joins. -/
theorem joinLines_none {s : State} (h : emptyLine s = none) (k : Nat) : joinLines k s = s := by
  cases k <;> simp [joinLines, h]

/-- More turns than there is room for change nothing. -/
theorem joinLines_enough (k m : Nat) (s : State)
    (h : Config.bufferLines ≤ k + (s.fetch.buffer.length + s.fetch.reads.length)) :
    joinLines (k + m) s = joinLines k s := by
  induction k generalizing s with
  | zero => simpa [joinLines] using joinLines_none (joinLines_settled 0 s h) m
  | succ k ih =>
    rw [Nat.add_right_comm]
    simp only [joinLines]
    split
    · rfl
    · exact ih _ (by simp; omega)

/-- Where nothing joins, FCH's evaluation is that of refill alone. -/
theorem evalFetch_none {s : State} (h : emptyLine (evalRefill s) = none) : evalFetch s = evalRefill s := joinLines_none h _

/-- Where a line joins, FCH goes on from the state behind it. -/
theorem evalFetch_join {s : State} {n : Word} {i : Nat} (h : emptyLine (evalRefill s) = some (n, i)) :
    evalFetch s = evalFetch (joinLine n i (evalRefill s)) := by
  have e := joinLines_enough 15 1 (evalRefill (joinLine n i (evalRefill s))) (by simp [Config.bufferLines]; omega)
  unfold evalFetch
  rw [show Config.bufferLines = 15 + 1 from rfl, e]
  simp only [joinLines, h]

end Sys2Proof.Machine
end

