-- ==== Sys2Proof/Laws/Orders.lean ====
section
/-! SUPPORT. The order table: reading and writing contexts, and what an evaluation and a cancellation leave. -/

open Sys2Proof Sys2Proof.Machine

namespace Sys2Proof.Machine

@[simp] theorem getOrder_putOrder_self (i : Nat) (o : Option Order) (s : State) (h : i < s.plan.table.length) :
    getOrder (putOrder i o s) i = o := by
  simp [getOrder, putOrder, h]

theorem getOrder_some_lt {s : State} {i : Nat} {o : Order} (h : getOrder s i = some o) : i < s.plan.table.length := by
  unfold getOrder at h
  by_contra hn
  rw [List.getD_eq_getElem?_getD, List.getElem?_eq_none (by omega)] at h
  simp at h

theorem getOrder_mem {s : State} {i : Nat} {o : Order} (h : getOrder s i = some o) : some o ∈ s.plan.table := by
  have hi := getOrder_some_lt h
  unfold getOrder at h
  rw [List.getD_eq_getElem?_getD, List.getElem?_eq_getElem hi] at h
  simp at h
  exact h ▸ List.getElem_mem hi

@[simp] theorem freeOrder_table (i : Nat) (s : State) : (freeOrder i s).plan.table = s.plan.table.set i none := by
  simp [freeOrder]

/-- The table after an evaluation of the order at index i (R45, R47, R49). -/
theorem evalOrder_table (i : Nat) (s : State) (o : Order) (h : getOrder s i = some o) :
    (evalOrder i s).plan.table = s.plan.table.set i
      (if stateOfCounts o = .complete ∧ o.state ≠ .complete ∧ o.detached then none
       else some { o with state := stateOfCounts o }) := by
  have hi := getOrder_some_lt h
  have hself : s.plan.table.set i (some o) = s.plan.table := by
    have : s.plan.table[i] = some o := by
      unfold getOrder at h; rw [List.getD_eq_getElem?_getD, List.getElem?_eq_getElem hi] at h; simpa using h
    rw [← this]; exact List.set_getElem_self hi
  simp only [evalOrder, h]
  split
  · rename_i heq
    rw [if_neg (by intro hh; exact hh.2.1 (heq ▸ hh.1))]
    rw [heq, hself]
  · split
    · rename_i hne hc
      simp only [completeOrder]
      split
      · rename_i hd
        rw [if_pos ⟨hc, fun h2 => hne (hc.trans h2.symm), hd⟩]
        simp
      · rename_i hd
        rw [if_neg (by simp [hd])]
        simp [hc]
    · rename_i hne hc
      rw [if_neg (by simp [hc])]
      simp

theorem evalOrder_table_none (i : Nat) (s : State) (h : getOrder s i = none) : evalOrder i s = s := by
  simp [evalOrder, h]


theorem getOrder_put (s : State) (i j : Nat) (x : Option Order) (h : i < s.plan.table.length) :
    getOrder (putOrder i x s) j = if j = i then x else getOrder s j := by
  unfold getOrder putOrder
  simp only [List.getD_eq_getElem?_getD, List.getElem?_set]
  by_cases hji : j = i
  · subst hji; simp [h]
  · simp [hji, Ne.symm hji]

theorem getOrder_congr {s t : State} (h : t.plan.table = s.plan.table) (j) : getOrder t j = getOrder s j := by
  unfold getOrder; rw [h]

theorem getOrder_set {s : State} {i : Nat} {o : Order} (h : getOrder s i = some o) (p : Option Order) (t : State)
   (ht : t.plan.table = s.plan.table.set i p) : getOrder t i = p := by
  have := getOrder_some_lt h
  simp [getOrder, ht, this]

theorem findSlot_spec (slot : Nat) (l : List (Option Order)) (k i : Nat) (h : findSlot slot l k = some i) :
    k ≤ i ∧ ∃ o, l[i - k]? = some (some o) ∧ o.slot = slot := by
  induction l generalizing k with
  | nil => simp [findSlot] at h
  | cons x r ih =>
    simp only [findSlot] at h
    rcases x with _ | x
    · obtain ⟨h1, o, h2, h3⟩ := ih _ h
      refine ⟨by omega, o, ?_, h3⟩
      rw [show i - k = (i - (k + 1)) + 1 by omega]; simpa using h2
    · dsimp only at h
      split at h
      · simp at h; subst h; simp_all
      · obtain ⟨h1, o, h2, h3⟩ := ih _ h
        refine ⟨by omega, o, ?_, h3⟩
        rw [show i - k = (i - (k + 1)) + 1 by omega]; simpa using h2

theorem findSlot_set (slot : Nat) (l : List (Option Order)) (k i : Nat) (o p : Order) (h : l[i]? = some (some o)) (hp : p.slot = o.slot) :
    findSlot slot (l.set i (some p)) k = findSlot slot l k := by
  induction l generalizing k i with
  | nil => simp at h
  | cons x r ih =>
    cases i with
    | zero => simp at h; subst h; simp [findSlot, hp]
    | succ i => simp at h; cases x <;> simp [findSlot, ih _ _ h]

theorem orderOfSlot_slot {s : State} {slot i : Nat} {o : Order} (h : orderOfSlot s slot = some i) (ho : getOrder s i = some o) : o.slot = slot := by
  obtain ⟨-, p, hp, hps⟩ := findSlot_spec _ _ _ _ h
  simp only [getOrder, List.getD_eq_getElem?_getD] at ho
  simp only [Nat.sub_zero] at hp
  rw [hp] at ho; simp at ho; rw [← ho]; exact hps

theorem cancel_table (i : Nat) (s : State) (o : Order) (h : getOrder s i = some o) :
    getOrder (cancelOrder i s) i = (if inFlight o = 0 ∧ o.detached then none
      else some { cancelledOrder o with state := if inFlight o = 0 then .complete else .cancelling }) := by
  have hco : cancelOrder i s = evalOrder i (evalLow (writeCancelled o (cancelledOrder o) (writeMirror (cancelledOrder o) (putOrder i (some (cancelledOrder o)) s)))) := by
    unfold cancelOrder; rw [h]
  rw [hco]
  have hget : getOrder (evalLow (writeCancelled o (cancelledOrder o) (writeMirror (cancelledOrder o) (putOrder i (some (cancelledOrder o)) s)))) i = some (cancelledOrder o) := by
    apply getOrder_set h; simp
  rw [getOrder_set hget _ _ (evalOrder_table i _ _ hget)]
  have hin : inFlight (cancelledOrder o) = inFlight o := by
    simp [inFlight, cancelledOrder, sumBy, Function.comp_def]
  have hst : stateOfCounts (cancelledOrder o) = if inFlight o = 0 then .complete else .cancelling := by rw [← hin]; rfl
  rw [hst]
  by_cases hf : inFlight o = 0 <;> simp [hf, cancelledOrder]

theorem cancel_detached_waiting (i : Nat) (s : State) (o : Order) (h : getOrder s i = some o) (hd : o.detached = true) :
    (cancelOrder i s).link.waiting = s.link.waiting := by
  unfold cancelOrder; rw [h]; dsimp only
  have h1 : writeMirror (cancelledOrder o) (putOrder i (some (cancelledOrder o)) s) = putOrder i (some (cancelledOrder o)) s := by
    unfold writeMirror; rw [if_pos]; exact hd
  have h2 : ∀ t, writeCancelled o (cancelledOrder o) t = t := by
    intro t; unfold writeCancelled
    have : ∀ (l : List Nat) (t : State), l.foldl (fun s i => match o.entries[i]? with
      | some e => if 0 < e.t then writeResult (cancelledOrder o) i s else s
      | none => s) t = t := by
      intro l; induction l with
      | nil => intro t; rfl
      | cons a r ih =>
        intro t; rw [List.foldl_cons]
        have : (match o.entries[a]? with
          | some e => if 0 < e.t then writeResult (cancelledOrder o) a t else t
          | none => t) = t := by
          split
          · split
            · unfold writeResult; split
              · rw [if_pos]; exact hd
              · rfl
            · rfl
          · rfl
        rw [this, ih]
    exact this _ _
  rw [h1, h2]
  have hg : getOrder (evalLow (putOrder i (some (cancelledOrder o)) s)) i = some (cancelledOrder o) := getOrder_set h _ _ (by simp)
  unfold evalOrder; rw [hg]; dsimp only
  have hw : ∀ (p : Order) st (t : State), p.detached = true → (enterState i p st t).link.waiting = t.link.waiting := by
    intro p st t hp; simp [enterState, writeMirror, hp]
  have hcd : (cancelledOrder o).detached = true := hd
  split
  · simp
  · split
    · unfold completeOrder; dsimp only
      rw [if_pos hcd]
      simp [hw _ _ _ hcd]
    · simp [hw _ _ _ hcd]

theorem widthLoaded_congr {s t : State} (h : t.paper = s.paper) (w : Nat) : widthLoaded t w = widthLoaded s w := by
  simp [widthLoaded, h]

theorem widthLoaded_evalLow (s : State) (k : Nat) : widthLoaded (evalLow s) k = widthLoaded s k := by
  have h : ∀ m (s : State), widthLoaded (evalLowOf m s) k = widthLoaded s k := by
    intro m s
    unfold evalLowOf; dsimp only
    split <;> cases m <;> simp [widthLoaded, setMag, getMag, raiseAttention]
  rw [evalLow, h, h]

theorem lacks_iff (s : State) (o : Order) : lacksPaper s o = true ↔ ∃ e ∈ o.entries, 0 < e.t ∧ widthLoaded s e.width = false := by
  simp [lacksPaper]

theorem orderDemand_empty (w : Nat) : (List.replicate 16 (none : Option Order)).foldl (fun d c =>
    match c with
    | some o => max d (orderDemand w o)
    | none => d) 0 = 0 := by rfl

/-- LOW of one magazine with no order in the table (R36, R164). -/
theorem evalLowOf_empty (m : Mag) (s : State) (h : s.plan = Planner.reset) :
    ∃ (c : Bool) (l : List Nat), evalLowOf m s =
      { setMag m { getMag s m with low := (getMag s m).loaded && decide ((getMag s m).remaining < 400) } s with
        link.causes.attention := c, link.dirty := l } := by
  have hd : demand s (getMag s m) = 400 := by simp only [demand, h]; rfl
  simp only [evalLowOf, hd]
  split <;> exact ⟨_, _, rfl⟩

end Sys2Proof.Machine
end

