-- ==== Sys2Proof/Laws/Setup.lean ====
section
/-! SUPPORT. The setup store: the sparse tables keep their one form and read back what was written. -/

open Sys2Proof Sys2Proof.Machine

namespace Sys2Proof.Machine

theorem ascending_iff (l : List Break) : ascending l = true ↔ (l.map Break.minimum).Pairwise (· < ·) := by
  induction l with
  | nil => simp [ascending]
  | cons a r ih =>
    cases r with
    | nil => simp [ascending]
    | cons b r =>
      simp only [ascending, Bool.and_eq_true, decide_eq_true_eq, ih]
      simp only [List.map_cons, List.pairwise_cons, List.mem_cons, forall_eq_or_imp]
      constructor
      · rintro ⟨h1, h2, h3⟩
        exact ⟨⟨h1, fun x hx => lt_trans h1 (h2 x hx)⟩, h2, h3⟩
      · rintro ⟨⟨h1, -⟩, h2, h3⟩
        exact ⟨h1, h2, h3⟩

/-! ## The setup tables in their one form -/

theorem tableWf_mono (d : Nat) {lo lo' : Nat} (h : lo' ≤ lo) (t : SparseTable) (hw : tableWf d lo t = true) : tableWf d lo' t = true := by
  cases t with
  | nil => rfl
  | cons x rest =>
    simp only [tableWf, Bool.and_eq_true, decide_eq_true_eq] at hw ⊢
    exact ⟨⟨h.trans hw.1.1, hw.1.2⟩, hw.2⟩

/-- A write keeps the table in its one form. -/
theorem tableSet_wf (d : Nat) (t : SparseTable) (lo i x : Nat) (hi : lo ≤ i) (hw : tableWf d lo t = true) :
    tableWf d lo (tableSet d t i x) = true := by
  induction t generalizing lo with
  | nil =>
    unfold tableSet
    split
    · rfl
    · rename_i h; simp [tableWf, hi, h]
  | cons y rest ih =>
    obtain ⟨k, v⟩ := y
    simp only [tableWf, Bool.and_eq_true, decide_eq_true_eq] at hw
    obtain ⟨⟨h1, h2⟩, h3⟩ := hw
    unfold tableSet
    split
    · subst_vars
      split
      · exact tableWf_mono d (by omega) _ h3
      · rename_i h; simp [tableWf, h1, h, h3]
    · split
      · split
        · simp [tableWf, h1, h2, h3]
        · rename_i h4 h5 h6
          simp only [tableWf, Bool.and_eq_true, decide_eq_true_eq]
          exact ⟨⟨hi, h6⟩, ⟨by omega, h2⟩, h3⟩
      · rename_i h4 h5
        simp only [tableWf, Bool.and_eq_true, decide_eq_true_eq]
        exact ⟨⟨h1, h2⟩, ih (k + 1) (by omega) h3⟩

/-- An index below the table's first reads the default. -/
theorem tableGet_low (d : Nat) (t : SparseTable) (lo i : Nat) (hi : i < lo) (hw : tableWf d lo t = true) : tableGet d t i = d := by
  cases t with
  | nil => rfl
  | cons y rest =>
    obtain ⟨k, v⟩ := y
    simp only [tableWf, Bool.and_eq_true, decide_eq_true_eq] at hw
    unfold tableGet
    rw [if_neg (by omega), if_pos (by omega)]

/-- A read after a write: the value written at its index, what stood there elsewhere. -/
theorem tableGet_tableSet (d : Nat) (t : SparseTable) (lo i j x : Nat) (hw : tableWf d lo t = true) :
    tableGet d (tableSet d t i x) j = if j = i then x else tableGet d t j := by
  induction t generalizing lo with
  | nil =>
    unfold tableSet
    split
    · rename_i h; subst h; split <;> rfl
    · simp only [tableGet]
      by_cases h1 : j = i <;> simp [h1]
  | cons y rest ih =>
    obtain ⟨k, v⟩ := y
    have hw' := hw
    simp only [tableWf, Bool.and_eq_true, decide_eq_true_eq] at hw'
    obtain ⟨⟨h1, h2⟩, h3⟩ := hw'
    unfold tableSet
    split
    · rename_i hik; subst hik
      split
      · rename_i hx
        by_cases hj : j = i
        · rw [if_pos hj, hj, hx]; exact tableGet_low d rest (i + 1) i (by omega) h3
        · rw [if_neg hj]
          simp only [tableGet]
          rw [if_neg hj]
          split
          · exact tableGet_low d rest (i + 1) j (by omega) h3
          · rfl
      · simp only [tableGet]
        by_cases hj : j = i <;> simp [hj]
    · split
      · rename_i hik hlt
        split
        · rename_i hx
          by_cases hj : j = i
          · rw [if_pos hj, hj, hx]; simp only [tableGet]; rw [if_neg (by omega), if_pos hlt]
          · rw [if_neg hj]
        · simp only [tableGet]
          by_cases hj : j = i
          · simp [hj]
          · rw [if_neg hj, if_neg hj]
            by_cases hji : j < i
            · rw [if_pos hji, if_neg (by omega), if_pos (by omega)]
            · rw [if_neg hji]
      · rename_i hik hlt
        simp only [tableGet]
        by_cases hjk : j = k
        · rw [if_pos hjk, if_pos hjk, if_neg (by omega)]
        · rw [if_neg hjk, if_neg hjk]
          by_cases hlt2 : j < k
          · rw [if_pos hlt2, if_pos hlt2, if_neg (by omega)]
          · rw [if_neg hlt2, if_neg hlt2]; exact ih (k + 1) h3

end Sys2Proof.Machine
end

