-- ==== Sys2Proof/Laws/Sorter.lean ====
section
/-! SUPPORT. The sorter: what a landing that is no delivery comes to. -/

open Sys2Proof Sys2Proof.Machine

namespace Sys2Proof.Machine

theorem landing_eq (b : Nat) (hb : b ≤ 15) (s : State) (hlen : s.sort.bins.length = 15) : strayLanding b s =
      if b = 0 then
        { s with
          sort.rejectCount := if s.sort.rejectCount < 50 then min (s.sort.rejectCount + 1) 50 else s.sort.rejectCount
          sort.rejectFull := s.sort.rejectFull || s.sort.rejectCount == 49
          link.causes.attention := s.link.causes.attention || s.sort.rejectCount == 49 }
      else
        { s with
          sort.bins := s.sort.bins.set (b - 1) { getBin s b with misroutes := min ((getBin s b).misroutes + 1) 65535, state := .attention }
          link.causes.attention := s.link.causes.attention || (getBin s b).state != .attention } := by
  unfold strayLanding
  by_cases h0 : b = 0
  · rw [if_pos h0, if_pos h0]; unfold rejectLanding
    by_cases h1 : s.sort.rejectCount < Config.rejectCapacity
    · rw [if_pos h1]; dsimp only
      have h1' : s.sort.rejectCount < 50 := h1
      by_cases h2 : s.sort.rejectCount = 49
      · simp [h2, Config.rejectCapacity, raiseAttention]
      · have h3 : (s.sort.rejectCount == 49) = false := by simpa using h2
        rw [if_neg (by simpa [Config.rejectCapacity] using h2), if_pos h1', Nat.min_eq_left (by omega), h3]
        simp
    · rw [if_neg h1]
      have h1' : ¬ s.sort.rejectCount < 50 := h1
      have h3 : (s.sort.rejectCount == 49) = false := by simp; omega
      rw [if_neg h1', h3]; simp
  · rw [if_neg h0, if_neg h0]
    have hi : b - 1 < s.sort.bins.length := by omega
    have hg : getBin (setBin b { getBin s b with misroutes := min ((getBin s b).misroutes + 1) 65535 } s) b = { getBin s b with misroutes := min ((getBin s b).misroutes + 1) 65535 } := by
      simp [getBin, setBin, List.getD_eq_getElem?_getD, hi]
    unfold attendBin
    rw [hg]
    by_cases hs : (getBin s b).state = .attention
    · rw [if_pos hs]; simp [hs, setBin]
    · rw [if_neg hs]; simp [setBin, raiseAttention, hs]

end Sys2Proof.Machine
end

