-- ==== Sys2Proof/Laws/Waiting.lean ====
section
/-! SUPPORT. Which slot writes an operation can leave waiting. -/

open Sys2Proof Sys2Proof.Machine

namespace Sys2Proof.Machine

/-! ## The writes a change puts behind the others -/

@[simp] theorem waitingWith_nil (s : State) : waitingWith [] s = s.link.waiting := rfl

theorem waitingWith_cons (w : SlotWrite) (ws : List SlotWrite) (s : State) :
    waitingWith (w :: ws) s = waitingWith ws (pushWrite w.slot w.offset w.size w.value s) := rfl

theorem waitingWith_mirror (o : Order) (s : State) :
    (writeMirror o s).link.waiting = if o.detached then s.link.waiting else waitingWith [mirrorWrite o.slot o.state] s := by
  unfold writeMirror; split <;> rfl

theorem waitingWith_result (o : Order) (i : Nat) (e : Entry) (s : State) (h : o.entries[i]? = some e) :
    (writeResult o i s).link.waiting = if o.detached then s.link.waiting else waitingWith (resultWrites o.slot i e) s := by
  unfold writeResult; rw [h]; dsimp only; split
  · rfl
  · simp [pushResult, pushResultFields, waitingWith, resultWrites, offResult, summaryCode, Nat.add_right_comm]

theorem waitingWith_bins (o : Order) (s : State) :
    (writeBins o s).link.waiting = if o.detached then s.link.waiting else waitingWith (binsWrites o.slot o.bins) s := by
  unfold writeBins; split <;> rfl

/-! ## What every write that waits is like -/

def WaitAll (P : Nat → Nat → Prop) (s : State) : Prop := ∀ x ∈ s.link.waiting, P x.slot x.offset

theorem WaitAll.congr {P} {s t : State} (h : WaitAll P s) (e : t.link.waiting = s.link.waiting) : WaitAll P t := by
  intro x hx; rw [e] at hx; exact h x hx

theorem WaitAll.push {P} {s : State} (h : WaitAll P s) {slot offset : Nat} (hp : P slot offset) (size value : Nat) :
    WaitAll P (pushWrite slot offset size value s) := by
  intro x hx
  by_cases he : x.slot ≠ slot ∨ x.offset ≠ offset
  · exact h x ((insertWrite_other _ _ _ he).1 hx)
  · push Not at he; rw [he.1, he.2]; exact hp

theorem WaitAll.mirror {P} {s : State} (h : WaitAll P s) (o : Order) (hp : P o.slot 0x22) : WaitAll P (writeMirror o s) := by
  unfold writeMirror; split; exact h; exact h.push hp _ _

theorem WaitAll.fields {P} {s : State} (h : WaitAll P s) (slot i g a used jams summary : Nat)
    (hp : ∀ k, 0x900 ≤ k → P slot k) : WaitAll P (pushResultFields slot i g a used jams summary s) := by
  unfold pushResultFields offResult
  refine WaitAll.push (WaitAll.push (WaitAll.push (WaitAll.push (WaitAll.push h ?_ _ _) ?_ _ _) ?_ _ _) ?_ _ _) ?_ _ _ <;>
    apply hp <;> omega

theorem WaitAll.result {P} {s : State} (h : WaitAll P s) (o : Order) (i : Nat) (hp : ∀ k, 0x900 ≤ k → P o.slot k) : WaitAll P (writeResult o i s) := by
  unfold writeResult; split
  · split
    · exact h
    · exact h.fields _ _ _ _ _ _ _ hp
  · exact h

theorem WaitAll.enter {P} {s : State} (h : WaitAll P s) (i : Nat) (o : Order) (st) (hp : P o.slot 0x22) : WaitAll P (enterState i o st s) :=
  WaitAll.mirror (s := putOrder i _ s) h _ hp

theorem WaitAll.complete {P} {s : State} (h : WaitAll P s) (i : Nat) (o : Order) (hp : P o.slot 0x22) : WaitAll P (completeOrder i o s) := by
  have h2 := h.enter i o .complete hp
  unfold completeOrder; dsimp only
  split
  · exact h2.congr (by simp)
  · exact h2.congr (by simp)

theorem WaitAll.eval {P} {s : State} (h : WaitAll P s) (i : Nat) (hp : ∀ k, P k 0x22) : WaitAll P (evalOrder i s) := by
  unfold evalOrder; split
  · exact h
  · split
    · exact h
    · split
      · exact h.complete i _ (hp _)
      · exact h.enter i _ _ (hp _)

theorem WaitAll.evalWaitOf {P} {s : State} (h : WaitAll P s) (i : Nat) (hp : ∀ k, P k 0x22) : WaitAll P (evalWaitOf s i) := by
  unfold Machine.evalWaitOf; split
  · exact h
  · split
    · split
      · rename_i o _ _ _ _
        have h2 := h.enter i o .waitPaper (hp _)
        exact h2.congr (by simp)
      · exact h
    · split
      · exact h
      · exact h.enter i _ _ (hp _)
    · exact h

theorem WaitAll.foldl {P} {α} {s : State} (h : WaitAll P s) (f : State → α → State) (l : List α)
    (hf : ∀ s a, WaitAll P s → WaitAll P (f s a)) : WaitAll P (l.foldl f s) := by
  induction l generalizing s with
  | nil => exact h
  | cons a r ih => exact ih (hf _ _ h)

theorem WaitAll.cancelled {P} {s : State} (h : WaitAll P s) (a b : Order) (hp : ∀ n k, 0x900 ≤ k → P n k) : WaitAll P (writeCancelled a b s) := by
  unfold writeCancelled
  apply h.foldl
  intro t i ht
  split
  · split
    · exact ht.result _ _ (fun k hk => hp _ k hk)
    · exact ht
  · exact ht

theorem WaitAll.cancel {P} {s : State} (h : WaitAll P s) (i : Nat) (hp : ∀ k, P k 0x22) (hr : ∀ n k, 0x900 ≤ k → P n k) : WaitAll P (cancelOrder i s) := by
  unfold cancelOrder; split
  · exact h
  · dsimp only
    refine WaitAll.eval ?_ i hp
    have : WaitAll P (putOrder i (some (cancelledOrder ‹Order›)) s) := h
    have := (this.mirror (cancelledOrder ‹Order›) (hp _)).cancelled ‹Order› (cancelledOrder ‹Order›) hr
    exact this.congr (by simp)

theorem WaitAll.mono {P Q : Nat → Nat → Prop} {s : State} (h : WaitAll P s) (hpq : ∀ a b, P a b → Q a b) : WaitAll Q s :=
  fun x hx => hpq _ _ (h x hx)

end Sys2Proof.Machine
end

