-- ==== Sys2Proof/Tests/Slice0.lean ====
section
/-! SUPPORT. Tests of the model against the worked sequences of the manual, the smoke test of WellFormed, and for every
statement with hypotheses a theorem that shows states and operands which meet them. -/

namespace Sys2Proof.Tests

open Sys2Proof Sys2Proof.Machine

set_option Elab.async false

/-! ## WellFormed: one ill-formed command for each check -/

theorem test_wf_control_code : (Instr.refusedControlValue 1).wellFormed = false := by decide
theorem test_wf_control_other : (Instr.refusedControlValue 0x106).wellFormed = true := by decide

def slotRead : SlotRead := { token := some 1, ticket := some 7, classByte := some 1, request := none }

theorem test_wf_sweep_reads : (Instr.sweepStepComplete [slotRead, slotRead, slotRead] none).wellFormed = false := by decide
theorem test_wf_slot_request : (Instr.slotRequestNotApplicable 5 1 9).wellFormed = false := by decide

def takeNone : TakeData := { ticket := 7, classByte := 1, custByte := 0, count := 2, reqNumber := 0, entries := [] }

theorem test_wf_take_count : (Instr.takeReadsComplete (.data takeNone) none false).wellFormed = false := by decide
theorem test_wf_take_offset : (Instr.takeReadsComplete (.busError 0x900) none false).wellFormed = false := by decide
theorem test_wf_write_offset : (Instr.slotWriteFault 3 0x008 .current).wellFormed = false := by decide
theorem test_wf_cell_offset : (Instr.machineRequestCellRead (.busError 32) false).wellFormed = false := by decide
theorem test_wf_cell_code : (Instr.machineRequestNotApplicable 3).wellFormed = false := by decide
theorem test_wf_element : (Instr.pulseEnd 3072 .red).wellFormed = false := by decide
theorem test_wf_pixels : (Instr.lineReadComplete 0 (some [1, 2])).wellFormed = false := by decide
theorem test_wf_line : (Instr.lineReadComplete 0 (some (List.replicate 9219 0))).wellFormed = false := by decide +kernel

/-! ## States the tests start from -/

/-- What a command answers. -/
def after (c : Instr) (s : State) : State :=
  match exec c s with
  | .next t => t
  | _ => s

/-- AREA set, STOPPED. -/
def linked : State :=
  { State.reset with link.area := 0x100000, link.areaSet := true, intake.timer := some 50 }

/-- STOPPED with a VALID setup at the line-rate setting of 5.7.1. -/
def stopped : State :=
  { linked with setup.state := .valid, setup.params.divisor := 13332, setup.params.cutLength := 60000 }

def running : State :=
  { stopped with eng.state := .running, line.web := .ramping, line.divisor := 13332 }

def ready : State := { running with line.web := .ready, line.supervision := some 53332, line.w := 1000 }
def stopping : State := { ready with eng.state := .stopping }
def paused : State := { stopped with eng.state := .paused }
def halted : State := { linked with eng.state := .halted, intake.timer := none }
def holding : State := { linked with eng.hold := .pin }

def paper (width remaining : Nat) : Magazine :=
  { loaded := true, width := width, surface := .gloss, toneSet := 1, remaining := remaining, lot := 77, low := false
    present := true }

def image : ImageRec := { addr := 0x200000, stride := 4440, width := 1480, height := 1020, left := 20 }

/-- A print entry on 152 mm with this copy accounting. -/
def entry (copies t f g a : Nat) : Entry :=
  { product := 1, width := 152, length := 1020, image := image, density := 1, colourR := 254, colourG := 0, colourB := 3
    pattern := false, copies := copies, t := t, f := f, g := g, a := a, used := 0, jams := 0, unverified := false
    misrouted := false }

/-- An order of slot 5 in this state. -/
def order (st : OrderState) (es : List Entry) : Order :=
  { slot := 5, ticket := 7, rush := false, custClass := 0, takeSeq := 40, state := st, heldFrom := none, answered := 3
    entries := es, remakes := [], bins := [], unsettled := [], cancelled := false, faultMark := false, detached := false
    waitingSince := none, returnDue := false }

/-- The order stands in context 0 and is queued. -/
def withOrder (o : Order) (s : State) : State :=
  { s with plan.table := some o :: List.replicate 15 none, plan.queue := [0] }

def flags0 : Flags :=
  { sag := false, underrun := false, truncated := false, spoiled := false, unverified := false, miscut := false }

def gapAt (n : Word) (start : Word) (len : Nat) : MapEntry :=
  { number := n, piece := .gap, start := start, length := len, flags := flags0 }

/-- A GOOD frame of context 0, entry 0. -/
def frameAt (n : Word) (start : Word) (len : Nat) : MapEntry :=
  { number := n, start := start, length := len, flags := flags0
    piece := .frame { mag := .a, width := 152, toneSet := 1, order := 0, entry := 0, remake := false, clips := 0, ended := false
                      reject := false } }

def print (n : Word) (dest : Nat) (deadline : Word) : LaneItem :=
  { order := 0, entry := 0, number := n, reject := false, unverified := false, dest := dest, reached := false
    entryTime := deadline - 4000, deadline := deadline }

def item (n : Word) : FrameItem :=
  { number := n, order := 0, slot := 5, image := image, pattern := false, density := 1, colourR := 254, colourG := 0
    colourB := 3, paperElems := 1520, length := 1020, state := .fetching, served := 0 }

def lineRead (n : Word) (i : Nat) : LineRead :=
  { number := n, index := i, addr := 0x200000, discard := false, ended := none }

/-! ## The worked cases of chapter 5 -/

/-- 5.7.1. -/
theorem test_raw_pulse : rawPulse 2310 960 1061 12000 = 6574 := by decide +kernel

/-- 5.7.1: k = −1 of density +1 and colour −2. -/
theorem test_step_gain : stepGain 1 254 = 960 := by decide
/-- R85: the sum of two steps held at +8 is held at +12. -/
theorem test_step_gain_top : stepGain 127 8 = 1792 := by decide
theorem test_step_gain_bottom : stepGain 128 128 = 256 := by decide

/-- 5.7.4, first and fifth rows. -/
theorem test_ceiling : pulseCeiling stopped.setup = 12933 := by decide
theorem test_ceiling_dark :
    pulseCeiling { stopped.setup with params.divisor := 404 } = 5
      ∧ limitPulse 8 5 5 = (0, false) ∧ limitPulse 8 0 5 = (0, true) := by decide

/-- 5.7.1 and the rows of 5.7.2. -/
theorem test_limits :
    limitPulse 8 12933 6574 = (6574, false)
      ∧ limitPulse 8 12933 (rawPulse 4095 1792 1279 12000) = (12933, true)
      ∧ limitPulse 8 12933 (rawPulse 1 1024 1024 12000) = (0, false) ∧ rawPulse 1 1024 1024 12000 = 3
      ∧ rawPulse 2048 1024 1024 1 = 1 ∧ limitPulse 8 12933 1 = (0, false) ∧ limitPulse 1 12933 1 = (1, false)
      ∧ limitPulse 8 12933 (rawPulse 4095 1792 1279 0) = (0, false) := by decide +kernel

/-- R76: element 1,000 and line 800 of a 152 mm frame of 1,520 lines. -/
theorem test_pattern :
    patternValue { item 1 with length := 1520 } 800 1000 .blue = 170
      ∧ patternValue { item 1 with length := 1520 } 800 1000 .red = 0
      ∧ patternValue { item 1 with length := 1520 } 1140 1519 .green = 255 := by decide

/-- 5.7.3: elements 19 and 1,500 are border, element 1,000 takes pixel 980. -/
theorem test_image_value :
    imageValue { item 1 with image := { image with width := 2 } } [1, 2, 3, 180, 96, 40] 21 .green = 96
      ∧ imageValue { item 1 with image := { image with width := 2 } } [1, 2, 3, 180, 96, 40] 22 .red = 0
      ∧ imageValue { item 1 with image := { image with width := 2 } } [1, 2, 3, 180, 96, 40] 19 .red = 0 := by decide

/-! ## The worked cases of chapter 10 -/

def priced (discount rush tax fee : Nat) : Setup :=
  { stopped.setup with
    discounts := [discount, 0, 0, 0, 0, 0, 0, 0], rushSurcharge := rush, taxRate := tax, handlingFee := fee
    products := [
      { Product.reset with
        basePrice := 35, breakCount := 2
        breaks := [{ minimum := 50, price := 29 }, { minimum := 100, price := 25 }, Break.reset, Break.reset] },
      { Product.reset with basePrice := 120 },
      { Product.reset with basePrice := 99999 }] ++ List.replicate 29 Product.reset }

def sold (product copies g a : Nat) : Entry := { entry copies 0 0 g a with product := product }

def figures (p : Price) : List Nat := [p.subtotal, p.discount, p.rush, p.fee, p.net, p.tax, p.total, priceFlags p]

/-- 10.5.1. -/
theorem test_price_rush :
    figures (estimate (priced 500 2000 1900 150) { order .complete [sold 0 60 58 2, sold 1 4 4 0] with rush := true })
        = [2220, 111, 422, 150, 2681, 509, 3190, 0]
      ∧ figures (finalPrice (priced 500 2000 1900 150) { order .complete [sold 0 60 58 2, sold 1 4 4 0] with rush := true })
        = [2162, 108, 411, 150, 2615, 497, 3112, 1] := by decide +kernel

/-- 10.5.2. -/
theorem test_price_break_lost :
    figures (estimate (priced 0 2000 1900 150) (order .complete [sold 0 30 30 0, sold 0 20 19 1]))
        = [1450, 0, 0, 150, 1600, 304, 1904, 0]
      ∧ figures (finalPrice (priced 0 2000 1900 150) (order .complete [sold 0 30 30 0, sold 0 20 19 1]))
        = [1715, 0, 0, 150, 1865, 354, 2219, 1] := by decide +kernel

/-- 10.5.3. -/
theorem test_price_cancelled :
    figures (estimate (priced 500 2000 1900 150) (order .complete [sold 1 10 3 7])) = [1200, 60, 0, 150, 1290, 245, 1535, 0]
      ∧ figures (finalPrice (priced 500 2000 1900 150) { order .complete [sold 1 10 3 7] with cancelled := true })
        = [360, 18, 0, 150, 492, 93, 585, 3]
      ∧ figures (finalPrice (priced 500 2000 1900 150) { order .complete [sold 1 10 0 10] with cancelled := true })
        = [0, 0, 0, 0, 0, 0, 0, 3] := by decide +kernel

/-- 10.5.4, the RUSH order and the NORMAL one. -/
theorem test_price_saturated :
    figures (estimate (priced 5000 10000 5000 99999) { order .queued [sold 2 1500 0 0] with rush := true })
        = [99999999, 50000000, 49999999, 99999, 99999999, 50000000, 99999999, 4]
      ∧ figures (estimate (priced 5000 10000 5000 99999) (order .queued [sold 2 1500 0 0]))
        = [99999999, 50000000, 0, 99999, 50099998, 25049999, 75149997, 4] := by decide +kernel

/-! ## Steps of the worked sequences -/

/-- 8.7.1 before the mark: W at 559,886, the cursor at entry 50. -/
def beforeMark : State :=
  { ready with
    line.w := 559886, cut.cursor := some 50, cut.misses := 1
    web.map := [gapAt 49 499800 200, frameAt 50 500000 1520, gapAt 51 501520 200, frameAt 52 501720 1520] }

/-- 8.7.1: offset 0 to +6, misses 1 to 0, cursor 50 to 52, no cut yet. -/
theorem test_mark :
    (after .mark beforeMark).cut.offset = 6 ∧ (after .mark beforeMark).cut.misses = 0
      ∧ (after .mark beforeMark).cut.cursor = some 52 ∧ (after .mark beforeMark).cut.knife = .idle := by decide +kernel

/-- 8.7.1: the strobe that takes W to 560,006 fires for boundary 500,000; entry 49 leaves to waste. -/
theorem test_cut_fires :
    let t := after (.lineStrobe true true) { beforeMark with line.w := 560005, cut.offset := 6, cut.cursor := some 52 }
    t.cut.knife = .stroke ∧ t.web.map.head? = some (frameAt 50 500000 1520) ∧ t.web.waste = 200
      ∧ t.web.cutterPos = 500000 := by decide +kernel

/-- 8.7.3: a third miss enters mark-lost mode. -/
theorem test_third_miss :
    let s := closeWindow { beforeMark with line.w := 559896, cut.misses := 2 }
    s.cut.misses = 3 ∧ s.cut.markLost = true ∧ s.link.causes.attention = true ∧ s.cut.cursor = some 52 := by decide +kernel

/-- Bin 9 FILLING with 30 prints, its key read pressed twice before (9.9.3). -/
def keyHeld : State :=
  { running with
    sort.bins := Sorter.reset.bins.set 8
      { state := .filling, owner := some (7, 5), live := true, good := 30, misroutes := 0, disturbed := false }
    sort.keys := (List.replicate 16 { run := 0, latched := false }).set 9 { run := 2, latched := false } }

/-- 9.9.3: the third sample makes the event, and a fourth makes none. -/
theorem test_key_event :
    let t := after (.keyScanSample 0x0200) keyHeld
    (getBin t 9).state = .attention ∧ (getBin t 9).disturbed = true ∧ t.sort.keys[9]? = some { run := 0, latched := true }
      ∧ (getBin (after (.keyScanSample 0x0200) t) 9).state = .attention := by decide +kernel

/-- 9.9.2: P1 lost at 14,000, P2 and P3 stay; P1's own landing is then credited to P3. -/
def threePrints : State :=
  { ready with
    sort.clock := 13999, sort.rejectCount := 7
    sort.lane := [print 1 6 14000, { print 2 0 14300 with reject := true }, print 3 6 14600] }

theorem test_deadline :
    (after .sorterDeadline threePrints).sort.lane.map LaneItem.number = [2, 3]
      ∧ (after .sorterDeadline threePrints).sort.clock = 14000 := by decide +kernel

/-- 9.9.2, last row: with the lane empty a landing is a stray. -/
theorem test_stray :
    let t := after (.deliveryConfirmation 6) ready
    (getBin t 6).state = .attention ∧ (getBin t 6).misroutes = 1 ∧ t.link.causes.attention = true
      ∧ t.sort.misroutes = 0 := by decide +kernel

/-- 2.6.1: the notify trigger read as 20 is stored as 16, with one clamp in the parameters. -/
theorem test_clamp :
    let x := storeField (.param .notifyTrigger) 20 { State.reset.setup with state := .loading }
    x.params.notifyTrigger = 16 ∧ x.clampCount = 1 ∧ x.firstRefused = .parameters := by decide

/-- 2.6.1: breaks of 50 and 50 make product 7 unusable. -/
theorem test_breaks :
    structuralError { Product.reset with width := 152, length := 1020, breakCount := 2
                                         breaks := [⟨50, 29⟩, ⟨50, 25⟩, ⟨0, 0⟩, ⟨0, 0⟩] } = true
      ∧ structuralError { Product.reset with width := 152, length := 1020, breakCount := 1
                                             breaks := [⟨50, 29⟩, ⟨50, 25⟩, ⟨0, 0⟩, ⟨0, 0⟩] } = false := by decide

/-- 2.6.1: a revision word of 2 leaves the setup INVALID with HEADER. -/
theorem test_revision :
    let s := after (.setupReadComplete (some 2) false) { linked with setup.state := .loading, setup.cursor := some .revision }
    s.setup.state = .invalid ∧ s.setup.firstRefused = .header ∧ s.setup.cursor = none := by decide +kernel

/-- 7.7.1: CHANGE_DONE at W = 201,450 shortens the gap there and lays the splice to 201,850. -/
theorem test_splice :
    let s := laySplice { ready with line.w := 201450, web.nextNumber := 42
                                    web.map := [frameAt 40 200000 1020, gapAt 41 201020 600] }
    s.web.map.map (fun e => (e.number, e.start, e.length)) = [(40, 200000, 1020), (41, 201020, 430), (42, 201450, 400)]
      ∧ s.web.hold = some 201850 := by decide +kernel

/-- 7.7.1: with entry 40 still under the head the gap has length 0 and goes. -/
theorem test_splice_ahead :
    let s := laySplice { ready with line.w := 201000, web.nextNumber := 42
                                    web.map := [frameAt 40 200000 1020, gapAt 41 201020 200] }
    s.web.map.map (fun e => (e.number, e.start, e.length)) = [(40, 200000, 1020), (42, 201020, 400)]
      ∧ s.web.hold = some 201420 := by decide +kernel

/-- 7.7.2: waste grows by 306,460 − 280,000, the map is emptied and ATTENTION raised. -/
theorem test_jam_spoil :
    let t := after .jamSensorActive { ready with line.w := 306460, web.waste := 512000, web.spoils := 3
                                                 web.map := [gapAt 60 280000 20400, frameAt 62 301920 1520] }
    t.eng.state = .paused ∧ t.web.waste = 538460 ∧ t.web.spoils = 4 ∧ t.web.map = [] ∧ t.eng.record.kind = .jam
      ∧ t.eng.record.addr = 306460 ∧ t.link.causes.attention = true := by decide +kernel

/-- 6.8.2: an early strobe switches the element off and flags the frame. -/
theorem test_truncated :
    let s := truncateLine { ready with line.head := [⟨500, 0, 0⟩], line.lineFrame := some 31, web.map := [frameAt 31 900 1020] }
    s.line.head = [] ∧ s.web.map.map (fun e => e.flags.truncated) = [true] := by decide +kernel

/-- 6.8.1: the strobe at the frame's last position ends its exposure at the next one. -/
theorem test_exposure_end :
    endingFrame { ready with web.map := [frameAt 31 100200 1020, gapAt 32 101220 200] } 101220 = some 31
      ∧ endingFrame { ready with web.map := [frameAt 31 100200 1020, gapAt 32 101220 200] } 101219 = none := by decide +kernel

/-- 3.8.1: a RUSH order joins the queue ahead of a NORMAL one with an earlier take sequence number. -/
theorem test_queue :
    joinQueue (withOrder (order .queued [entry 3 3 0 0 0]) running) 1 true 41 [0] = [1, 0]
      ∧ joinQueue (withOrder (order .queued [entry 3 3 0 0 0]) running) 1 false 41 [0] = [0, 1] := by decide +kernel

/-- 3.8.1: U's first frame ends exposure flagged; the budget gives a remake and the order is ACTIVE again. -/
theorem test_remake :
    let s := withOrder { order .draining [entry 2 0 2 0 0] with unsettled := [7, 8] } ready
    let t := settleFrame (.bad false) 0 0 7 s
    (getOrder t 0).map Order.state = some .active ∧ (getOrder t 0).map Order.remakes = some [0]
      ∧ (getOrder t 0).map Order.unsettled = some [8]
      ∧ (getOrder t 0).map (fun o => o.entries.map (fun e => [e.t, e.f, e.g, e.a, e.used])) = some [[1, 1, 0, 0, 1]]
      ∧ t.plan.budgetRemakes = 1 ∧ settleFrame (.bad false) 0 0 7 t = t := by decide +kernel

/-- 3.8.3: a CANCEL with two frames in flight leaves the order CANCELLING, its two copies abandoned. -/
theorem test_cancel :
    let s := withOrder { order .active [entry 5 2 2 1 0] with remakes := [0], unsettled := [7, 8] } ready
    let t := after (.cancel 5 4) { s with
      intake.sweep := some { Sweep.begun with step := .two, requests := [⟨5, 3, 4⟩] } }
    (getOrder t 0).map Order.state = some .cancelling ∧ (getOrder t 0).map Order.answered = some 4
      ∧ (getOrder t 0).map (fun o => o.entries.map (fun e => [e.t, e.f, e.g, e.a])) = some [[0, 2, 1, 2]] := by decide +kernel

/-- 4.7.2: the strobe finds the buffer empty, counts the underrun and passes the line; the line's late arrival is
discarded. -/
theorem test_underrun :
    let s := { ready with fetch.items := [{ item 12 with served := 300 }], fetch.underruns := 57
                          fetch.reads := [lineRead 12 300, lineRead 12 301], fetch.cursor := some (12, 302) }
    let a := serve 12 300 s
    a.1 = .underrun ∧ a.2.fetch.underruns = 58
      ∧ (after (.lineReadComplete 0 (some [])) a.2).fetch.buffer = []
      ∧ (after (.lineReadComplete 0 (some [])) a.2).fetch.reads = [lineRead 12 301] := by decide +kernel

/-- R3: RUNNING after a pin reset with a valid setup, ATTENTION and two returns unreported. -/
theorem test_status_word :
    statusWord { running with eng.resetKind := .pin, link.causes.attention := true, link.unreported := 2 } = 0x00020229 := by
  decide +kernel

/-- R1: the 16 low-order bits of a base are ignored. -/
theorem test_area : (after (.areaWrite 0x12345678) State.reset).link.area = 0x12340000 := by decide +kernel
theorem test_area_zero : (after (.areaWrite 0xFFFF) stopped).link.areaSet = false := by decide +kernel


/-- R122, step 3: the 256th entry is a GAP of 400, also beside a trailing GAP; at 256 entries the trailing GAP grows. -/
theorem test_splice_full :
    let gaps (n : Nat) : State := { ready with line.w := 1000, web.map := List.replicate n (gapAt 4 800 200) }
    ((laySplice (gaps 255)).web.map.length = 256 ∧ (laySplice (gaps 255)).web.map.getLast? = some (gapAt 0 1000 400))
      ∧ ((laySplice (gaps 256)).web.map.length = 256
        ∧ (laySplice (gaps 256)).web.map.getLast? = some (gapAt 4 800 600)) := by decide +kernel

/-- R181, R129: a STOP with no FRAME and no SPLICE in the map is followed at once by the web clear report. -/
theorem test_stop_clear : (after .stop { ready with web.map := [gapAt 4 900 200] }).eng.state = .stopped := by decide +kernel

/-- R6: the jam still there at a RESUME takes the state through RUNNING back to PAUSED, and the host sees the write of it. -/
theorem test_resume_jam :
    let t := after (.resume true) { paused with intake.cellOwed := true, link.causes.fault := true, link.causes.attention := true }
    t.eng.state = .paused ∧ Output.write 0x100000 1 3 ∈ t.out := by decide +kernel

/-- R27: the copies of a product that a reload has made unusable are not started. -/
theorem test_unusable :
    let s := withOrder (order .active [entry 3 3 0 0 0])
      { running with paper.magA := paper 152 90000, setup.products := List.replicate 32 { Product.reset with isDefined := true } }
    chooseCopy s = none
      ∧ chooseCopy { s with
          setup.products := List.replicate 32 { Product.reset with isDefined := true, usable := true } } = some (0, 0) := by
  decide +kernel

/-! ## States that meet the hypotheses of the statements, a clause at a time -/

/-- Every engine state that takes events. -/
def liveStates : List State := [stopped, running, ready, stopping, paused]

theorem quiet_of {s : State} (waiting : s.link.waiting = []) (taken : s.intake.sweep.bind Sweep.taken = none) : Quiet s :=
  ⟨waiting, fun w h => by simpa [h] using taken⟩

theorem witness_StepRunsFrontCommand :
    ({ running with pending := [.nudge, .stop] } : State).pending = .nudge :: [.stop] := rfl

theorem witness_EmptyQueueTicks :
    stopped.pending = [] ∧ live stopped = true ∧ halted.pending = [] ∧ live halted = false ∧ live holding = false := by
  decide +kernel

/-- An entry result and the RETURNED token of slot 5 wait. -/
def twoWrites : State := { ready with link.waiting := [⟨5, 0x900, 2, 1⟩, ⟨5, 0, 4, 3⟩] }

theorem witness_SlotWritesMergeAndGoOutInOrder :
    (∀ x ∈ twoWrites.link.waiting, x.slot = 6 → x.offset ≠ 0x900 ∧ x.offset ≠ 0)
      ∧ twoWrites.link.waiting = [] ++ (⟨5, 0x900, 2, 1⟩ : SlotWrite) :: [⟨5, 0, 4, 3⟩]
      ∧ twoWrites.link.waiting = [⟨5, 0x900, 2, 1⟩] ++ (⟨5, 0, 4, 3⟩ : SlotWrite) :: []
      ∧ (∀ y ∈ ([⟨5, 0x900, 2, 1⟩] : List SlotWrite), y.slot = 5 → y.offset ≠ 0x902 ∧ y.offset ≠ 0)
      ∧ (∀ x ∈ ({ ready with link.waiting := [⟨5, 0x900, 2, 1⟩] } : State).link.waiting, x.offset ≠ 0)
      ∧ ready.intake.sweep = none ∧ ready.link.waiting = [] := by decide +kernel

theorem witness_ChangedFieldsAreWritten :
    (ready.link.areaSet = true ∧ live ready = true) ∧ State.reset.link.areaSet = false ∧ live halted = false := by
  decide +kernel

theorem witness_SoftResetValues : (∀ s ∈ State.reset :: liveStates, live s = true) := by decide +kernel

theorem witness_NotLiveTakesNothing :
    (∀ s ∈ [halted, holding], live s = false)
      ∧ ∀ c ∈ [Instr.mark, .softReset, .presentSensorInactive .a, .presentSensorActive .b, .webReadyRise, .webReadyFall,
          .knifeHomeSensor false, .jamSensorActive],
        c ≠ .statusRead ∧ (∀ stable, c ≠ .powerOnReset stable) ∧ c ≠ .pinReset ∧ c ≠ .resetLineAsserted := by decide +kernel

theorem witness_StatusBlockWriteErrorHalts : ∀ s ∈ liveStates, live s = true := by decide +kernel

theorem witness_StatusReadReturnsWordAndClears :
    live running = true ∧ (halted.eng.state = .halted ∧ halted.eng.hold = .released) ∧ holding.eng.hold ≠ .released
      ∧ ({ running with link.unreported := 64 } : State).link.unreported ≤ 64 := by decide +kernel

theorem witness_AreaWriteTaken :
    (∀ s ∈ [State.reset, stopped], live s = true ∧ s.eng.state = .stopped ∧ s.setup.state ≠ .loading
        ∧ ∀ c ∈ s.plan.table, c = none)
      ∧ ((0xFFFF : BitVec 64) >>> 16) <<< 16 = 0 ∧ ((0x10000 : BitVec 64) >>> 16) <<< 16 ≠ 0 := by decide +kernel

def loading : State := { linked with setup.state := .loading, setup.cursor := some .revision }
def oneOrder (st : OrderState) (s : State) : State := withOrder (order st [entry 5 2 2 1 0]) s

theorem witness_RefusedWritesOnlySetRefused :
    (∀ s ∈ [linked, loading, running, stopping, paused, State.reset, oneOrder .queued stopped], live s = true)
      ∧ running.eng.state ≠ .stopped ∧ loading.setup.state = .loading
      ∧ (∃ c ∈ (oneOrder .queued stopped).plan.table, c ≠ none)
      ∧ linked.setup.state ≠ .valid ∧ State.reset.link.areaSet = false
      ∧ linked.eng.state = .stopped ∧ stopping.eng.state = .stopping
      ∧ (paused.eng.state ≠ .running ∧ paused.eng.state ≠ .stopping) := by decide +kernel

theorem witness_GoTaken :
    (∀ s ∈ [stopped, { stopped with line.webReady := true }],
        live s = true ∧ s.eng.state = .stopped ∧ s.setup.state = .valid ∧ s.link.areaSet = true)
      ∧ stopped.line.webReady = false ∧ ({ stopped with line.webReady := true } : State).line.webReady = true := by
  decide +kernel

def stoppingClear : State := { stopping with web.map := [gapAt 4 900 200] }
def stoppingFrame : State := { stopping with web.map := [gapAt 4 700 200, frameAt 5 900 1020] }

theorem witness_StopAndWebClear :
    (∀ s ∈ [running, paused, stoppingClear, stoppingFrame, ready], live s = true)
      ∧ running.eng.state = .running ∧ paused.eng.state = .paused ∧ (∀ e ∈ running.web.map, e.piece = .gap)
      ∧ (∃ e ∈ ({ stoppingFrame with eng.state := .running } : State).web.map, e.piece ≠ .gap)
      ∧ (stoppingClear.eng.state = .stopping ∧ ∀ e ∈ stoppingClear.web.map, e.piece = .gap)
      ∧ (∃ e ∈ stoppingFrame.web.map, e.piece ≠ .gap) ∧ ready.eng.state ≠ .stopping := by decide +kernel

theorem witness_LoadSetupAndNudgeTaken :
    (live linked = true ∧ linked.eng.state = .stopped ∧ linked.link.areaSet = true ∧ linked.setup.state ≠ .loading)
      ∧ (live running = true ∧ running.eng.state = .running) ∧ live stopping = true ∧ stopping.eng.state = .stopping := by
  decide +kernel

theorem witness_FaultsRecordedAndStoppagesPause :
    running.link.causes.fault = false ∧ ({ running with link.causes.fault := true } : State).link.causes.fault = true
      ∧ moving running = true ∧ moving stoppingFrame = true ∧ stopped.eng.state = .stopped ∧ paused.eng.state = .paused
      ∧ halted.eng.state = .halted := by decide +kernel

def sweeping (st : SweepStep) (s : State) : State := { s with intake.sweep := some { Sweep.begun with step := st } }

theorem witness_TimerExpiries :
    (∀ s ∈ [State.reset, stopped, paused, running, sweeping .one running, { stopped with intake.sweep := some Sweep.begun }],
        live s = true)
      ∧ (moving running = true ∧ running.intake.timer ≠ none)
      ∧ (moving stopped = false ∧ State.reset.intake.timer = none ∧ State.reset.link.areaSet = false)
      ∧ (stopped.eng.state = .stopped ∧ stopped.link.areaSet = true ∧ stopped.intake.timer ≠ none)
      ∧ (paused.eng.state = .paused ∧ paused.link.areaSet = true ∧ paused.intake.timer ≠ none)
      ∧ (({ running with link.idleTimer := some 0, link.unreported := 1 } : State).link.idleTimer ≠ none
          ∧ 0 < ({ running with link.idleTimer := some 0, link.unreported := 1 } : State).link.unreported)
      ∧ ({ running with link.idleTimer := some 9 } : State).link.unreported = 0 ∧ running.link.idleTimer = none := by
  decide +kernel

/-- A sweep in step 4 with a take whose reads are out, and another candidate. -/
def takingSweep : Sweep := { Sweep.begun with step := .four, taking := some 9, candidates := [11] }
def takingState : State := { running with intake.sweep := some takingSweep }

theorem witness_SweepStepsFollowInOrder :
    (∀ s ∈ [running, sweeping .one running, sweeping .two running, sweeping .three running, sweeping .four running,
        sweeping .five running, takingState, { sweeping .five running with intake.cellRead := true }], live s = true)
      ∧ running.intake.sweep = none
      ∧ (∀ st ∈ [SweepStep.one, .two, .three, .four, .five],
          (sweeping st running).intake.sweep = some { Sweep.begun with step := st }
            ∧ ({ Sweep.begun with step := st } : Sweep).taking = none ∧ ({ Sweep.begun with step := st } : Sweep).taken = none)
      ∧ (takingState.intake.sweep = some takingSweep ∧ takingSweep.step = .four ∧ takingSweep.taking ≠ none)
      ∧ ((sweeping .five running).intake.cellRead = false ∧ (sweeping .five running).intake.cellOwed = false)
      ∧ ({ sweeping .five running with intake.cellOwed := true } : State).intake.cellOwed = true
      ∧ ((List.replicate 64 slotRead).length = 64 ∧ running.link.areaSet = true ∧ running.setup.state ≠ .loading)
      ∧ ((List.replicate 64 slotRead)[5]? = some slotRead ∧ slotRead.token = some 1 ∧ slotRead.ticket ≠ none
        ∧ holdsSlot (sweeping .one running) 5 = false ∧ holdsSlot (oneOrder .active (sweeping .one running)) 5 = true) := by
  decide +kernel

def lostScan : SlotScan := { slot := 63, held := false, token := 2, header := none }
def lostSweep : Sweep := { Sweep.begun with step := .two, scans := [lostScan] }
def lostState : State := { running with intake.sweep := some lostSweep }

/-- A sweep at the end of step 3 that has read slot 9 POSTED; barred, the engine has left RUNNING since it began. -/
def foundSweep (barred : Bool) : Sweep :=
  { Sweep.begun with step := .three, scans := [⟨9, false, 1, some (false, 7)⟩], barred := barred }
def foundState (barred : Bool) (s : State) : State := { s with intake.sweep := some (foundSweep barred) }

theorem witness_CandidatesOrderedAndLostSlotsReturned :
    (([⟨0, false, 1, some (true, 7)⟩, ⟨63, false, 1, some (false, 6)⟩] : List SlotScan).map SlotScan.slot).Nodup
      ∧ (live lostState = true ∧ lostState.link.areaSet = true ∧ Quiet lostState ∧ lostState.intake.sweep = some lostSweep
        ∧ lostSweep.step = .two ∧ lostSweep.requests = [] ∧ lostState.intake.lostPending = true ∧ lostScan ∈ lostSweep.scans
        ∧ lostScan.token = 2 ∧ lostScan.held = false ∧ orderOfSlot lostState lostScan.slot = none)
      ∧ (∀ barred, live (foundState barred running) = true ∧ Quiet (foundState barred running)
        ∧ (foundState barred running).intake.sweep = some (foundSweep barred) ∧ (foundSweep barred).step = .three
        ∧ (foundState barred running).eng.state = .running ∧ (foundSweep barred).barred = barred) :=
  ⟨by decide, ⟨by decide +kernel, rfl, quiet_of rfl rfl, rfl, rfl, rfl, rfl, by decide, rfl, rfl, by decide +kernel⟩,
    fun _ => ⟨rfl, quiet_of rfl rfl, rfl, rfl, rfl, rfl⟩⟩

/-- Slot 5 read EMPTY by step 1, the order of it in context 0. -/
def emptyScan : SlotScan := { slot := 5, held := true, token := 0, header := none }
def emptySweep : Sweep := { Sweep.begun with step := .two, scans := [emptyScan, lostScan] }
def emptied (st : OrderState) : State := { oneOrder st running with intake.sweep := some emptySweep }

theorem witness_CandidatesOrderedAndLostSlotsReturned_detached :
    ∀ st : OrderState, live (emptied st) = true ∧ Quiet (emptied st) ∧ (emptied st).intake.sweep = some emptySweep
      ∧ emptySweep.step = .two ∧ emptySweep.requests = [] ∧ (emptySweep.scans.map SlotScan.slot).Nodup
      ∧ (∀ x ∈ emptySweep.scans, x.slot < 64) ∧ emptyScan ∈ emptySweep.scans ∧ emptyScan.token ≠ 2
      ∧ orderOfSlot (emptied st) emptyScan.slot = some 0 ∧ getOrder (emptied st) 0 = some (order st [entry 5 2 2 1 0])
      ∧ (order st [entry 5 2 2 1 0]).detached = false :=
  fun _ => ⟨rfl, quiet_of rfl rfl, rfl, rfl, rfl, by decide, by decide, by decide, by decide, rfl, rfl, rfl⟩

/-- R9 step 3, R18, R48: the order of a slot taken back is detached and cancelled, or freed from COMPLETE; nothing goes to the
slot. -/
theorem test_detached :
    let t := after (.sweepStepComplete [] none) (emptied .active)
    t.intake.detached = 1
      ∧ (getOrder t 0).map (fun o => (o.detached, o.state, o.entries.map Entry.a)) = some (true, .cancelling, [2])
      ∧ getOrder (after (.sweepStepComplete [] none) (emptied .complete)) 0 = none ∧ t.link.waiting = []
      ∧ t.out.all (fun x => match x with
        | .write a _ _ => a.toNat < (jobAddr t 0x15000).toNat || (jobAddr t 0x16000).toNat ≤ a.toNat
        | _ => false) = true := by decide +kernel

/-- R9, R186: the failed token read of slot 2 is recorded, and the failed request field of slot 5 behind it counted. -/
theorem test_read_faults :
    let s := { oneOrder .active running with intake.sweep := some Sweep.begun }
    let good : SlotRead := { token := some 2, ticket := none, classByte := none, request := some (0, 3) }
    let reads := ((List.replicate 64 good).set 2 { good with token := none }).set 5 { good with request := none }
    let t := after (.sweepStepComplete reads none) s
    t.eng.record = { kind := .slotRead, slot := 2, addr := jobAddr s 0x12000 } ∧ t.eng.overflow = 1 := by decide +kernel

/-- R10, R181, R183: the engine leaves RUNNING in step 3 and is RUNNING again before step 4; that sweep takes nothing, and
without the stop it takes slot 9. -/
theorem test_barred :
    let taking (s : State) : Option Nat := (after (.sweepStepComplete [] none) s).intake.sweep.bind Sweep.taking
    (after .stop (foundState false running)).intake.sweep = some (foundSweep true)
      ∧ (stoppage .jam (foundState false running)).intake.sweep = some (foundSweep true)
      ∧ taking (foundState true running) = none ∧ taking (foundState false running) = some 9 := by decide +kernel

/-- R9: the answer that step 2 still owes goes out before step 3 begins, whatever room there is. -/
theorem test_step_two :
    let s := { oneOrder .active running with
      intake.sweep := some { Sweep.begun with step := .two, requests := [⟨5, 2, 4⟩], scans := [lostScan] } }
    let t := after (.sweepStepComplete [] (some 0)) s
    t.out = [.write (jobAddr s 0x15014) 1 4, .write (jobAddr s 0x15015) 1 3]
      ∧ t.link.waiting = [⟨63, 0x020, 1, 6⟩, ⟨63, 0, 4, 3⟩] := by decide +kernel


/-- The request in slot 5 with this code and number 4 has been read in step 1, and step 2 is at it. -/
def asking (code : Byte) (s : State) : State :=
  { s with intake.sweep := some { Sweep.begun with step := .two, requests := [⟨5, code, 4⟩] } }

theorem witness_SlotRequestsAnswered :
    (∀ st ∈ [OrderState.queued, .waitPaper, .active, .held, .cancelling, .draining, .complete], ∀ code ∈ ([0, 1, 2, 3, 255] : List Byte),
        live (asking code (oneOrder st running)) = true ∧ (asking code (oneOrder st running)).link.areaSet = true
          ∧ (asking code (oneOrder st running)).link.waiting = []
          ∧ (asking code (oneOrder st running)).intake.sweep
            = some { Sweep.begun with step := .two, requests := [⟨(5 : Fin 64).val, code, 4⟩] }
          ∧ orderOfSlot (asking code (oneOrder st running)) (5 : Fin 64) = some 0
          ∧ getOrder (asking code (oneOrder st running)) 0 = some (order st [entry 5 2 2 1 0]))
      ∧ ∀ st ∈ [OrderState.queued, .waitPaper, .active, .held, .cancelling, .draining, .complete],
          (order st [entry 5 2 2 1 0]).detached = false ∧ (order st [entry 5 2 2 1 0]).answered = 3
            ∧ (order st [entry 5 2 2 1 0]).state = st ∧ (order st [entry 5 2 2 1 0]).returnDue = false := by decide +kernel

theorem witness_SlotRequestsAnswered_cases :
    (orderOfSlot running (5 : Fin 64) = none ∧ running.intake.sweep = none)
      ∧ (loading.setup.state = .loading ∧ running.setup.state ≠ .loading ∧ inFlight (order .active [entry 5 2 2 1 0]) ≠ 0)
      ∧ (getOrder (withOrder { order .cancelling [] with detached := true } running) 0).map Order.detached = some true
      ∧ (∀ h ∈ [OrderState.queued, .waitPaper, .active],
          ({ order .held [entry 5 2 2 1 0] with heldFrom := some h } : Order).heldFrom = some h
            ∧ (h = .queued ∨ h = .waitPaper ∨ h = .active)) := by decide +kernel

/-- Product 1 is 152 mm, 1,020 steps and usable; window 0 is 1 MiB from 2 MiB. -/
def shop : State :=
  { running with
    setup.products := Product.reset ::
      { Product.reset with isDefined := true, usable := true, width := 152, length := 1020, basePrice := 35 }
        :: List.replicate 30 Product.reset
    setup.windows := { base := 0x200000, length := 0x600000, enable := true } :: List.replicate 3 Window.reset
    paper.magA := paper 152 90000, paper.magB := paper 102 90000 }

def rawEntry (product copies flags : Byte) (im : ImageRec) : RawEntry :=
  { product := product, copies := copies, density := 0, colourR := 0, colourG := 0, colourB := 0, flags := flags, image := im }

def takeOf (es : List RawEntry) : TakeData :=
  { ticket := 7, classByte := 1, custByte := 9, count := BitVec.ofNat 8 es.length, reqNumber := 3, entries := es }

/-- The image of 1,020 lines of 4,440 bytes fits the window from its base, and not from one byte before it. -/
theorem witness_RefuseCodeOfFirstFailingCheck :
    validate shop.setup (takeOf []) = some .badCount
      ∧ validate shop.setup (takeOf [rawEntry 1 100 1 image]) = some .badCount
      ∧ validate shop.setup (takeOf (List.replicate 16 (rawEntry 1 94 1 image))) = some .tooLarge
      ∧ validate shop.setup (takeOf [rawEntry 0 1 1 image]) = some .badProduct
      ∧ validate shop.setup (takeOf [rawEntry 32 1 1 image]) = some .badProduct
      ∧ validate shop.setup (takeOf [rawEntry 1 1 0 { image with height := 1019 }]) = some .badImage
      ∧ validate shop.setup (takeOf [rawEntry 1 1 0 { image with addr := 0x1FFFFF }]) = some .badImage
      ∧ validate shop.setup (takeOf [rawEntry 1 1 1 { image with addr := 0x1FFFFF }]) = none
      ∧ validate shop.setup (takeOf (rawEntry 1 15 1 image :: List.replicate 15 (rawEntry 1 99 1 image))) = none := by
  decide +kernel

def takingShop : State := { shop with intake.sweep := some takingSweep }
/-- All sixteen contexts are in use. -/
def fullTable : State :=
  { takingShop with
    plan.table := (List.range 16).map (fun i => some { order .queued [entry 1 1 0 0 0] with slot := 16 + i }) }

theorem witness_TakesRefusedAdmittedOrSkipped :
    (live running = true ∧ running.intake.sweep = none)
      ∧ (live takingShop = true ∧ takingShop.link.areaSet = true ∧ Quiet takingShop
        ∧ takingShop.intake.sweep = some takingSweep ∧ takingSweep.taking = some 9)
      ∧ validate takingShop.setup (takeOf []) = some .badCount
      ∧ (validate takingShop.setup (takeOf [rawEntry 1 5 1 image]) = none ∧ freeContext takingShop = some 0
        ∧ orderOfSlot takingShop 9 = none)
      ∧ takingSweep.candidates = 11 :: [] ∧ ({ takingSweep with candidates := [] } : Sweep).candidates = []
      ∧ (takingShop.eng.state = .running ∧ none ∈ takingShop.plan.table)
      ∧ (({ takingShop with eng.state := .stopping } : State).eng.state ≠ .running ∧ none ∉ fullTable.plan.table) :=
  ⟨by decide +kernel, ⟨by decide +kernel, rfl, quiet_of rfl rfl, rfl, rfl⟩, by decide +kernel, by decide +kernel, rfl, rfl,
    by decide +kernel, by decide +kernel⟩

/-- The take of slot 5 is past its TAKEN write. -/
def takenState : State := { running with intake.sweep := some { Sweep.begun with step := .four, taken := some (5, takeOf []) } }

theorem witness_SlotWriteFaultDetaches :
    (live running = true ∧ orderOfSlot running (5 : Fin 64) = none ∧ running.intake.sweep = none)
      ∧ (live takenState = true ∧ orderOfSlot takenState (5 : Fin 64) = none
        ∧ takenState.intake.sweep.bind Sweep.taken = some ((5 : Fin 64).val, takeOf []))
      ∧ (∀ st ∈ [OrderState.active, .cancelling, .complete],
          let s : State := { oneOrder st running with link.waiting := [⟨5, 0x900, 2, 1⟩, ⟨6, 0x022, 1, 2⟩] }
          live s = true ∧ orderOfSlot s (5 : Fin 64) = some 0 ∧ getOrder s 0 = some (order st [entry 5 2 2 1 0])
            ∧ (order st [entry 5 2 2 1 0]).detached = false ∧ (order st [entry 5 2 2 1 0]).state = st
            ∧ s.intake.sweep = none ∧ s.link.area.toNat + 0x50000 ≤ 2 ^ 64
            ∧ ∀ x ∈ s.link.waiting, x.slot < 64 ∧ x.offset < 0x1000)
      ∧ ({ order .cancelling [] with detached := true } : Order).detached = true
      ∧ ((order .queued [entry 5 5 0 0 0]).bins = [] ∧ (order .queued [entry 5 5 0 0 0]).unsettled = []
        ∧ ({ order .active [] with bins := [3] } : Order).bins ≠ [] ∧ (0x022 : BitVec 12) ≠ 0)
      ∧ (inFlight (order .queued [entry 5 5 0 0 0]) = 0 ∧ 0 < inFlight (order .active [entry 5 2 2 1 0])) := by decide +kernel

/-- A COMPLETE order with a request that step 2 has not reached, and two returns already counted of a trigger of 4. -/
def returning : State :=
  { withOrder (order .complete [entry 5 0 0 4 1]) running with
    link.unreported := 3
    intake.sweep := some { Sweep.begun with step := .two, requests := [⟨5, 3, 4⟩] } }

theorem witness_SlotReturnWritesPriceOutcomeToken :
    (live returning = true ∧ orderOfSlot returning (5 : Fin 64) = some 0
        ∧ getOrder returning 0 = some (order .complete [entry 5 0 0 4 1])
        ∧ (order .complete [entry 5 0 0 4 1]).detached = false ∧ returning.setup.state ≠ .loading
        ∧ returning.link.areaSet = true ∧ Quiet returning
        ∧ returning.setup.params.notifyTrigger ≤ min (returning.link.unreported + 1) 64)
      ∧ orderOfSlot running (5 : Fin 64) = none ∧ loading.setup.state = .loading ∧ returnWaiting twoWrites (5 : Fin 64) = true
      ∧ (order .draining [entry 5 0 1 4 0]).state ≠ .complete :=
  ⟨⟨by decide +kernel, by decide +kernel, rfl, rfl, by decide, rfl, quiet_of rfl rfl, by decide⟩, by decide +kernel,
    by decide, by decide +kernel, by decide⟩

/-- A return of slot 5 waits for the load that stands at this field, after the last results of its slot. -/
def dueReturn (f : SetupField) : State :=
  { withOrder { order .complete [entry 5 0 0 4 1] with returnDue := true } loading with
    setup.cursor := some f, link.waiting := [⟨5, 0x904, 2, 0⟩, ⟨5, 0x022, 1, 6⟩] }

theorem witness_SlotReturnWritesPriceOutcomeToken_afterLoad :
    (∀ f ∈ [SetupField.revision, .uniformity 9215, .tone 5],
      let s := dueReturn f
      let o : Order := { order .complete [entry 5 0 0 4 1] with returnDue := true }
      live s = true ∧ s.link.areaSet = true ∧ s.setup.cursor = some f ∧ orderOfSlot s o.slot = some 0 ∧ getOrder s 0 = some o
        ∧ o.state = .complete ∧ o.detached = false ∧ o.returnDue = true
        ∧ (∀ j ∈ List.range 16, j ≠ 0 → getOrder s j = none) ∧ s.intake.sweep = none
        ∧ (∀ x ∈ s.link.waiting, x.slot = o.slot →
            x.offset ≠ 0 ∧ x.offset ≠ 0x020 ∧ ¬(0x060 ≤ x.offset ∧ x.offset < 0x080)))
      ∧ (2 : BitVec 64).toNat % 2 ^ 32 ≠ 1
      ∧ (oneOrder .complete loading).setup.state = .loading ∧ returnWaiting (oneOrder .complete loading) (5 : Fin 64) = false := by
  decide +kernel

def cellOut (s : State) : State := { s with intake.cellRead := true }

theorem witness_CellReadAndRefusals :
    (live (cellOut stopped) = true ∧ (cellOut stopped).intake.cellRead = true ∧ (2 : Word) ≠ 1)
      ∧ (live stopped = true ∧ stopped.intake.cellRead = false ∧ stopped.intake.cellOwed = false ∧ stopped.link.areaSet = true)
      ∧ ({ stopped with intake.cellOwed := true } : State).intake.cellOwed = true
      ∧ (live State.reset = true ∧ State.reset.link.areaSet = false)
      ∧ (1 < (2 : Byte).toNat ∧ (1 : Byte).toNat ≤ 1)
      ∧ (stopped.paper.magA.present = false ∧ stopped.paper.magB.present = false)
      ∧ (shop.paper.magA.present = true ∧ shop.paper.magB.present = true)
      ∧ (moving shop = true ∧ shop.paper.active = .a ∧ ({ shop with paper.active := .b } : State).paper.active = .b)
      ∧ (¬(150 : Half).toNat ∈ [89, 102, 127, 152, 203, 254, 305] ∧ 3 < (4 : Byte).toNat)
      ∧ stopped.eng.state ≠ .paused ∧ stopped.eng.state ≠ .running ∧ 15 < (16 : Byte).toNat := by decide +kernel

def shopPaused : State := { shop with eng.state := .paused, line.web := .idle, intake.cellOwed := true }

theorem witness_CellRequestsDone :
    (live shopPaused = true ∧ shopPaused.link.areaSet = true ∧ shopPaused.intake.cellOwed = true)
      ∧ ((152 : Half).toNat ∈ [89, 102, 127, 152, 203, 254, 305] ∧ (3 : Byte).toNat ≤ 3)
      ∧ (shopPaused.paper.magA.present = true ∧ shopPaused.paper.active = .a ∧ moving shopPaused = false)
      ∧ (shop.paper.magB.present = true ∧ shop.paper.active ≠ .b)
      ∧ (({ shopPaused with paper.active := .b } : State).paper.active = .b)
      ∧ (shopPaused.eng.state = .paused ∧ shopPaused.line.webReady = false
        ∧ ({ shopPaused with line.webReady := true } : State).line.webReady = true)
      ∧ (live shop = true ∧ shop.link.areaSet = true ∧ shop.eng.state = .running) ∧ (15 : Byte).toNat ≤ 15 := by
  decide +kernel

def loadingAt (f : SetupField) : State := { loading with setup.cursor := some f }

theorem witness_SetupReadsStoredInOrder :
    (live stopped = true ∧ stopped.setup.cursor = none)
      ∧ (live loading = true ∧ loading.setup.cursor = some .revision ∧ loading.link.areaSet = true)
      ∧ ((0x100000001 : BitVec 64).toNat % 2 ^ 32 = 1 ∧ (2 : BitVec 64).toNat % 2 ^ 32 ≠ 1)
      ∧ (∀ f ∈ [SetupField.param .changeTimeout, .windowEnable 3, .discount 7, .fullScale .blue, .productPrice 31,
          .breakPrice 31 3, .tone 3071, .uniformity 9215],
          live (loadingAt f) = true ∧ (loadingAt f).setup.cursor = some f ∧ f ≠ .revision ∧ f.inArea = true
            ∧ (loadingAt f).link.areaSet = true)
      ∧ (loading.setup.state = .loading ∧ ∀ c ∈ shop.plan.table, c = none)
      ∧ nextField (.uniformity 9215) loading.setup = none ∧ nextField (.uniformity 9214) loading.setup ≠ none := by
  decide +kernel

theorem witness_ClampsAndUsableFlags : 31 < shop.setup.products.length := by decide +kernel

theorem witness_PresentSensorClearsRecord : live shop = true ∧ live stopped = true
    ∧ (∀ st ∈ [OrderState.queued, .waitPaper], getOrder (oneOrder st stopped) 0 = some (order st [entry 5 2 2 1 0])
      ∧ getOrder (oneOrder st shop) 0 = some (order st [entry 5 2 2 1 0]))
    ∧ stopped.paper.magA.loaded = false ∧ stopped.paper.magB.loaded = false
    ∧ (shop.paper.magA.loaded = true ∧ shop.paper.magA.width = (entry 5 2 2 1 0).width) := by decide +kernel

/-- R44, R20: with its paper gone a QUEUED order becomes WAIT_PAPER, and its mirror waits to be written. -/
theorem test_wait_paper :
    let t := evalWait (oneOrder .queued stopped)
    (getOrder t 0).map Order.state = some .waitPaper ∧ t.link.waiting = [⟨5, 0x022, 1, 1⟩] ∧ t.link.causes.attention = true := by
  decide +kernel

def changing : State := { shop with paper.target := some .b, paper.timer := some 60000 }

theorem witness_ChangeoverRequestedDoneOrExpired :
    (shop.paper.target = none ∧ moving shop = true ∧ shop.paper.magB.loaded = true ∧ shop.paper.active = .a)
      ∧ (changing.paper.target ≠ none ∧ moving stopped = false ∧ running.paper.magB.loaded = false)
      ∧ (live shop = true ∧ live changing = true ∧ changing.paper.target = some .b)
      ∧ shop.web.map = []
      ∧ (∀ x ∈ [((1220 : Word), (0 : Int)), (1219, 1), (1221, -1)],
          signedDiff ((frameAt 40 200 1020).start + BitVec.ofNat 32 (frameAt 40 200 1020).length) x.1 = x.2)
      ∧ (splicePos { ready with line.w := 1219, web.map := [frameAt 40 200 1020] } = 1220
        ∧ splicePos { ready with line.w := 1221, web.map := [frameAt 40 200 1020] } = 1221
        ∧ (frameAt 40 200 1020).piece ≠ .gap ∧ (gapAt 41 1220 200).piece = .gap)
      ∧ splicePos { ready with line.w := 1421, web.map := [frameAt 40 200 1020, gapAt 41 1220 200] } = 1421
      ∧ splicePos { ready with line.w := 1420, web.map := [frameAt 40 200 1020, gapAt 41 1220 200] } = 1420
      ∧ splicePos { ready with line.w := 1419, web.map := [frameAt 40 200 1020, gapAt 41 1220 200] } = 1419
      ∧ splicePos { ready with line.w := 1220, web.map := [frameAt 40 200 1020, gapAt 41 1220 200] } = 1220
      ∧ splicePos { ready with line.w := 1219, web.map := [frameAt 40 200 1020, gapAt 41 1220 200] } = 1220 := by decide +kernel

def moved (m : Magazine) (s : State) : State := { s with paper.magA := m }

theorem witness_StrobeAdvancesWebAndPaper :
    (∀ s ∈ [stopped, running, ready, shop, paused], live s = true)
      ∧ (stopped.line.web = .idle ∧ moving stopped = false ∧ (activeMag stopped).loaded = false)
      ∧ (activeMag (moved (paper 152 0) stopped)).remaining = 0
      ∧ (stopped.paper.active = .a ∧ (paper 152 1).loaded = true ∧ 0 < (paper 152 1).remaining
        ∧ (moved (paper 152 1) stopped).paper.magA = paper 152 1)
      ∧ ({ shopPaused with paper.active := .b } : State).paper.magB = paper 102 90000
      ∧ ({ shopPaused with paper.active := .b } : State).line.web = .idle := by decide +kernel

/-- The web map with the head, at W = 1,000, in a GAP, in a FRAME, or past the map's end. -/
def headIn (entries : List MapEntry) : State := { ready with web.map := entries }

theorem witness_StrobeHandledByWebState :
    stopped.line.web = .idle ∧ running.line.web = .ramping
      ∧ (running.line.breakCount + 1 ≠ 50 ∧ ({ running with line.breakCount := 49 } : State).line.breakCount + 1 = 50)
      ∧ (∀ s ∈ [headIn [], headIn [gapAt 4 900 200], headIn [gapAt 4 800 200, frameAt 5 1000 1020]],
          s.line.web = .ready ∧ (∀ x ∈ s.line.head, x = { red := 0, green := 0, blue := 0 }) ∧ endingFrame s s.line.w = none)
      ∧ entryAt (headIn []) 1000 = none
      ∧ entryAt (headIn [gapAt 4 900 200]) 1000 = some (gapAt 4 900 200)
      ∧ entryAt (headIn [gapAt 4 800 200, frameAt 5 1000 1020]) 1000 = some (frameAt 5 1000 1020) := by decide +kernel

/-- The last line of FRAME 12 is still lit as the strobe comes at W = 1,000; the next entries stand behind it. -/
def lastLine (entries : List MapEntry) : State :=
  { headIn (frameAt 12 800 200 :: entries) with
    line.head := [⟨0, 0, 1⟩], line.lineFrame := some 12, fetch.items := [item 12, item 13], fetch.cursor := some (12, 7) }

theorem witness_StrobeHandledByWebState_ended :
    (∀ entries ∈ [[], [gapAt 4 1000 200], [frameAt 13 1000 1020]],
        (lastLine entries).line.web = .ready
          ∧ (∃ x ∈ (lastLine entries).line.head, x ≠ { red := 0, green := 0, blue := 0 })
          ∧ (entryAt (truncateLine (lastLine entries)) 999).map MapEntry.number = some 12
          ∧ entryAt (truncateLine (lastLine entries)) 1000 = entries.head?)
      ∧ (frameAt 12 800 200).start + BitVec.ofNat 32 (frameAt 12 800 200).length = 1000 := by decide +kernel

/-- R104, R102, R68, R69: the strobe that ends a FRAME's last line while it is lit marks the frame TRUNCATED, exposure ended
and REJECT, and takes its item out of the frame list, the cursor going to line 0 of the next. -/
theorem test_last_line :
    let t := lineTiming true (lastLine [gapAt 4 1000 200])
    t.line.head = [] ∧ t.line.lineFrame = none ∧ t.fetch.items = [item 13] ∧ t.fetch.cursor = some (13, 0)
      ∧ t.web.map.head?.map (fun e => e.flags.truncated) = some true
      ∧ (t.web.map.head?.map MapEntry.piece).map (fun x => match x with
        | .frame f => f.ended && f.reject
        | _ => false) = some true := by decide +kernel

theorem witness_TruncationAndExposureEnd :
    (({ ready with line.lineFrame := some 31, line.head := [⟨0, 0, 1⟩] } : State).line.lineFrame = some 31
        ∧ ∃ x ∈ ({ ready with line.head := [⟨0, 0, 1⟩] } : State).line.head, x ≠ { red := 0, green := 0, blue := 0 })
      ∧ (∀ x ∈ ready.line.head, x = { red := 0, green := 0, blue := 0 })
      ∧ (headIn [gapAt 4 800 200, frameAt 5 1000 1020, gapAt 6 2020 200]).web.map
          = [gapAt 4 800 200] ++ frameAt 5 1000 1020 :: [gapAt 6 2020 200]
      ∧ (∀ x ∈ [gapAt 4 800 200] ++ [gapAt 6 2020 200], x.number ≠ 5) ∧ (frameAt 5 1000 1020).number = 5 := by
  decide +kernel

/-- SMN watches with its settle count at 0, the head in FRAME 5. -/
def sampled (ended : Bool) (entries : List MapEntry) : State :=
  { headIn entries with supply.watching := true, supply.strokeEnded := ended }

/-- Magazine A's last step, the engine RUNNING. -/
def lastStep (other : Magazine) : State := { shop with paper.magA := paper 152 1, paper.magB := other }

/-- R182, R106: the strobe that completes a paper break at the head is also the last step of the magazine with no usable other:
the first PAPER_BREAK pauses the engine and is recorded, and the second is counted. -/
theorem test_two_breaks :
    let s := { lastStep (paper 102 399) with line.web := .ready, line.breakCount := 49 }
    let t := after (.lineStrobe false true) s
    t.eng.state = .paused ∧ t.eng.record.kind = .paperBreak ∧ t.eng.overflow = 1 := by decide +kernel

theorem witness_StrobeRunsEveryBlock :
    (∀ s ∈ [stopped, running, ready, shop, paused], live s = true)
      ∧ (ready.supply.watching = false ∧ 0 < ({ sampled true [] with supply.settle := 2 } : State).supply.settle)
      ∧ ((sampled true []).supply.watching = true ∧ (sampled true []).supply.settle = 0
        ∧ (sampled true []).supply.strokeEnded = true ∧ (sampled false []).supply.strokeEnded = false)
      ∧ (entryAt (sampled false [frameAt 5 1000 1020]) 1000 = some (frameAt 5 1000 1020)
        ∧ (frameAt 5 1000 1020).flags.sag = false ∧ entryAt (sampled false []) 1000 = none)
      ∧ ((activeMag running).loaded = false ∧ (activeMag shop).remaining ≠ 1 ∧ 0 < (activeMag shop).remaining)
      ∧ ((activeMag (lastStep (paper 102 400))).remaining = 1 ∧ moving (lastStep (paper 102 400)) = true
        ∧ (lastStep (paper 102 400)).paper.target = none)
      ∧ ((otherMag (lastStep (paper 102 400))).loaded = true ∧ 400 ≤ (otherMag (lastStep (paper 102 400))).remaining
        ∧ ¬400 ≤ (otherMag (lastStep (paper 102 399))).remaining) := by decide +kernel

theorem witness_LineEvents :
    (∀ s ∈ liveStates, live s = true)
      ∧ (running.line.web = .ramping ∧ signedDiff (mapEnd running) running.line.w ≤ 0
        ∧ 0 < signedDiff (mapEnd { running with web.map := [gapAt 4 0 200] }) running.line.w)
      ∧ (ready.line.web = .ready ∧ ready.line.supervision ≠ none ∧ ready.line.web ≠ .idle)
      ∧ (stopped.line.web = .idle ∧ stopped.line.supervision = none ∧ stopped.line.web ≠ .ramping) := by decide +kernel

/-- Refill is active, and the cursor names this line of item 12. -/
def fetching (im : ImageRec) (i : Nat) : State :=
  { shop with fetch.items := [{ item 12 with image := im }], fetch.cursor := some (12, i), fetch.refill := true }

theorem witness_LineReadIssuedForCursor :
    (∀ s ∈ [running, fetching image 0, fetching image 1019, fetching { image with width := 0 } 0,
        fetching { image with addr := 0x7FFFFF } 0], live s = true)
      ∧ running.fetch.refill = false
      ∧ ((fetching image 0).fetch.refill = true ∧ moving (fetching image 0) = true ∧ (fetching image 0).fetch.reads.length < 2
        ∧ (fetching image 0).fetch.buffer.length + (fetching image 0).fetch.reads.length < 16
        ∧ (fetching image 0).fetch.cursor = some (12, 0) ∧ findItem (fetching image 0) 12 = some (item 12)
        ∧ (item 12).image.width ≠ 0 ∧ windowTest (fetching image 0).setup (item 12).image 0 = true
        ∧ (fetching image 0).link.areaSet = true)
      ∧ ({ image with width := 0 } : ImageRec).width = 0
      ∧ windowTest shop.setup { image with addr := 0x7FFFFF } 0 = false := by decide +kernel

/-- Frame 12 is an image of width 0 and 20 lines, its cursor at line 0 with 14 lines of frame 11 in the buffer. -/
def narrow : State :=
  { fetching { image with width := 0, height := 20 } 0 with fetch.buffer := List.replicate 14 ⟨11, 0, []⟩ }

/-- R71: lines of width 0 join at once up to 16, refill comes to rest, and the cursor stands behind them; with refill at
rest above its mark, or with the engine STOPPED, none joins. -/
theorem test_width_zero :
    (evalFetch narrow).fetch.buffer.drop 14 = [⟨12, 0, []⟩, ⟨12, 1, []⟩] ∧ (evalFetch narrow).fetch.cursor = some (12, 2)
      ∧ (evalFetch narrow).fetch.refill = false ∧ (evalFetch narrow).fetch.reads = []
      ∧ (evalFetch { narrow with fetch.refill := false }).fetch.buffer = narrow.fetch.buffer
      ∧ (evalFetch { narrow with eng.state := .stopped }).fetch.buffer = narrow.fetch.buffer := by decide +kernel

/-- R71: the hand-over of a frame of width 0 brings its first 16 lines into the buffer in the same step, and the strobe of its
line 0 is served from it, no underrun. -/
theorem test_width_zero_handover :
    let t := handOver 12 0 (order .active []) { entry 5 2 2 1 0 with image := { image with width := 0, height := 20 } } shop
    t.fetch.buffer.map BufferLine.index = List.range 16 ∧ t.fetch.cursor = some (12, 16)
      ∧ (serve 12 0 t).2.fetch.underruns = 0 ∧ (serve 12 0 t).2.fetch.buffer.length = 15 := by decide +kernel

/-- R71, R73: two reads of frame 12 leave in one step, in issue order, and only then do the lines of frame 13, of width 0, join
(log entry 34). -/
theorem test_width_zero_behind_reads :
    let s := { shop with
      fetch.refill := true, fetch.cursor := some (13, 0)
      fetch.items := [{ item 12 with state := .fetched }, { item 13 with image := { image with width := 0, height := 2 } }]
      fetch.reads := [lineRead 12 8, { lineRead 12 9 with ended := some (.data []) }] }
    (after (.lineReadComplete 0 (some [])) s).fetch.buffer = [⟨12, 8, []⟩, ⟨12, 9, []⟩, ⟨13, 0, []⟩, ⟨13, 1, []⟩]
      ∧ (after (.lineReadComplete 0 (some [])) s).fetch.cursor = none := by decide +kernel

theorem witness_LineReadIssuedForCursor_joins :
    (evalRefill narrow).fetch.refill = true ∧ moving narrow = true ∧ narrow.fetch.reads.length < 2
      ∧ narrow.fetch.buffer.length + narrow.fetch.reads.length < 16 ∧ (∀ r ∈ narrow.fetch.reads.head?, r.ended = none)
      ∧ narrow.fetch.cursor = some (12, 0)
      ∧ (findItem narrow 12).map (fun x => x.image.width) = some 0
      ∧ running.fetch.cursor = none := by decide +kernel

theorem witness_LineReadIssuedForCursor_cursor :
    findItem running 12 = none ∧ findItem (fetching image 0) 12 = some (item 12)
      ∧ 1019 < (item 12).image.height.toNat ∧ (item 12).image.height.toNat ≤ 1020
      ∧ (running.fetch.buffer.length + running.fetch.reads.length < 16
        ∧ running.fetch.buffer.length ≤ running.setup.params.refillMark)
      ∧ (16 ≤ (List.replicate 16 (⟨12, 0, []⟩ : BufferLine)).length
        ∧ running.setup.params.refillMark < (List.replicate 9 (⟨12, 0, []⟩ : BufferLine)).length) := by decide +kernel

/-- Frame 12 of the order in context 0 is in the map and in the frame list. -/
def faulting : State :=
  withOrder { order .active [entry 5 2 2 1 0] with unsettled := [12, 13] }
    { fetching image 3 with web.map := [frameAt 12 1000 1020] }

theorem witness_AccessFaultStopsFrame :
    findItem faulting 12 = some (item 12) ∧ entryNumbered faulting 12 = some (frameAt 12 1000 1020)
      ∧ (getOrder faulting 0 = some { order .active [entry 5 2 2 1 0] with unsettled := [12, 13] })
      ∧ (12 : Word) ∈ [12, (13 : Word)] ∧ ([entry 5 2 2 1 0] : List Entry)[0]? = some (entry 5 2 2 1 0)
      ∧ 0 < (entry 5 2 2 1 0).f ∧ (order .active []).detached = false
      ∧ ((order .active []).state ≠ .cancelling ∧ (order .active []).state ≠ .complete) := by decide +kernel

def readsOut (rs : List LineRead) : State := { fetching image 2 with fetch.reads := rs }

theorem witness_LineReadsLeaveInOrder :
    (∀ s ∈ [running, readsOut [lineRead 12 0], readsOut [lineRead 12 0, lineRead 12 1]], live s = true)
      ∧ running.fetch.reads.length ≤ 0
      ∧ ((readsOut [lineRead 12 0, lineRead 12 1]).fetch.reads.length ≤ 2
        ∧ ∀ r ∈ (readsOut [lineRead 12 0, lineRead 12 1]).fetch.reads.head?, r.ended = none)
      ∧ ((readsOut [lineRead 12 0]).fetch.reads = [lineRead 12 0] ∧ (lineRead 12 0).ended = none)
      ∧ ({ lineRead 12 1 with ended := some .busError } : LineRead).ended = some .busError
      ∧ ({ lineRead 12 0 with discard := true } : LineRead).discard = true
      ∧ (findItem (readsOut []) 12 = some (item 12) ∧ ¬((item 12).state = .stopped ∨ 0 < (item 12).served)
        ∧ (lineRead 12 0).discard = false) ∧ findItem running 12 = none := by decide +kernel

/-- The line buffer holds lines 0 and 1 of frame 12. -/
def buffered : State := { fetching image 2 with fetch.buffer := [⟨12, 0, []⟩, ⟨12, 1, []⟩] }

theorem witness_LineReadsLeaveInOrder_served :
    findItem running 12 = none ∧ findItem buffered 12 = some (item 12)
      ∧ (({ item 12 with state := .stopped } : FrameItem).state = .stopped ∧ (item 12).state ≠ .stopped)
      ∧ (({ item 12 with pattern := true } : FrameItem).pattern = true ∧ (item 12).pattern = false)
      ∧ (∀ x ∈ [(0, [0, 1]), (1, [1]), (2, [])], (buffered.fetch.buffer.dropWhile (fun l =>
          if l.number = 12 then decide (l.index < x.1) else decide (signedDiff l.number 12 < 0))).map BufferLine.index = x.2) := by
  decide +kernel

/-- The knife in STROKE, its blade away or not. -/
def cutting (left : Bool) : State :=
  { ready with cut.knife := .stroke, cut.leftHome := left, cut.solenoid := !left, cut.timer := some 40, cut.home := !left }
def knifeOut : State := { ready with cut.knife := .faulted, cut.home := false }

theorem witness_KnifeSensorAndTimer :
    (∀ s ∈ [ready, cutting false, cutting true, knifeOut], live s = true)
      ∧ ready.cut.knife = .idle ∧ knifeOut.cut.knife = .faulted
      ∧ ((cutting false).cut.knife = .stroke ∧ (cutting false).cut.leftHome = false ∧ true ≠ (cutting false).cut.leftHome)
      ∧ ((cutting true).cut.knife = .stroke ∧ (cutting true).cut.leftHome = true ∧ (cutting true).cut.timer ≠ none) := by
  decide +kernel

/-- W stands this many steps past the due position of the oldest boundary, 61,200. -/
def due (late : Word) : State :=
  { ready with line.w := 61200 + late, web.map := [gapAt 4 1000 200, frameAt 5 1200 1020] }

theorem witness_CutTestFiresForDueBoundary :
    ready.web.map = [] ∧ (due 0).web.map = gapAt 4 1000 200 :: [frameAt 5 1200 1020]
      ∧ (∀ x ∈ [((0xFFFFFFFF : Word), (-1 : Int)), (0, 0), (3, 3), (4, 4)],
          signedDiff (due x.1).line.w ((gapAt 4 1000 200).start + BitVec.ofNat 32 (gapAt 4 1000 200).length
            + BitVec.ofNat 32 (due x.1).setup.params.cutLength + BitVec.ofInt 32 (due x.1).cut.offset) = x.2)
      ∧ ((due 0).cut.knife = .idle ∧ ((due 0).web.map.map MapEntry.number).Nodup)
      ∧ (({ due 0 with cut.knife := .stroke } : State).cut.knife = .stroke
        ∧ ({ due 0 with cut.knife := .faulted } : State).cut.knife = .faulted)
      ∧ ({ due 4 with web.map := [frameAt 5 180 1020] } : State).web.map = frameAt 5 180 1020 :: [] := by decide +kernel

/-- Entry 50's window of 8.7.1: 559,865 to 559,895. -/
def markAt (w : Word) : State := { beforeMark with line.w := w }

theorem witness_MarksCorrectAndMissesCount :
    (∀ s ∈ [stopped, ready, markAt 559880], live s = true)
      ∧ stopped.line.web = .idle ∧ ready.cut.cursor = none
      ∧ (markAt 559880).web.map = [gapAt 49 499800 200] ++ frameAt 50 500000 1520 :: [gapAt 51 501520 200, frameAt 52 501720 1520]
      ∧ (∀ x ∈ [gapAt 49 499800 200] ++ [gapAt 51 501520 200, frameAt 52 501720 1520], x.number ≠ (frameAt 50 500000 1520).number)
      ∧ ((markAt 559880).cut.cursor = some (frameAt 50 500000 1520).number ∧ (markAt 559880).line.web ≠ .idle)
      ∧ (∀ x ∈ [((559864 : Word), (-16 : Int)), (559865, -15), (559895, 15), (559896, 16)],
          signedDiff (markAt x.1).line.w
            ((frameAt 50 500000 1520).start + BitVec.ofNat 32 (markAt x.1).setup.params.cutLength
              - BitVec.ofNat 32 (markAt x.1).setup.params.markLead + BitVec.ofInt 32 (markAt x.1).cut.offset) = x.2)
      ∧ beforeMark.setup.params.regWindow = 15 := by decide +kernel

theorem witness_GateArrivalsAndDeadlines :
    (live ready = true ∧ ready.sort.lane = [])
      ∧ (live threePrints = true ∧ threePrints.sort.lane
          = [] ++ print 1 6 14000 :: [{ print 2 0 14300 with reject := true }, print 3 6 14600]
        ∧ (print 1 6 14000).reached = false)
      ∧ ({ print 1 6 14000 with reached := true } : LaneItem).reached = true := by decide +kernel

/-- Print 7 of context 0 on the lane for bin 3, and the order's bins 3 and 4. -/
def onLane (good : Nat) : State :=
  withOrder { order .active [entry 5 2 2 1 0] with bins := [3, 4], unsettled := [7, 8] }
    { ready with
      sort.lane := [print 7 3 14000]
      sort.bins := Sorter.reset.bins.set 2
        { state := .reserved, owner := some (7, 5), live := true, good := good, misroutes := 0, disturbed := false } }

theorem witness_DeliveriesAndPrintsOffered :
    (live (onLane 0) = true ∧ (onLane 0).sort.bins.length = 15 ∧ (onLane 0).sort.lane = print 7 3 14000 :: [])
      ∧ (live ready = true ∧ ready.sort.lane = [] ∧ ready.sort.bins.length = 15)
      ∧ (print 7 3 14000).dest = (3 : Fin 16).val ∧ (print 7 0 14000).dest = (0 : Fin 16).val
      ∧ (print 7 3 14000).dest ≠ (4 : Fin 16).val
      ∧ ((onLane 0).sort.lane.length < 8 ∧ 8 ≤ (List.replicate 8 (print 7 3 14000)).length)
      ∧ getOrder (onLane 98) 0 = some { order .active [entry 5 2 2 1 0] with bins := [3, 4], unsettled := [7, 8] }
      ∧ ((getBin (onLane 98) 3).good + inLane (onLane 98) 3 < 100
        ∧ ¬(getBin (onLane 99) 3).good + inLane (onLane 99) 3 < 100
        ∧ (getBin (onLane 99) 4).good + inLane (onLane 99) 4 < 100) := by decide +kernel

theorem witness_KeyScanMakesEvents : live keyHeld = true ∧ keyHeld.sort.keys.length = 16 := by decide +kernel

def binIn (st : BinState) (live_ : Bool) (good : Nat) : State :=
  { ready with
    sort.bins := Sorter.reset.bins.set 14
      { state := st, owner := some (7, 5), live := live_, good := good, misroutes := 0, disturbed := false } }

theorem witness_KeyEventsActOnBinState :
    (∀ st ∈ [BinState.free, .ready, .reserved, .filling, .attention],
        (binIn st true 1).sort.bins.length = 15 ∧ (getBin (binIn st true 1) 15).state = st)
      ∧ ((getBin (binIn .attention false 0) 15).state = .attention ∧ (getBin (binIn .attention false 0) 15).live = false)
      ∧ ((getBin (binIn .attention true 1) 15).live = true ∧ 0 < (getBin (binIn .attention true 1) 15).good)
      ∧ ((getBin (binIn .attention true 0) 15).live = true ∧ (getBin (binIn .attention true 0) 15).good = 0) := by
  decide +kernel

theorem witness_FramesSettledOnceByKind :
    (∀ st ∈ [OrderState.active, .draining, .cancelling],
        let s := withOrder { order st [entry 5 2 2 1 0] with unsettled := [12, 13] } ready
        getOrder s 0 = some { order st [entry 5 2 2 1 0] with unsettled := [12, 13] }
          ∧ ({ order st [entry 5 2 2 1 0] with unsettled := [12, 13] } : Order).entries[0]? = some (entry 5 2 2 1 0))
      ∧ 0 < (entry 5 2 2 1 0).f ∧ (12 : Word) ∈ [12, (13 : Word)] ∧ (14 : Word) ∉ [12, (13 : Word)] := by decide +kernel

/-- 9.9.3 and R156: bin 15 by its state, with and without a print, a misroute or a disturbance. -/
theorem witness_FramesSettledOnceByKind_report :
    (∀ st ∈ [BinState.free, .ready, .reserved, .filling, .attention],
        (binIn st true 1).sort.bins.length = 15 ∧ (getBin (binIn st true 1) 15).state = st
          ∧ (getBin (binIn st true 1) 15).misroutes = 0 ∧ (getBin (binIn st true 1) 15).disturbed = false)
      ∧ ((getBin (binIn .reserved true 0) 15).good = 0 ∧ 0 < (getBin (binIn .filling true 1) 15).good)
      ∧ 0 < ({ getBin (binIn .filling true 1) 15 with misroutes := 1 } : Bin).misroutes := by decide +kernel

theorem witness_FrameCommitMovesOneCopy :
    getOrder (oneOrder .active shop) 0 = some (order .active [entry 5 2 2 1 0])
      ∧ (order .active [entry 5 2 2 1 0]).entries[0]? = some (entry 5 2 2 1 0)
      ∧ (order .active [entry 5 2 2 1 0]).state = .active := by decide +kernel

/-- An order of slot 6 stands in context 1 beside that of context 0, and both are queued. -/
def twoOrders (o p : Order) (s : State) : State :=
  { s with plan.table := some o :: some { p with slot := 6 } :: List.replicate 14 none, plan.queue := [0, 1] }

/-- Work for magazine B only, which has waited since the counter read 0. -/
def otherPaper : Order := { order .queued [{ entry 5 5 0 0 0 with width := 102 }] with waitingSince := some 0 }

theorem witness_ChoiceTakesFirstRuleThatApplies :
    (shop.eng.state = .running ∧ stopping.eng.state = .stopping ∧ paused.eng.state ≠ .running ∧ paused.eng.state ≠ .stopping)
      ∧ ((headIn [gapAt 4 900 200]).web.map = [] ++ [gapAt 4 900 200] ∧ (gapAt 4 900 200).piece = .gap)
      ∧ ((∀ e, (headIn []).web.map.getLast? = some e → e.piece ≠ .gap) ∧ (headIn []).web.map.length < 256)
      ∧ changing.paper.target ≠ none
      ∧ ({ shop with plan.switchFlag := true } : State).plan.switchFlag = true
      ∧ switchDue (withOrder otherPaper { shop with plan.framesExposed := 300 }) = true
      ∧ switchDue (withOrder otherPaper { shop with plan.framesExposed := 299 }) = false
      ∧ (∀ s ∈ [oneOrder .active shop, withOrder { order .active [entry 5 2 2 1 0] with remakes := [0] } shop,
          withOrder (order .queued [entry 5 5 0 0 0]) shop, withOrder { otherPaper with waitingSince := none } shop, shop],
          s.paper.target = none ∧ s.web.hold = none ∧ s.web.map.length < 255 ∧ switchDue s = false)
      ∧ chooseRemake (withOrder { order .active [entry 5 2 2 1 0] with remakes := [0] } shop) = some (0, 0)
      ∧ (chooseRemake (oneOrder .active shop) = none ∧ chooseCopy (oneOrder .active shop) = some (0, 0))
      ∧ (chooseCopy (withOrder (order .queued [entry 5 5 0 0 0]) shop) = none
        ∧ (chooseStart (withOrder (order .queued [entry 5 5 0 0 0]) shop)).isSome = true)
      ∧ (chooseStart (withOrder { otherPaper with waitingSince := none } shop) = none
        ∧ otherWork (withOrder { otherPaper with waitingSince := none } shop) = true)
      ∧ (chooseStart shop = none ∧ otherWork shop = false) :=
  ⟨by decide, by decide, ⟨fun _ h => (nomatch h), by decide⟩, by decide, rfl, by decide +kernel, by decide +kernel,
    by decide +kernel, by decide +kernel, by decide +kernel, by decide +kernel, by decide +kernel, by decide +kernel⟩

theorem witness_ChoicePicksFirstWorkThatFits :
    (waitsForOther (withOrder { otherPaper with waitingSince := none } shop) { otherPaper with waitingSince := none } = true
        ∧ otherPaper.waitingSince ≠ none ∧ waitsForOther shop (order .queued [entry 5 5 0 0 0]) = false) ∧
    chooseRemake (twoOrders (order .active [entry 5 2 2 1 0]) { order .active [entry 5 2 2 1 0] with remakes := [0] } shop)
        = some (1, 0)
      ∧ chooseCopy (twoOrders (order .draining [entry 2 0 2 0 0]) (order .active [entry 5 2 2 1 0]) shop) = some (1, 0)
      ∧ (chooseStart (twoOrders otherPaper (order .queued [entry 5 5 0 0 0]) shop)).map (fun x => (x.1, x.2.2)) = some (1, 0)
      ∧ (startOrder 0 (order .queued [entry 5 5 0 0 0]) shop).isSome = true ∧ shop.sort.bins.length = 15 := by decide +kernel

theorem witness_PulseBetweenFloorAndCeiling :
    1 ≤ 8 ∧ ((8 : Nat) : Int) ≤ (8 : Int) ∧ (7 : Int) < ((8 : Nat) : Int)
      ∧ (0 = 0 ∧ 1 ≤ 7 ∧ 7 < 8 ∧ 8 ≤ 8 ∧ ((8 : Nat) : Int) ≤ 8 ∧ (8 : Int) < ((9 : Nat) : Int)) := by decide

theorem witness_LineComputedFromFactors :
    (4095 ≤ 4095 ∧ 1792 ≤ 1792 ∧ 1279 ≤ 1279 ∧ 65535 ≤ 65535)
      ∧ (20 = (item 12).image.left.toNat + 0 ∧ 0 < (item 12).image.width.toNat ∧ 19 < (item 12).image.left.toNat
        ∧ (item 12).image.left.toNat + (item 12).image.width.toNat ≤ 1500)
      ∧ (1019 < (item 12).length ∧ 1519 < (item 12).paperElems)
      ∧ (answerItem (.line (item 12) [1, 2, 3]) = some (item 12) ∧ answerItem (.pattern (item 12)) = some (item 12))
      ∧ ((LineAnswer.dark = .dark) ∧ LineAnswer.underrun = .underrun)
      ∧ tableWf 1024 0 [(5, 1023), (6, 1025)] = true := by decide

/-! ## Sound states other than the one after reset -/

theorem setupSound_of (x : Setup) (params : x.params = Params.reset ∨ x.params = stopped.setup.params)
    (discounts : ∀ d ∈ x.discounts, d ≤ 5000) (fee : x.handlingFee ≤ 99999) (rush : x.rushSurcharge ≤ 10000)
    (tax : x.taxRate ≤ 5000) (products : ∀ r ∈ x.products, productSound r = true) (tones : x.tones = [])
    (uniformity : x.uniformity = []) (clamps : x.clampCount ≤ 65535) : SetupSound x where
  params p := by rcases params with h | h <;> rw [h] <;> cases p <;> decide
  discounts := discounts
  fee := fee
  rush := rush
  tax := tax
  products := products
  tones := by simp [tones, tableWf, tableGet]
  uniformity := by simp [uniformity, tableWf, tableGet]
  clamps := clamps

theorem witness_PriceFormedInStages :
    SetupSound (priced 5000 10000 5000 99999)
      ∧ ((priced 0 0 0 0).products.getD 0 Product.reset).breaks.take 2
        = [] ++ ({ minimum := 50, price := 29 } : Break) :: [{ minimum := 100, price := 25 }]
      ∧ ((∀ c ∈ ([{ minimum := 100, price := 25 }] : List Break), 50 < c.minimum) ∧ 50 ≤ 50)
      ∧ ∀ c ∈ ((priced 0 0 0 0).products.getD 0 Product.reset).breaks.take 2, 49 < c.minimum :=
  ⟨setupSound_of _ (.inr rfl) (by decide) (by decide) (by decide) (by decide) (by decide +kernel) rfl rfl (by decide),
    by decide +kernel, by decide, by decide +kernel⟩

theorem witness_SetupStoreStaysSound : SetupSound shop.setup ∧ ∃ t, step shop = .next t :=
  ⟨setupSound_of _ (.inr rfl) (by decide) (by decide) (by decide) (by decide) (by decide +kernel) rfl rfl (by decide), _, rfl⟩

/-- RUNNING with a lit head, an order of slot 5, its frame 12 in the map and its read out, and a sweep with a take. -/
def busy : State :=
  { faulting with
    line.web := .ready, line.supervision := some 53332, line.head := [⟨8, 12933, 0⟩], line.lineFrame := some 12
    fetch.reads := [lineRead 12 0], intake.sweep := some takingSweep
    link.waiting := [⟨5, 0x022, 1, 2⟩], sort.lane := [print 7 3 14000], out := [.read 0x110000 4, .ratePulse] }

def busyOrder : Order := { order .active [entry 5 2 2 1 0] with unsettled := [12, 13] }

theorem busy_orders {o : Order} (h : some o ∈ busy.plan.table) : o = busyOrder := by
  have : busy.plan.table = some busyOrder :: List.replicate 15 none := rfl
  simpa [this, List.mem_replicate] using h

theorem busy_sweep {w : Sweep} (h : busy.intake.sweep = some w) : w = takingSweep := by
  have : busy.intake.sweep = some takingSweep := rfl
  simpa [this, eq_comm] using h

theorem busy_commands : CommandsSound busy where
  pending := by decide
  taken w slot d h k := by
    rw [busy_sweep h] at k
    cases k

theorem witness_OrdersStaySound : OrdersSound busy ∧ ∃ t, step busy = .next t := by
  refine ⟨⟨fun o h => ?_, by decide, busy_commands⟩, _, rfl⟩
  rw [busy_orders h]
  refine ⟨⟨by decide, by decide, fun i e h => ?_, by decide⟩, by decide, by decide, by decide⟩
  simp [busyOrder, order]

theorem witness_SlotsStayDistinct : SlotsDistinct busy ∧ ∃ t, step busy = .next t := by
  refine ⟨⟨by decide +kernel, by decide +kernel, ?_, ?_, ?_, ?_⟩, _, rfl⟩ <;> intro w h <;> rw [busy_sweep h] <;> decide

theorem witness_ListsAndCountersStayBounded : Bounded busy ∧ ∃ t, step busy = .next t := by
  refine ⟨⟨by decide, by decide, fun b _ _ => ?_, by decide, by decide, by decide, by decide, by decide, by decide, by decide,
    by decide, by decide, by decide, by decide⟩, _, rfl⟩
  have h : ∀ b < 16, (getBin busy b).good + inLane busy b ≤ Config.binCapacity := by decide +kernel
  exact h b (by omega)

theorem busy_head {x : Rgb} (h : x ∈ busy.line.head) : x = ⟨8, 12933, 0⟩ := by
  have : busy.line.head = [⟨8, 12933, 0⟩] := rfl
  simpa [this] using h

theorem witness_EngineAndLightStaySound : EngineSound busy ∧ LightSound busy ∧ ∃ t, step busy = .next t := by
  refine ⟨⟨by decide, by decide, by decide, by decide, by decide, by decide, by decide, by decide, by decide, by decide, by decide,
    by decide, by decide, by decide, by decide⟩, fun x h c => ?_, _, rfl⟩
  rw [busy_head h]
  cases c
  · exact .inr (by decide)
  · exact .inr (by decide)
  · exact .inl rfl

theorem witness_AccessesStayConfined : AccessSound busy ∧ ∃ t, step busy = .next t := by
  refine ⟨⟨fun o h => ?_, fun w h => ?_, fun o h => ?_, by decide, fun w h => ?_, fun w h => ?_, by decide, by decide +kernel,
    busy_commands⟩, _, rfl⟩
  · have : busy.out = [.read 0x110000 4, .ratePulse] := rfl
    rw [this] at h
    rcases List.mem_cons.1 h with rfl | h
    · exact .inl ⟨0x10000, by decide, by decide +kernel⟩
    · rw [List.mem_singleton.1 h]
      trivial
  · have : busy.link.waiting = [⟨5, 0x022, 1, 2⟩] := rfl
    rw [this] at h
    rw [List.mem_singleton.1 h]
    exact ⟨by decide, by decide, by decide⟩
  · rw [busy_orders h]
    decide
  · rw [busy_sweep h]
    decide
  · rw [busy_sweep h]
    decide

end Sys2Proof.Tests
end

section
/-! What accesses are formed from: the operations that keep it (R4, R66, R67). -/

open Sys2Proof Sys2Proof.Machine

namespace Sys2Proof.Machine

set_option Elab.async false

/-! ## The parts of `AccessSound` -/

/-- An order's slot and its result fields lie in the job area. -/
def Order.Confined (o : Order) : Prop := o.slot < Config.slots ∧ o.entries.length ≤ 64

/-- The slots that a sweep has to do with, and the values of its take past its TAKEN write. -/
structure Sweep.Confined (w : Sweep) : Prop where
  taking : ∀ k, w.taking = some k → k < Config.slots
  taken : ∀ k d, w.taken = some (k, d) → k < Config.slots ∧ (TakeResult.data d).wellFormed = true
  candidates : ∀ k ∈ w.candidates, k < Config.slots
  scans : ∀ x ∈ w.scans, x.slot < Config.slots
  requests : ∀ q ∈ w.requests, q.slot < Config.slots

theorem AccessSound.order {s : State} (h : AccessSound s) {o : Order} (ho : some o ∈ s.plan.table) : o.Confined :=
  h.orders o ho

theorem AccessSound.get {s : State} (h : AccessSound s) {i : Nat} {o : Order} (ho : getOrder s i = some o) : o.Confined :=
  h.order (getOrder_mem ho)

theorem AccessSound.sweep {s : State} (h : AccessSound s) {w : Sweep} (hw : s.intake.sweep = some w) : w.Confined where
  taking k hk := h.takes k (by simp [takeSlots, hw, hk])
  taken k d hd := ⟨h.takes k (by simp [takeSlots, hw, hd]), h.commands.taken w k d hw hd⟩
  candidates k hk := h.takes k (by simp [takeSlots, hw, hk])
  scans := h.scans w hw
  requests := h.requests w hw

theorem Output.Confined.congr {s t : State} {o : Output} (h : o.Confined s) (area : t.link.area = s.link.area)
    (windows : t.setup.windows = s.setup.windows) : o.Confined t := by
  unfold Output.Confined jobAddr at *; rw [area, windows]; exact h

/-- `AccessSound` reads the outputs, the base, the waiting writes, the table, the sweep, the setup store and the queue. -/
theorem AccessSound.congr {s t : State} (h : AccessSound s) (out : t.out = s.out := by simp)
    (area : t.link.area = s.link.area := by simp) (waiting : t.link.waiting = s.link.waiting := by simp)
    (table : t.plan.table = s.plan.table := by simp) (sweep : t.intake.sweep = s.intake.sweep := by simp)
    (setup : t.setup = s.setup := by simp) (pending : t.pending = s.pending := by simp) : AccessSound t where
  out := by rw [out]; exact fun o ho => (h.out o ho).congr area (by rw [setup])
  waiting := by rw [waiting]; exact h.waiting
  orders := by rw [table]; exact h.orders
  takes := by unfold takeSlots; rw [sweep]; exact h.takes
  scans := by rw [sweep]; exact h.scans
  requests := by rw [sweep]; exact h.requests
  cursor := by rw [setup]; exact h.cursor
  breaks := by rw [setup]; exact h.breaks
  commands := ⟨by rw [pending]; exact h.commands.pending, by rw [sweep]; exact h.commands.taken⟩

theorem AccessSound.withOut {s : State} (h : AccessSound s) (l : List Output) (hl : ∀ o ∈ l, o.Confined s) :
    AccessSound { s with out := l } :=
  { h with out := hl, takes := h.takes, commands := ⟨h.commands.pending, h.commands.taken⟩ }

theorem AccessSound.withWaiting {s : State} (h : AccessSound s) (l : List SlotWrite) (hl : ∀ w ∈ l, w.Confined) :
    AccessSound { s with link.waiting := l } :=
  { h with out := h.out, waiting := hl, takes := h.takes, commands := ⟨h.commands.pending, h.commands.taken⟩ }

theorem AccessSound.withTable {s : State} (h : AccessSound s) (l : List (Option Order))
    (hl : ∀ o, some o ∈ l → o.Confined) : AccessSound { s with plan.table := l } :=
  { h with out := h.out, orders := hl, takes := h.takes, commands := ⟨h.commands.pending, h.commands.taken⟩ }

theorem AccessSound.withSweep {s : State} (h : AccessSound s) (x : Option Sweep) (hx : ∀ w, x = some w → w.Confined) :
    AccessSound { s with intake.sweep := x } :=
  { h with
    out := h.out
    takes := by
      rcases x with _ | w
      · simp [takeSlots]
      · intro k hk
        have hw := hx w rfl
        simp only [takeSlots, List.mem_append, Option.mem_toList, Option.map_eq_some_iff] at hk
        rcases hk with (hk | ⟨⟨a, d⟩, hd, rfl⟩) | hk
        · exact hw.taking k hk
        · exact (hw.taken a d hd).1
        · exact hw.candidates k hk
    scans := fun w hw => (hx w hw).scans
    requests := fun w hw => (hx w hw).requests
    commands := ⟨h.commands.pending, fun w k d hw hd => ((hx w hw).taken k d hd).2⟩ }

theorem AccessSound.withSetup {s : State} (h : AccessSound s) (x : Setup)
    (out : ∀ o ∈ s.out, o.Confined { s with setup := x }) (cursor : ∀ f, x.cursor = some f → f.inArea = true)
    (breaks : ∀ r ∈ x.products, r.breakCount ≤ 4) : AccessSound { s with setup := x } :=
  { h with out := out, cursor := cursor, breaks := breaks, takes := h.takes
           commands := ⟨h.commands.pending, h.commands.taken⟩ }

theorem AccessSound.foldl {α : Type} {s : State} (h : AccessSound s) (f : State → α → State) (l : List α)
    (hf : ∀ s, ∀ a ∈ l, AccessSound s → AccessSound (f s a)) : AccessSound (l.foldl f s) := by
  induction l generalizing s with
  | nil => exact h
  | cons a r ih => exact ih (hf s a (by simp) h) (fun s b hb => hf s b (by simp [hb]))

/-! ## Accesses put out -/

theorem accessSound_emitAccess {s : State} (h : AccessSound s) (o : Output) (ho : o.Confined s) :
    AccessSound (emitAccess o s) := by
  rw [emitAccess_out]
  refine h.withOut _ fun x hx => ?_
  split at hx
  · rcases List.mem_append.1 hx with hx | hx
    · exact h.out x hx
    · rwa [List.mem_singleton.1 hx]
  · exact h.out x (by simpa using hx)

theorem accessSound_emitRead {s : State} (h : AccessSound s) {offset size : Nat} (hk : offset + size ≤ 0x50000) :
    AccessSound (emitRead offset size s) := accessSound_emitAccess h _ (.inl ⟨offset, hk, rfl⟩)

theorem accessSound_emitWrite {s : State} (h : AccessSound s) {offset size : Nat} (hk : offset + size ≤ 0x50000)
    (value : Nat) : AccessSound (emitWrite offset size value s) := accessSound_emitAccess h _ ⟨offset, hk, rfl⟩

/-- A field of one of the 64 slots lies inside the job area. -/
theorem slotOffset_inside {slot offset size : Nat} (hs : slot < Config.slots) (hk : offset + size ≤ 0x1000) :
    slotOffset slot offset + size ≤ 0x50000 := by
  simp only [slotOffset, Config.slots] at *; omega

theorem accessSound_emitReads {s : State} (h : AccessSound s) {slot : Nat} (hs : slot < Config.slots)
    (fields : List (Nat × Nat)) (hf : ∀ x ∈ fields, x.1 + x.2 ≤ 0x1000) : AccessSound (emitReads slot fields s) :=
  h.foldl _ _ fun _ x hx ht => accessSound_emitRead ht (slotOffset_inside hs (hf x hx))

theorem accessSound_clearOut {s : State} (h : AccessSound s) : AccessSound (clearOut s) :=
  (h.withOut [] (by simp)).congr rfl rfl rfl rfl rfl rfl rfl

theorem accessSound_ratePulse {s : State} (h : AccessSound s) : AccessSound (emit .ratePulse s) := by
  refine h.withOut _ fun o ho => ?_
  rcases List.mem_append.1 ho with ho | ho
  · exact h.out o ho
  · rw [List.mem_singleton.1 ho]; trivial

/-! ## Slot writes -/

theorem mem_insertWrite {w x : SlotWrite} {l : List SlotWrite} (h : x ∈ insertWrite w l) : x = w ∨ x ∈ l := by
  induction l with
  | nil => simpa [insertWrite] using h
  | cons y r ih =>
    simp only [insertWrite] at h
    split at h
    · rcases List.mem_cons.1 h with h | h <;> simp [h]
    · split at h
      · rcases List.mem_cons.1 h with h | h <;> simp [h]
      · rcases List.mem_cons.1 h with h | h
        · simp [h]
        · rcases ih h with h | h <;> simp [h]

theorem accessSound_pushWrite {s : State} (h : AccessSound s) {slot offset size : Nat} (hs : slot < Config.slots)
    (hk : slotFieldWritten offset = true ∧ offset + size ≤ 0xD00) (value : Nat) :
    AccessSound (pushWrite slot offset size value s) := by
  refine h.withWaiting _ fun x hx => ?_
  rcases mem_insertWrite hx with rfl | hx
  · exact ⟨hs, hk⟩
  · exact h.waiting x hx

theorem accessSound_dropWrites {s : State} (h : AccessSound s) (slot : Nat) : AccessSound (dropWrites slot s) :=
  h.withWaiting _ fun x hx => h.waiting x (List.mem_of_mem_filter hx)

theorem accessSound_hoistAnswer {s : State} (h : AccessSound s) (slot : Nat) : AccessSound (hoistAnswer slot s) :=
  h.withWaiting _ fun x hx => by
    rcases List.mem_append.1 hx with hx | hx <;> exact h.waiting x (List.mem_of_mem_filter hx)

theorem accessSound_writeMirror {s : State} (h : AccessSound s) {o : Order} (ho : o.slot < Config.slots) :
    AccessSound (writeMirror o s) := by
  unfold writeMirror; split
  · exact h
  · exact accessSound_pushWrite h ho (by decide) _

/-- The fields of the 64 entry results are ones the part writes. -/
theorem resultField_written {i k size : Nat} (hi : i < 64) (hk : k ≤ 8) (even : k % 2 = 0) (hn : k + size ≤ 16) :
    slotFieldWritten (offResult i + k) = true ∧ offResult i + k + size ≤ 0xD00 := by
  unfold offResult
  refine ⟨?_, by omega⟩
  simp only [slotFieldWritten, Bool.or_eq_true, Bool.and_eq_true, decide_eq_true_eq, beq_iff_eq]
  right; omega

theorem accessSound_pushResultFields {s : State} (h : AccessSound s) {slot i : Nat} (hs : slot < Config.slots)
    (hi : i < 64) (g a used jams summary : Nat) : AccessSound (pushResultFields slot i g a used jams summary s) := by
  have hf (k size : Nat) (hk : k ≤ 8) (even : k % 2 = 0) (hn : k + size ≤ 16) {s : State} (h : AccessSound s) (v : Nat) :
      AccessSound (pushWrite slot (offResult i + k) size v s) :=
    accessSound_pushWrite h hs (resultField_written hi hk even hn) v
  have h0 : AccessSound (pushWrite slot (offResult i) 2 g s) := hf 0 2 (by simp) rfl (by simp) h g
  exact hf 8 1 (by simp) rfl (by simp) (hf 6 2 (by simp) rfl (by simp) (hf 4 2 (by simp) rfl (by simp)
    (hf 2 2 (by simp) rfl (by simp) h0 _) _) _) _

theorem accessSound_writeResult {s : State} (h : AccessSound s) {o : Order} (ho : o.Confined) (i : Nat) :
    AccessSound (writeResult o i s) := by
  unfold writeResult
  split
  · rename_i e he
    have hi : i < 64 := by
      have := (List.getElem?_eq_some_iff.1 he).1
      have := ho.2
      omega
    split
    · exact h
    · exact accessSound_pushResultFields h ho.1 hi _ _ _ _ _
  · exact h

theorem accessSound_writeBins {s : State} (h : AccessSound s) {o : Order} (ho : o.slot < Config.slots) :
    AccessSound (writeBins o s) := by
  unfold writeBins; split
  · exact h
  · exact accessSound_pushWrite (accessSound_pushWrite h ho (by decide) _) ho (by decide) _

theorem accessSound_writeAnswer {s : State} (h : AccessSound s) {slot : Nat} (hs : slot < Config.slots) (n : Byte)
    (a : Answer) : AccessSound (writeAnswer slot n a s) :=
  accessSound_pushWrite (accessSound_pushWrite h hs (by decide) _) hs (by decide) _

theorem accessSound_pushPrice {s : State} (h : AccessSound s) {slot base : Nat} (hs : slot < Config.slots)
    (hb : base = offEstimate ∨ base = offFinal) (p : Price) : AccessSound (pushPrice slot base p s) := by
  have hf (k size : Nat) (hk : ∀ b ∈ [offEstimate, offFinal], slotFieldWritten (b + k) = true ∧ b + k + size ≤ 0xD00)
      {s : State} (h : AccessSound s) (v : Nat) : AccessSound (pushWrite slot (base + k) size v s) :=
    accessSound_pushWrite h hs (hk base (by simpa using hb)) v
  have h0 : AccessSound (pushWrite slot base 4 p.subtotal s) := hf 0 4 (by decide) h _
  exact hf 0x1C 1 (by decide) (hf 0x18 4 (by decide) (hf 0x14 4 (by decide) (hf 0x10 4 (by decide)
    (hf 0x0C 4 (by decide) (hf 0x08 4 (by decide) (hf 0x04 4 (by decide) h0 _) _) _) _) _) _) _

/-! ## Orders -/

theorem accessSound_raiseAttention {s : State} (h : AccessSound s) : AccessSound (raiseAttention s) := h.congr

theorem accessSound_evalLow {s : State} (h : AccessSound s) : AccessSound (evalLow s) := h.congr

theorem accessSound_putOrder {s : State} (h : AccessSound s) (i : Nat) {o : Option Order}
    (ho : ∀ p, o = some p → p.Confined) : AccessSound (putOrder i o s) :=
  h.withTable _ fun p hp => by
    rcases List.mem_or_eq_of_mem_set hp with hp | hp
    · exact h.order hp
    · exact ho p hp.symm

theorem accessSound_putSome {s : State} (h : AccessSound s) (i : Nat) {o : Order} (ho : o.Confined) :
    AccessSound (putOrder i (some o) s) := accessSound_putOrder h i (by simpa using ho)

theorem accessSound_freeOrder {s : State} (h : AccessSound s) (i : Nat) : AccessSound (freeOrder i s) :=
  (accessSound_putOrder h i (o := none) (by simp)).congr (by simp [freeOrder]) (by simp [freeOrder])
    (by simp [freeOrder]) (by simp [freeOrder]) (by simp [freeOrder]) (by simp [freeOrder]) (by simp [freeOrder])

theorem accessSound_enterState {s : State} (h : AccessSound s) (i : Nat) {o : Order} (ho : o.Confined)
    (st : OrderState) : AccessSound (enterState i o st s) := by
  have hc : Order.Confined { o with state := st } := ⟨ho.1, ho.2⟩
  exact accessSound_writeMirror (accessSound_putSome h i hc) hc.1

theorem accessSound_completeOrder {s : State} (h : AccessSound s) (i : Nat) {o : Order} (ho : o.Confined) :
    AccessSound (completeOrder i o s) := by
  have h1 : AccessSound (completionReport o.bins o.cancelled (enterState i o .complete s)) :=
    (accessSound_enterState h i ho .complete).congr
  unfold completeOrder; dsimp only; split
  · exact accessSound_freeOrder h1 i
  · exact h1

theorem accessSound_evalOrder {s : State} (h : AccessSound s) (i : Nat) : AccessSound (evalOrder i s) := by
  unfold evalOrder; split
  · exact h
  · rename_i o ho
    split
    · exact h
    · split
      · exact accessSound_completeOrder h i (h.get ho)
      · exact accessSound_enterState h i (h.get ho) _

theorem accessSound_evalWaitOf {s : State} (h : AccessSound s) (i : Nat) : AccessSound (evalWaitOf s i) := by
  unfold evalWaitOf; split
  · exact h
  · rename_i o ho
    have he (st : OrderState) := accessSound_enterState h i (h.get ho) st
    split
    · split
      · exact accessSound_raiseAttention (he _)
      · exact h
    · split
      · exact h
      · exact he _
    · exact h

theorem accessSound_evalWait {s : State} (h : AccessSound s) : AccessSound (evalWait s) :=
  h.foldl _ _ fun _ i _ ht => accessSound_evalWaitOf ht i

theorem settledOrder_confined {o : Order} (ho : o.Confined) (how : Settle) (limit ei : Nat) (num : Word) :
    (settledOrder how limit ei num o).Confined := by
  unfold settledOrder; dsimp only; split
  · exact ho
  · simpa [Order.Confined] using ho

theorem accessSound_settleFrame {s : State} (h : AccessSound s) (how : Settle) (i ei : Nat) (num : Word) :
    AccessSound (settleFrame how i ei num s) := by
  unfold settleFrame; split
  · exact h
  · rename_i o ho
    split
    · have hc := settledOrder_confined (h.get ho) how s.setup.params.remakeLimit ei num
      have h1 := accessSound_putSome h i hc
      refine accessSound_evalOrder (accessSound_evalLow (accessSound_writeResult ?_ hc ei)) i
      split
      · exact h1
      · exact h1.congr
    · exact h

theorem cancelledOrder_confined {o : Order} (ho : o.Confined) : (cancelledOrder o).Confined := by
  simpa [Order.Confined, cancelledOrder] using ho

theorem accessSound_cancelOrder {s : State} (h : AccessSound s) (i : Nat) : AccessSound (cancelOrder i s) := by
  unfold cancelOrder; split
  · exact h
  · rename_i o ho
    have hc := cancelledOrder_confined (h.get ho)
    refine accessSound_evalOrder (accessSound_evalLow ?_) i
    refine (accessSound_writeMirror (accessSound_putSome h i hc) hc.1).foldl _ _ fun t k _ ht => ?_
    split
    · split
      · exact accessSound_writeResult ht hc k
      · exact ht
    · exact ht

theorem accessSound_detachOrder {s : State} (h : AccessSound s) (i : Nat) : AccessSound (detachOrder i s) := by
  unfold detachOrder; split
  · exact h
  · rename_i o ho
    have hc : Order.Confined { o with detached := true } := ⟨(h.get ho).1, (h.get ho).2⟩
    have h1 := accessSound_dropWrites (accessSound_putSome h i hc) o.slot
    have h2 : AccessSound { dropWrites o.slot (putOrder i (some { o with detached := true }) s) with
        intake.detached := s.intake.detached + 1 } := h1.congr
    split
    · exact h
    · dsimp only
      split
      · exact accessSound_freeOrder h2 i
      · split
        · exact accessSound_cancelOrder h2 i
        · exact h2.congr

theorem accessSound_faultFrame {s : State} (h : AccessSound s) (i ei : Nat) (num : Word) :
    AccessSound (faultFrame i ei num s) := by
  unfold faultFrame; split
  · exact h
  · rename_i o ho
    split
    · have hc : Order.Confined { settledOrder .fault s.setup.params.remakeLimit ei num o with faultMark := true } :=
        have hc := settledOrder_confined (h.get ho) .fault s.setup.params.remakeLimit ei num
        ⟨hc.1, hc.2⟩
      have h1 := accessSound_writeResult (accessSound_putSome h i hc) hc ei
      dsimp only
      split
      · exact accessSound_cancelOrder h1 i
      · exact accessSound_evalOrder h1.congr i
    · exact h

theorem accessSound_releaseOrder {s : State} (h : AccessSound s) (i : Nat) {o : Order} (ho : o.Confined) :
    AccessSound (releaseOrder i o s) := by
  refine accessSound_evalOrder ?_ i
  have hc : Order.Confined { o with heldFrom := none } := ⟨ho.1, ho.2⟩
  have h1 := accessSound_enterState h i hc (o.heldFrom.getD .queued)
  unfold evalReleased; split
  · exact h1.congr
  · exact accessSound_evalWaitOf h1 i

/-! ## The sorter and the web map -/

theorem accessSound_divert {s : State} (h : AccessSound s) (o e : Nat) (n : Word) (reject : Bool) :
    AccessSound (divert o e n reject s) := by
  unfold divert; split
  · exact h
  · exact accessSound_settleFrame h _ _ _ _

theorem accessSound_offerPrint {s : State} (h : AccessSound s) (o e : Nat) (n : Word) (reject unverified : Bool) :
    AccessSound (offerPrint o e n reject unverified s) := by
  unfold offerPrint; split
  · split
    · exact h.congr
    · exact accessSound_divert h _ _ _ _
  · exact accessSound_divert h _ _ _ _

theorem accessSound_expireLane (k : Nat) {s : State} (h : AccessSound s) : AccessSound (expireLane k s) := by
  induction k generalizing s with
  | zero => exact h
  | succ k ih =>
    unfold expireLane; split
    · refine ih ?_
      unfold loseOldest; split
      · exact h
      · exact accessSound_divert h.congr _ _ _ _
    · exact h

theorem accessSound_strayLanding {s : State} (h : AccessSound s) (b : Nat) : AccessSound (strayLanding b s) := h.congr

theorem accessSound_deliver {s : State} (h : AccessSound s) (i : LaneItem) : AccessSound (deliver i s) := by
  unfold deliver; dsimp only
  have h1 : AccessSound (if i.dest = 0 then rejectLanding s else setBin i.dest { getBin s i.dest with
      good := (getBin s i.dest).good + 1
      state := if (getBin s i.dest).state = .reserved then .filling else (getBin s i.dest).state } s) := by
    split <;> exact h.congr
  split
  · exact h1
  · exact accessSound_settleFrame h1 _ _ _ _

theorem accessSound_misroute {s : State} (h : AccessSound s) (b : Nat) (i : LaneItem) :
    AccessSound (misroute b i s) := by
  have h1 : AccessSound (strayLanding b { s with sort.misroutes := s.sort.misroutes + 1 }) :=
    accessSound_strayLanding h.congr b
  unfold misroute; dsimp only; split
  · exact h1
  · exact accessSound_settleFrame h1 _ _ _ _

theorem accessSound_confirm {s : State} (h : AccessSound s) (b : Nat) : AccessSound (confirm b s) := by
  have h1 : AccessSound (popLane s) := h.congr
  unfold confirm; split
  · exact accessSound_strayLanding h b
  · refine accessSound_expireLane _ ?_
    split
    · exact accessSound_deliver h1 _
    · exact accessSound_misroute h1 _ _

theorem accessSound_exposureEnd {s : State} (h : AccessSound s) (n : Word) : AccessSound (exposureEnd n s) := by
  unfold exposureEnd; split
  · exact h
  · split
    · dsimp only; split
      · exact h.congr
      · split
        · exact accessSound_settleFrame h.congr _ _ _ _
        · exact h.congr
    · exact h

theorem accessSound_miscutEntry {s : State} (h : AccessSound s) (e : MapEntry) : AccessSound (miscutEntry e s) := by
  unfold miscutEntry; dsimp only; split
  · split
    · exact h.congr
    · exact accessSound_settleFrame h.congr _ _ _ _
  · exact h.congr

theorem accessSound_leaveMap {s : State} (h : AccessSound s) : AccessSound (leaveMap s) := by
  unfold leaveMap; split
  · exact h
  · dsimp only; split
    · exact accessSound_offerPrint h.congr _ _ _ _ _
    · exact h.congr

theorem accessSound_cutReport {s : State} (h : AccessSound s) (b : Word) (late : Bool) :
    AccessSound (cutReport b late s) := by
  unfold cutReport; split
  · exact h
  · split
    · refine accessSound_leaveMap ?_
      split
      · split
        · exact accessSound_miscutEntry h _
        · exact accessSound_miscutEntry (accessSound_miscutEntry h _) _
      · exact h
    · exact h

theorem accessSound_spoilMap {s : State} (h : AccessSound s) : AccessSound (spoilMap s) := by
  have h1 : AccessSound { s with web.map := s.web.map.map (fun (e : MapEntry) => { e with flags.spoiled := true }) } :=
    h.congr
  have h2 := h1.foldl spoilReport (s.web.map.map (fun (e : MapEntry) => { e with flags.spoiled := true }))
    fun t e _ ht => by
      unfold spoilReport; split
      · split
        · exact ht
        · exact accessSound_settleFrame ht _ _ _ _
      · exact ht
  exact h2.congr (by simp [spoilMap]) (by simp [spoilMap]) (by simp [spoilMap]) (by simp [spoilMap])
    (by simp [spoilMap]) (by simp [spoilMap]) (by simp [spoilMap])

/-! ## The fetch unit -/

theorem accessSound_evalFetch {s : State} (h : AccessSound s) : AccessSound (evalFetch s) := h.congr

theorem accessSound_accessFault {s : State} (h : AccessSound s) (n : Word) (addr : Long) :
    AccessSound (accessFault n addr s) := by
  unfold accessFault; split
  · exact h
  · rename_i x hx
    extract_lets s1 f1 s2 f2 s3 s4 s5
    have h2 : AccessSound s2 := h.congr rfl rfl rfl rfl rfl rfl rfl
    have h3 : AccessSound s3 := by
      unfold s3; split
      · split
        · exact h2.congr
        · exact h2
      · exact h2
    have h4 : AccessSound (recordFault .imageRead x.slot addr (spoilEntry n s3)) := h3.congr
    refine accessSound_evalFetch ?_
    unfold s5; split
    · split
      · exact accessSound_faultFrame h4 _ _ _
      · exact h4
    · exact h4

/-- A line that passes the window test is read inside one enabled window (R67). -/
theorem lineRead_confined {s : State} {im : ImageRec} {i : Nat} (hw : im.width ≠ 0)
    (ht : windowTest s.setup im i = true) :
    (Output.read (busAddr (lineAddr im i)) (im.width.toNat * 3)).Confined s := by
  refine .inr ⟨lineAddr im i, rfl, ?_⟩
  rw [windowTest, Bool.or_eq_true] at ht
  exact ht.resolve_left (by simpa using hw)

theorem accessSound_issueRead {s : State} (h : AccessSound s) : AccessSound (issueRead s) := by
  unfold issueRead; split
  · split
    · exact h
    · split
      · exact h
      · rename_i n i _ _ x _
        unfold issueLine; dsimp only
        split
        · exact accessSound_evalFetch h.congr
        · split
          · rename_i hw ht
            have h1 : AccessSound { s with fetch.reads := s.fetch.reads ++ [{
                number := n, index := i, addr := busAddr (lineAddr x.image i), discard := false, ended := none }] } :=
              h.congr
            exact accessSound_evalFetch (accessSound_emitAccess h1 _ (lineRead_confined hw ht)).congr
          · exact accessSound_accessFault h _ _
  · exact h

theorem accessSound_leaveRead {s : State} (h : AccessSound s) (r : LineRead) (how : ReadEnd) :
    AccessSound (leaveRead r how s) := by
  unfold leaveRead; split
  · exact accessSound_evalFetch h
  · split
    · exact accessSound_evalFetch h.congr
    · exact accessSound_accessFault h _ _

theorem accessSound_arrive {s : State} (h : AccessSound s) (place : Nat) (how : ReadEnd) :
    AccessSound (arrive place how s) := by
  have hd (n : Nat) : ∀ {s : State}, AccessSound s → AccessSound (drainReads n s) := by
    induction n with
    | zero => exact fun h => h
    | succ n ih =>
      intro s h
      unfold drainReads; split
      · exact h
      · split
        · exact h
        · exact ih (accessSound_leaveRead h.congr _ _)
  exact hd _ h.congr

/-! ## The engine and the cutter -/

theorem accessSound_dropCandidates {s : State} (h : AccessSound s) : AccessSound (dropCandidates s) := by
  refine h.withSweep _ fun w hw => ?_
  obtain ⟨v, hv, rfl⟩ := Option.map_eq_some_iff.1 hw
  exact { h.sweep hv with candidates := by simp }

theorem accessSound_dropRun {s : State} (h : AccessSound s) : AccessSound (dropRun s) :=
  h.congr rfl rfl rfl rfl rfl rfl rfl

theorem accessSound_enterPaused {s : State} (h : AccessSound s) : AccessSound (enterPaused s) := by
  have h0 : AccessSound (setEngine .paused s) := h.congr
  have h1 := accessSound_dropRun (accessSound_spoilMap (accessSound_dropCandidates h0))
  unfold enterPaused; dsimp only
  exact h1.congr

theorem accessSound_stoppage {s : State} (h : AccessSound s) (kind : FaultKind) : AccessSound (stoppage kind s) := by
  unfold stoppage; split
  · exact accessSound_enterPaused h.congr
  · exact accessSound_enterPaused h.congr
  · exact h.congr
  · exact h.congr
  · exact h

theorem accessSound_enterStopped {s : State} (h : AccessSound s) : AccessSound (enterStopped s) := by
  have h0 : AccessSound (emptyMap (wasteBehind (setEngine .stopped s))) := h.congr
  unfold enterStopped; dsimp only
  refine AccessSound.congr (accessSound_dropRun (s := { emptyMap (wasteBehind (setEngine .stopped s)) with
    cut.cursor := none, plan.switchFlag := false }) h0.congr)

theorem accessSound_clearReport {s : State} (h : AccessSound s) : AccessSound (clearReport s) := by
  unfold clearReport; split
  · exact accessSound_enterStopped h
  · exact h

theorem accessSound_cutTest {s : State} (h : AccessSound s) : AccessSound (cutTest s) := by
  unfold cutTest; split
  · exact h
  · split
    · exact accessSound_clearReport (accessSound_cutReport h.congr _ _)
    · exact h
    · exact accessSound_stoppage h _

theorem accessSound_homeChange {s : State} (h : AccessSound s) (active : Bool) : AccessSound (homeChange active s) := by
  unfold homeChange; split
  · exact h
  · split
    · split
      · exact accessSound_cutTest h.congr
      · exact h
    · split
      · exact h
      · exact h.congr
  · split
    · exact h.congr
    · exact h

theorem accessSound_strokeExpiry {s : State} (h : AccessSound s) : AccessSound (strokeExpiry s) := by
  unfold strokeExpiry; split
  · exact accessSound_stoppage h.congr _
  · exact h

theorem accessSound_takeMark {s : State} (h : AccessSound s) : AccessSound (takeMark s) := by
  unfold takeMark; split
  · split
    · exact h
    · split
      · exact accessSound_cutTest h.congr
      · exact h
  · exact h

/-! ## The planner's choice -/

theorem committedOrder_confined {o : Order} (ho : o.Confined) (ei : Nat) (remake : Bool) (n : Word) :
    (committedOrder ei remake n o).Confined := by
  simpa [Order.Confined, committedOrder] using ho

theorem accessSound_commitFrame {s : State} (h : AccessSound s) (i ei : Nat) (remake : Bool) :
    AccessSound (commitFrame i ei remake s) := by
  unfold commitFrame; split
  · exact h
  · rename_i o ho
    split
    · exact h
    · dsimp only
      have h0 := accessSound_putSome h i (committedOrder_confined (h.get ho) ei remake s.web.nextNumber)
      exact accessSound_evalOrder (accessSound_evalLow h0.congr) i

theorem accessSound_startOrder {s t : State} (h : AccessSound s) {i : Nat} {o : Order} (ho : o.Confined)
    (hs : startOrder i o s = some t) : AccessSound t := by
  unfold startOrder at hs; split at hs
  · cases hs
  · rename_i s1 bins hr
    obtain rfl := Option.some.inj hs
    obtain ⟨link, intake, setup, -, plan, -, -, -, -, -, -, -, -, -, -, -, -, -, -, -, out, pending⟩ :=
      reserveBins_frame _ _ _ _ _ _ hr
    have h1 : AccessSound s1 := h.congr out (by rw [link]) (by rw [link]) (by rw [plan]) (by rw [intake]) setup pending
    have hc : Order.Confined { o with bins := bins } := ⟨ho.1, ho.2⟩
    have hb := accessSound_writeBins (o := { o with bins := bins }) (accessSound_putSome h1 i hc) hc.1
    exact accessSound_enterState hb i hc _

theorem accessSound_stampAll {s : State} (h : AccessSound s) : AccessSound (stampAll s) := by
  refine h.withTable _ fun o ho => ?_
  obtain ⟨c, hc, hm⟩ := List.mem_map.1 ho
  obtain ⟨p, rfl, rfl⟩ := Option.map_eq_some_iff.1 hm
  have hp := h.order hc
  unfold stampWaiting; split
  · exact ⟨hp.1, hp.2⟩
  · exact hp

theorem mem_queueOrders {s : State} {x : Nat × Order} (hx : x ∈ queueOrders s) : getOrder s x.1 = some x.2 := by
  unfold queueOrders at hx
  obtain ⟨i, -, hi⟩ := List.mem_filterMap.1 hx
  obtain ⟨o, ho, rfl⟩ := Option.map_eq_some_iff.1 hi
  exact ho

theorem chooseStart_mem {s : State} {i ei : Nat} {o : Order} (h : chooseStart s = some (i, o, ei)) :
    getOrder s i = some o := by
  unfold chooseStart at h
  obtain ⟨x, hx, hm⟩ := List.exists_of_findSome?_eq_some h
  split at hm
  · obtain ⟨_, -, he⟩ := Option.map_eq_some_iff.1 hm
    cases he
    exact mem_queueOrders (List.mem_of_mem_filter hx)
  · cases hm

theorem accessSound_choose {s : State} (h : AccessSound s) : AccessSound (choose s) := by
  unfold choose; split
  · exact h.congr
  · split
    · exact h.congr
    · split
      · exact accessSound_commitFrame h _ _ _
      · split
        · exact accessSound_commitFrame h _ _ _
        · split
          · rename_i i o ei hc
            split
            · rename_i s1 hs
              exact accessSound_commitFrame (accessSound_startOrder h (h.get (chooseStart_mem hc)) hs) _ _ _
            · exact h.congr
          · exact h.congr

theorem accessSound_commitPoint {s : State} (h : AccessSound s) : AccessSound (commitPoint s) := by
  unfold commitPoint; split
  · exact accessSound_choose (accessSound_stampAll h)
  · exact h.congr
  · exact h

/-! ## The strobe -/

theorem accessSound_endFrame {s : State} (h : AccessSound s) (p : Word) : AccessSound (endFrame p s) := by
  unfold endFrame; split
  · rename_i n _
    exact (accessSound_exposureEnd h n).congr
  · exact h

@[simp] theorem exposeLine_setup (n : Word) (toneSet i : Nat) (a : LineAnswer) (s : State) :
    (exposeLine n toneSet i a s).2.setup = s.setup := by
  unfold exposeLine; split
  · rfl
  · simp

@[simp] theorem frameLine_setup (e : MapEntry) (f : FrameInfo) (p : Word) (s : State) :
    (frameLine e f p s).setup = s.setup := by
  simp only [frameLine, exposeLine_setup]
  split <;> simp

theorem accessSound_readyLine {s : State} (h : AccessSound s) (p : Word) : AccessSound (readyLine p s) := by
  unfold readyLine; split
  · exact h.congr
  · split
    · exact h.congr
    · exact h.congr

theorem accessSound_lineTiming {s : State} (h : AccessSound s) (paper : Bool) : AccessSound (lineTiming paper s) := by
  unfold lineTiming; split
  · exact h.congr
  · unfold rampStrobe; dsimp only; split
    · exact accessSound_stoppage h.congr _
    · exact h.congr
  · have h1 : AccessSound (endFrame s.line.w (advanceW (truncateLine s))) := accessSound_endFrame h.congr _
    unfold readyStrobe; dsimp only; split
    · exact accessSound_stoppage h1.congr _
    · have h2 : AccessSound (countBreak paper (endFrame s.line.w (advanceW (truncateLine s)))).1 := h1.congr
      exact (accessSound_readyLine h2 s.line.w).congr

theorem accessSound_runningStrobe {s : State} (h : AccessSound s) (good : Bool) (p : Word) :
    AccessSound (runningStrobe good p s) := by
  unfold runningStrobe; split
  · exact accessSound_cutTest h.congr
  · exact h

theorem accessSound_paperStrobe {s : State} (h : AccessSound s) (handles : Bool) :
    AccessSound (paperStrobe handles s) := by
  unfold paperStrobe; dsimp only; split
  · split
    · exact h.congr
    · exact accessSound_stoppage h.congr _
  · exact h.congr

theorem accessSound_strobe {s : State} (h : AccessSound s) (paper good : Bool) : AccessSound (strobe paper good s) := by
  have h1 : AccessSound (reportCutterPos (runHigh s) (lineTiming paper s)) := (accessSound_lineTiming h paper).congr
  have h2 := accessSound_paperStrobe (accessSound_runningStrobe h1 good s.line.w) (handlesPaperOut s)
  unfold strobe strobeCommit; split
  · exact accessSound_commitPoint h2
  · exact h2

theorem accessSound_webReady {s : State} (h : AccessSound s) : AccessSound (webReady s) := by
  unfold webReady readyCommit; split
  · exact accessSound_commitPoint h.congr
  · exact h.congr

theorem Sweep.begun_confined : Sweep.begun.Confined :=
  ⟨by simp [begun], by simp [begun], by simp [begun], by simp [begun], by simp [begun]⟩

theorem accessSound_startSweep {s : State} (h : AccessSound s) : AccessSound (startSweep s) := by
  unfold startSweep; split
  · exact h
  · refine (h.withSweep _ fun w hw => ?_).foldl _ _ fun t i hi ht => accessSound_emitRead ht (slotOffset_inside (List.mem_range.1 hi) (by decide))
    obtain rfl := Option.some.inj hw
    exact Sweep.begun_confined

theorem accessSound_enterRunning {s : State} (h : AccessSound s) (jam : Bool) : AccessSound (enterRunning jam s) := by
  have h0 : AccessSound (raiseRun (setEngine .running { s with cut.jam := jam })) := accessSound_ratePulse h.congr
  have h1 : AccessSound (releaseKnife (loadTimer (startSweep (raiseRun (setEngine .running { s with cut.jam := jam }))))) := by
    unfold releaseKnife; split <;> exact (accessSound_startSweep h0).congr
  unfold enterRunning
  extract_lets c1 s1 s2 s3
  have h3 : AccessSound s3 := by
    unfold s3; split
    · exact accessSound_stoppage h1 _
    · exact h1
  split
  · exact accessSound_webReady h3
  · exact h3

/-! ## Slot writes as they go out -/

theorem accessSound_issueWrite {s : State} (h : AccessSound s) {w : SlotWrite} (hw : w.Confined) :
    AccessSound (issueWrite w s) := by
  obtain ⟨hs, -, hk⟩ := hw
  have h1 : AccessSound (emitWrite (slotOffset w.slot w.offset) w.size w.value s) :=
    accessSound_emitWrite h (slotOffset_inside hs (by omega)) _
  have h2 : AccessSound (freeReturned w.slot (emitWrite (slotOffset w.slot w.offset) w.size w.value s)) := by
    unfold freeReturned; split
    · exact h1
    · split
      · split
        · exact accessSound_freeOrder h1 _
        · exact h1
      · exact h1
  unfold issueWrite; dsimp only; split
  · exact h2.congr
  · exact h1

theorem accessSound_issueList (l : List SlotWrite) (n : Nat) {s : State} (h : AccessSound s)
    (hl : ∀ w ∈ l, w.Confined) : AccessSound (issueList l n s) := by
  induction l generalizing n s with
  | nil => exact h.withWaiting _ (by simp)
  | cons w r ih =>
    cases n with
    | zero => exact h.withWaiting _ hl
    | succ n => exact ih n (accessSound_issueWrite h (hl w (by simp))) fun x hx => hl x (by simp [hx])

theorem accessSound_issueWaiting {s : State} (h : AccessSound s) (room : Option Nat) :
    AccessSound (issueWaiting room s) := by
  unfold issueWaiting; split
  · have h1 := accessSound_issueList (s.link.waiting.filter (fun w => !awaitsLoad s w.slot))
      (room.getD (s.link.waiting.filter (fun w => !awaitsLoad s w.slot)).length) h
      fun w hw => h.waiting w (List.mem_of_mem_filter hw)
    refine h1.withWaiting _ fun w hw => ?_
    rcases List.mem_append.1 hw with hw | hw
    · exact h1.waiting w hw
    · exact h.waiting w (List.mem_of_mem_filter hw)
  · exact accessSound_issueList _ _ h h.waiting

/-! ## Takes -/

theorem accessSound_nextTake {s : State} (h : AccessSound s) : AccessSound (nextTake s) := by
  unfold nextTake; split
  · exact h
  · rename_i w hw
    have hc := h.sweep hw
    split
    · exact h
    · rename_i c rest hr
      have hm : ∀ k ∈ c :: rest, k < Config.slots := hr ▸ hc.candidates
      split
      · refine accessSound_emitReads (h.withSweep _ fun v hv => ?_) (hm c (by simp)) _ (by decide)
        obtain rfl := Option.some.inj hv
        exact { hc with
          taking := fun k hk => by
            obtain rfl := Option.some.inj hk
            exact hm c (by simp)
          candidates := fun k hk => hm k (by simp [hk]) }
      · refine h.withSweep _ fun v hv => ?_
        obtain rfl := Option.some.inj hv
        exact { hc with candidates := by simp }

theorem accessSound_clearTake {s : State} (h : AccessSound s) : AccessSound (clearTake s) := by
  unfold clearTake; split
  · exact h
  · rename_i w hw
    refine h.withSweep _ fun v hv => ?_
    obtain rfl := Option.some.inj hv
    exact { h.sweep hw with taking := by simp, taken := by simp }

theorem accessSound_refuse {s : State} (h : AccessSound s) {slot : Nat} (hs : slot < Config.slots) (code : RefuseCode) :
    AccessSound (refuse slot code s) :=
  accessSound_pushWrite (accessSound_pushWrite (accessSound_pushWrite h hs (by decide) _) hs (by decide) _) hs
    (by decide) _

theorem accessSound_admissionWrites {s : State} (h : AccessSound s) {o : Order} (hs : o.slot < Config.slots) :
    AccessSound (admissionWrites o s) := by
  unfold admissionWrites; dsimp only
  refine AccessSound.foldl ?_ _ _ fun t i hi ht => accessSound_pushResultFields ht hs (List.mem_range.1 hi) _ _ _ _ _
  repeat' refine accessSound_pushWrite ?_ hs (by decide) _
  exact h

theorem accessSound_admitOrder {s : State} (h : AccessSound s) (i : Nat) {slot : Nat} (hs : slot < Config.slots)
    {d : TakeData} (hd : (TakeResult.data d).wellFormed = true) : AccessSound (admitOrder i slot d s) := by
  have hc : (orderOf s.setup slot s.intake.takeSeq d).Confined := by
    have hn : d.entries.length = min d.count.toNat 64 := by simpa [TakeResult.wellFormed] using hd
    exact ⟨hs, by simp [orderOf, hn]⟩
  have h1 : AccessSound (enterTable i (orderOf s.setup slot s.intake.takeSeq d) s) :=
    (accessSound_putSome h i hc).congr rfl rfl rfl rfl rfl rfl rfl
  have h2 := accessSound_pushPrice (accessSound_admissionWrites h1 hc.1) hs (.inl rfl)
    (estimate s.setup (orderOf s.setup slot s.intake.takeSeq d))
  exact accessSound_evalWaitOf (accessSound_evalLow h2) i

theorem accessSound_finishTake {s : State} (h : AccessSound s) {slot : Nat} (hs : slot < Config.slots)
    {d : TakeData} (hd : (TakeResult.data d).wellFormed = true) : AccessSound (finishTake slot d s) := by
  have h1 := accessSound_clearTake h
  unfold finishTake; dsimp only
  refine accessSound_nextTake ?_
  split
  · exact accessSound_refuse h1 hs _
  · split
    · exact accessSound_admitOrder h1 _ hs hd
    · exact h1

theorem accessSound_progress {s : State} (h : AccessSound s) (room : Option Nat) : AccessSound (progress room s) := by
  refine accessSound_issueWaiting ?_ room
  unfold resumeTake; split
  · exact h
  · rename_i w hw
    split
    · rename_i slot d ht
      split
      · exact h
      · obtain ⟨hs, hd⟩ := (h.sweep hw).taken slot d ht
        exact accessSound_finishTake h hs hd
    · exact h

/-- The print entry reads of a take lie in its slot. -/
theorem takeEntryReads_inside (result : TakeResult) {x : Nat × Nat} (hx : x ∈ takeEntryReads result) :
    x.1 + x.2 ≤ 0x1000 := by
  have he (n : Nat) (hn : n ≤ 64) (hx : x ∈ entryReads n) : x.1 + x.2 ≤ 0x1000 := by
    simp only [entryReads, List.mem_flatMap, List.mem_range, List.mem_map] at hx
    obtain ⟨i, hi, y, hy, rfl⟩ := hx
    have : y.1 + y.2 ≤ 32 := (by decide : ∀ y ∈ entryFields, y.1 + y.2 ≤ 32) y hy
    simp only [offEntries]; omega
  cases result with
  | data d => exact he _ (Nat.min_le_right _ _) hx
  | busError off =>
    simp only [takeEntryReads] at hx
    exact he Config.slots (by decide) (List.mem_of_mem_filter hx)

theorem accessSound_takeReads {s : State} (h : AccessSound s) {result : TakeResult}
    (hr : result.wellFormed = true) : AccessSound (takeReads result s) := by
  unfold takeReads; split
  · exact h
  · rename_i w hw
    split
    · exact h
    · rename_i slot hk
      have hs := (h.sweep hw).taking slot hk
      have h1 := accessSound_emitReads h hs (takeEntryReads result) fun x hx => takeEntryReads_inside result hx
      dsimp only; split
      · rename_i d
        refine accessSound_emitWrite (h1.withSweep _ fun v hv => ?_) (slotOffset_inside hs (by decide)) _
        obtain rfl := Option.some.inj hv
        refine { h.sweep hw with taking := by simp, taken := fun k d' hd => ?_ }
        cases hd
        exact ⟨hs, hr⟩
      · exact accessSound_nextTake (accessSound_clearTake h1.congr)

/-! ## Requests -/

theorem accessSound_dropRequest {s : State} (h : AccessSound s) (slot : Nat) : AccessSound (dropRequest slot s) := by
  unfold dropRequest; split
  · exact h
  · rename_i w hw
    refine h.withSweep _ fun v hv => ?_
    obtain rfl := Option.some.inj hv
    exact { h.sweep hw with requests := fun q hq => (h.sweep hw).requests q (List.mem_of_mem_filter hq) }

theorem accessSound_handRequest {s : State} (h : AccessSound s) (r : Request) (i : Nat) {o : Order} (ho : o.Confined) :
    AccessSound (handRequest r i o s) := by
  cases r with
  | hold =>
    have hc : Order.Confined { o with heldFrom := some o.state } := ⟨ho.1, ho.2⟩
    exact accessSound_enterState h i hc .held
  | release => exact accessSound_releaseOrder h i ho
  | cancel => exact accessSound_cancelOrder h i
  | other => exact h

theorem accessSound_answerRequest {s : State} (h : AccessSound s) (r : Request) {slot : Nat} (hs : slot < Config.slots)
    (code number : Byte) : AccessSound (answerRequest r slot code number s) := by
  unfold answerRequest; split
  · exact h
  · rename_i i _
    split
    · exact h
    · rename_i o ho
      split
      · exact h
      · have hc : Order.Confined { o with answered := number } := ⟨(h.get ho).1, (h.get ho).2⟩
        have h1 := accessSound_putSome (accessSound_dropRequest h slot) i hc
        extract_lets a o1 s1 s2
        have h2 : AccessSound s2 := by
          unfold s2; refine accessSound_writeAnswer ?_ hs _ _
          split
          · exact accessSound_handRequest h1 r i hc
          · exact h1
        split
        · exact accessSound_hoistAnswer h2 slot
        · exact h2

/-! ## Sweep steps -/

theorem accessSound_recordReads {s : State} (h : AccessSound s) (reads : List SlotRead) :
    AccessSound (recordReads reads s) := by
  refine h.foldl _ _ fun t x _ ht => ?_
  split
  · exact ht.congr
  · exact ht

/-- Place and value of an element of a list of at most 64. -/
theorem zipIdx_lt {α : Type} {l : List α} {x : α × Nat} (hx : x ∈ (l.take Config.slots).zipIdx) : x.2 < Config.slots := by
  have := (List.mem_zipIdx' hx).1
  simp only [List.length_take] at this; omega

theorem accessSound_endStepOne {s : State} (h : AccessSound s) (reads : List SlotRead) {w : Sweep} (hw : w.Confined) :
    AccessSound (endStepOne reads w s) := by
  have h1 : AccessSound (emitStepOne (reads.take Config.slots) s) := by
    refine h.foldl _ _ fun t x hx ht => accessSound_emitReads ht (zipIdx_lt hx) _ ?_
    unfold stepOneReads; split
    · simp
    · split
      · decide
      · split
        · split <;> decide
        · simp
  refine accessSound_recordReads (h1.withSweep _ fun v hv => ?_) _
  obtain rfl := Option.some.inj hv
  refine { hw with scans := fun x hx => ?_, requests := fun q hq => ?_ }
  · obtain ⟨y, hy, hs⟩ := List.mem_filterMap.1 hx
    obtain ⟨t, -, rfl⟩ := Option.map_eq_some_iff.1 hs
    exact zipIdx_lt hy
  · obtain ⟨y, hy, hs⟩ := List.mem_filterMap.1 hq
    unfold newRequest at hs; split at hs
    · split at hs
      · cases hs; exact zipIdx_lt hy
      · cases hs
    · cases hs

theorem accessSound_checkSlot {s : State} (h : AccessSound s) {x : SlotScan} (hx : x.slot < Config.slots) :
    AccessSound (checkSlot s x) := by
  unfold checkSlot; split
  · split
    · exact accessSound_detachOrder h _
    · exact h
  · split
    · exact accessSound_pushWrite (accessSound_pushWrite h hx (by decide) _) hx (by decide) _
    · exact h

theorem accessSound_setStep {s : State} (h : AccessSound s) (st : SweepStep) : AccessSound (setStep st s) := by
  unfold setStep; split
  · exact h
  · rename_i w hw
    refine h.withSweep _ fun v hv => ?_
    obtain rfl := Option.some.inj hv
    exact { h.sweep hw with requests := by simp }

theorem accessSound_endStepTwo {s : State} (h : AccessSound s) {w : Sweep} (hw : w.Confined) :
    AccessSound (endStepTwo w s) := by
  have h1 : AccessSound (answerAll w.requests s) :=
    h.foldl _ _ fun t q hq ht => accessSound_answerRequest ht _ (hw.requests q hq) _ _
  exact (accessSound_setStep (accessSound_issueWaiting h1 none) .three).foldl _ _
    fun t x hx ht => accessSound_checkSlot ht (hw.scans x hx)

theorem mem_foldr_insertCandidate {y : Nat × Bool × Word} {l : List (Nat × Bool × Word)} :
    y ∈ l.foldr insertCandidate [] ↔ y ∈ l := by
  induction l with
  | nil => simp
  | cons x r ih => simp [mem_insertCandidate, ih]

theorem mem_candidates {s : State} {scans : List SlotScan} {k : Nat} (hk : k ∈ candidates s scans) :
    ∃ x ∈ scans, x.slot = k := by
  obtain ⟨y, hy, rfl⟩ := List.mem_map.1 hk
  obtain ⟨x, hx, hs⟩ := List.mem_filterMap.1 (mem_foldr_insertCandidate.1 hy)
  refine ⟨x, hx, ?_⟩
  split at hs
  · obtain ⟨_, -, rfl⟩ := Option.map_eq_some_iff.1 hs
    rfl
  · cases hs

theorem accessSound_endStepThree {s : State} (h : AccessSound s) {w : Sweep} (hw : w.Confined) :
    AccessSound (endStepThree w s) := by
  unfold endStepThree; dsimp only
  refine accessSound_nextTake (AccessSound.congr (h.withSweep (some _) fun v hv => ?_) rfl rfl rfl rfl rfl rfl rfl)
  obtain rfl := Option.some.inj hv
  refine { hw with candidates := fun k hk => ?_ }
  dsimp only at hk; split at hk
  · obtain ⟨x, hx, rfl⟩ := mem_candidates hk
    exact hw.scans x hx
  · cases hk

theorem accessSound_readCell {s : State} (h : AccessSound s) : AccessSound (readCell s) := by
  unfold readCell; split
  · exact h
  · exact accessSound_emitRead h.congr (by decide)

theorem accessSound_endSweep {s : State} (h : AccessSound s) : AccessSound (endSweep s) := by
  unfold endSweep; split
  · exact h
  · split
    · exact h.withSweep none (by simp)
    · exact h

theorem accessSound_sweepStep {s : State} (h : AccessSound s) (reads : List SlotRead) :
    AccessSound (sweepStep reads s) := by
  unfold sweepStep; split
  · have h1 := accessSound_issueWaiting h none
    unfold beginStep; split
    · exact h1
    · rename_i w hw
      split
      · exact accessSound_endStepOne h1 reads (h1.sweep hw)
      · exact accessSound_endStepTwo h1 (h1.sweep hw)
      · exact accessSound_endStepThree h1 (h1.sweep hw)
      · split
        · exact accessSound_readCell (accessSound_setStep h1 _)
        · exact h1
      · exact accessSound_endSweep h1
  · exact h

/-! ## The cell, returns and write faults -/

theorem accessSound_cellReadDone {s : State} (h : AccessSound s) (r : CellResult) : AccessSound (cellReadDone r s) := by
  unfold cellReadDone; split
  · split
    · exact accessSound_endSweep (AccessSound.congr (s := s) h)
    · exact h
  · split
    · dsimp only; split
      · exact AccessSound.foldl h.congr _ _ fun t x hx ht => accessSound_emitRead ht
          ((by decide : ∀ x ∈ cellFields, offCell + x.1 + x.2 ≤ 0x50000) x hx)
      · exact accessSound_endSweep h.congr
    · exact h

theorem accessSound_cellRequest {s : State} (h : AccessSound s) (a : CellAnswer) (effect : State → State)
    (he : AccessSound s → AccessSound (effect s)) : AccessSound (cellRequest a effect s) := by
  unfold cellRequest; split
  · refine accessSound_endSweep (accessSound_emitWrite (accessSound_emitWrite ?_ (by decide) _) (by decide) _)
    split
    · exact (he h).congr
    · exact h.congr
  · exact h

theorem accessSound_beginReturn {s : State} (h : AccessSound s) (i : Nat) {o : Order} (ho : o.Confined) :
    AccessSound (beginReturn i o s) := by
  refine accessSound_pushWrite (accessSound_pushWrite (accessSound_pushPrice ?_ ho.1 (.inr rfl) _) ho.1 (by decide) _)
    ho.1 (by decide) _
  unfold oweAnswer; split
  · exact h
  · split
    · rename_i q _
      have hc : Order.Confined { o with answered := q.number } := ⟨ho.1, ho.2⟩
      exact accessSound_hoistAnswer (accessSound_writeAnswer (accessSound_putSome (accessSound_dropRequest h _) i hc) ho.1 _ _) _
    · exact h

theorem accessSound_slotReturn {s : State} (h : AccessSound s) (slot : Nat) : AccessSound (slotReturn slot s) := by
  unfold slotReturn; split
  · exact h
  · split
    · exact h
    · rename_i o ho
      split
      · split
        · exact accessSound_putSome h _ ⟨(h.get ho).1, (h.get ho).2⟩
        · exact accessSound_beginReturn h _ (h.get ho)
      · exact h

theorem accessSound_returnsAfterLoad {s : State} (h : AccessSound s) : AccessSound (returnsAfterLoad s) := by
  unfold returnsAfterLoad; split
  · exact h
  · refine h.foldl _ _ fun t i _ ht => ?_
    unfold returnDueOf; split
    · exact ht
    · rename_i o ho
      have hc : Order.Confined { o with returnDue := false } := ⟨(ht.get ho).1, (ht.get ho).2⟩
      split
      · exact accessSound_beginReturn (accessSound_putSome ht i hc) i hc
      · exact ht

theorem accessSound_slotWriteError {s : State} (h : AccessSound s) (slot offset : Nat) (standing : WriteStanding) :
    AccessSound (slotWriteError slot offset standing s) := by
  have h1 : AccessSound (recordFault .slotWrite slot (jobAddr s (slotOffset slot offset)) s) := h.congr
  unfold slotWriteError; dsimp only; split
  · exact h
  · exact h1
  · unfold failWrite; split
    · split
      · unfold failTaken; split
        · exact h1
        · split
          · exact accessSound_freeOrder (accessSound_dropWrites h1 _) _
          · exact accessSound_detachOrder h1 _
      · exact accessSound_detachOrder h1 _
    · split
      · exact accessSound_nextTake (accessSound_clearTake h1)
      · exact accessSound_dropWrites h1 slot

/-! ## The write-through and the setup store -/

/-- Every status block field lies inside the job area (1.2.2). -/
theorem statusField_inside {s : State} {x : StatusField} (hx : x ∈ statusFields s) : x.offset + x.size ≤ 0x50000 := by
  simp only [statusFields, List.mem_append, List.mem_flatMap, List.mem_range'_1] at hx
  obtain ((((((hx | hx) | hx) | hx) | ⟨b, hb, hx⟩) | hx) | hx) | hx := hx
  case inl.inl.inl.inr => 
    simp only [binFields, List.mem_cons, List.not_mem_nil, or_false] at hx
    rcases hx with rfl | rfl | rfl | rfl | rfl | rfl | rfl | rfl | rfl <;> dsimp only <;> omega
  all_goals
    revert x
    simp [magazineFields, rejectFields, counterFields]

theorem accessSound_writeFields {s : State} (h : AccessSound s) (l : List StatusField)
    (hl : ∀ x ∈ l, x.offset + x.size ≤ 0x50000) : AccessSound (l.foldl writeField s) :=
  h.foldl _ _ fun _ x hx ht => accessSound_emitWrite ht (hl x hx) _

theorem accessSound_writeBlock {s : State} (h : AccessSound s) : AccessSound (writeBlock s) :=
  accessSound_writeFields h _ fun _ => statusField_inside

theorem accessSound_publish {s : State} (h : AccessSound s) (before : State) : AccessSound (publish before s) := by
  have h1 : AccessSound { s with link.dirty := [] } := h.congr
  unfold publish; dsimp only; split
  · refine accessSound_writeFields h1 _ fun x hx => ?_
    obtain ⟨p, hp, rfl⟩ := List.mem_map.1 hx
    exact statusField_inside (List.of_mem_zip (List.mem_of_mem_filter hp)).1
  · exact h1

theorem setupField_inside {f : SetupField} (hf : f.inArea = true) : offSetup + f.offset + f.size ≤ 0x50000 := by
  cases f with
  | param p => cases p <;> decide
  | fullScale c => cases c <;> decide
  | _ =>
    simp only [SetupField.inArea, Bool.and_eq_true, decide_eq_true_eq] at hf
    simp only [offSetup, SetupField.offset, SetupField.size]
    omega

/-- The field read next stays inside the setup area (2.2, R27). -/
theorem nextField_inArea {f g : SetupField} {x : Setup} (hf : f.inArea = true) (hx : ∀ r ∈ x.products, r.breakCount ≤ 4)
    (hg : nextField f x = some g) : g.inArea = true := by
  have hb (p : Nat) : (getProduct x p).breakCount ≤ 4 := by
    unfold getProduct
    rw [List.getD_eq_getElem?_getD]
    cases hp : x.products[p]? with
    | none => decide
    | some r => exact hx r (List.mem_of_getElem? hp)
  have ha (p : Nat) : (afterProduct p).inArea = true := by
    unfold afterProduct; split <;> simp [SetupField.inArea]; omega
  cases f with
  | windowEnable w => 
    simp only [nextField, Option.some.injEq] at hg; subst hg
    split <;> simp [SetupField.inArea]; omega
  | discount c => 
    simp only [nextField, Option.some.injEq] at hg; subst hg
    split <;> simp [SetupField.inArea]; omega
  | tone c => 
    simp only [nextField, Option.some.injEq] at hg; subst hg
    split <;> simp [SetupField.inArea]; omega
  | uniformity c => 
    simp only [nextField] at hg; split at hg
    · cases hg; simp [SetupField.inArea]; omega
    · cases hg
  | productPrice p =>
    simp only [nextField, Option.some.injEq] at hg; subst hg
    split
    · exact ha p
    · simpa [SetupField.inArea] using hf
  | breakPrice p k =>
    simp only [nextField, Option.some.injEq] at hg; subst hg
    split
    · exact ha p
    · have := hb p
      simp [SetupField.inArea] at hf ⊢; omega
  | fullScale c => cases c <;> cases hg <;> rfl
  | param p => cases p <;> cases hg <;> rfl
  | _ => cases hg; simp_all [SetupField.inArea]

/-- Every product keeps the bound on its break count that an update of one of them keeps. -/
theorem onProduct_breaks {x : Setup} (hx : ∀ r ∈ x.products, r.breakCount ≤ 4) (p : Nat) {f : Product → Product}
    (hf : ∀ r : Product, r.breakCount ≤ 4 → (f r).breakCount ≤ 4) : ∀ r ∈ (onProduct p f x).products, r.breakCount ≤ 4 := by
  intro r hr
  obtain ⟨i, hi⟩ := List.mem_iff_getElem?.1 hr
  simp only [onProduct, List.getElem?_modify] at hi
  obtain ⟨q, hq, rfl⟩ := Option.map_eq_some_iff.1 hi
  have := hx q (List.mem_of_getElem? hq)
  split
  · exact hf q this
  · exact this

theorem storeValue_breaks (f : SetupField) (raw : Nat) {x : Setup} (hx : ∀ r ∈ x.products, r.breakCount ≤ 4) :
    ∀ r ∈ (storeValue f (fieldValue f raw).1 x).products, r.breakCount ≤ 4 := by
  cases f with
  | productBreaks p => exact onProduct_breaks hx p fun r _ => by simp [fieldValue, SetupField.range, clampTo]
  | productDefined p | productWidth p | productLength p | productPrice p => exact onProduct_breaks hx p fun r hr => hr
  | breakMinimum p k | breakPrice p k => exact onProduct_breaks hx p fun r hr => hr
  | _ => exact hx

@[simp] theorem noteRefused_stored (g : SetupGroup) (x : Setup) :
    (noteRefused g x).products = x.products ∧ (noteRefused g x).cursor = x.cursor := by
  unfold noteRefused; split <;> simp

@[simp] theorem noteClamp_stored (f : SetupField) (c : Bool) (x : Setup) :
    (noteClamp f c x).products = x.products ∧ (noteClamp f c x).cursor = x.cursor := by
  unfold noteClamp; split <;> simp

theorem storeField_breaks (f : SetupField) (raw : Nat) {x : Setup} (hx : ∀ r ∈ x.products, r.breakCount ≤ 4) :
    ∀ r ∈ (storeField f raw x).products, r.breakCount ≤ 4 := by
  have hy : ∀ r ∈ (noteClamp f (fieldValue f (raw % 2 ^ (8 * f.size))).2
      (storeValue f (fieldValue f (raw % 2 ^ (8 * f.size))).1 x)).products, r.breakCount ≤ 4 := by
    simpa using storeValue_breaks f _ hx
  unfold storeField; dsimp only; split
  · rename_i p _
    have := onProduct_breaks hy p (f := fun r => { r with usable := r.isDefined && !structuralError r }) fun r hr => hr
    unfold flagProduct; dsimp only; split
    · simpa using this
    · exact this
  · exact hy

theorem accessSound_setupRead {s : State} (h : AccessSound s) (ho : s.out = []) (result : Option (BitVec 64)) :
    AccessSound (setupRead result s) := by
  have hs (x : Setup) (hc : ∀ f, x.cursor = some f → f.inArea = true) (hb : ∀ r ∈ x.products, r.breakCount ≤ 4) :
      AccessSound { s with setup := x } := h.withSetup x (by simp [ho]) hc hb
  unfold setupRead; split
  · rename_i f hf
    refine accessSound_returnsAfterLoad (accessSound_evalFetch ?_)
    have hb (v : BitVec 64) := storeField_breaks f v.toNat h.breaks
    unfold loadRead; split
    · have h1 : AccessSound (endLoad .invalid s) :=
        hs { s.setup with state := .invalid, cursor := none } (by simp) h.breaks
      exact h1.congr
    · split
      · exact hs { s.setup with firstRefused := .header, state := .invalid, cursor := none } (by simp) h.breaks
      · rename_i v _
        dsimp only; split
        · rename_i g hg
          have hi := nextField_inArea (h.cursor f hf) (hb v) hg
          have := hs { storeField f v.toNat s.setup with cursor := some g } (by simpa using hi) (hb v)
          exact accessSound_emitRead this (setupField_inside hi)
        · exact hs { storeField f v.toNat s.setup with state := .valid, cursor := none } (by simp) (hb v)
  · exact h

/-! ## Register writes and resets -/

/-- A state that puts nothing out, holds no order and has nothing under way on the link. -/
theorem accessSound_idle {t : State} (out : t.out = []) (waiting : t.link.waiting = [])
    (table : ∀ o, some o ∉ t.plan.table) (sweep : t.intake.sweep = none) (cursor : t.setup.cursor = none)
    (breaks : ∀ r ∈ t.setup.products, r.breakCount ≤ 4) (pending : ∀ c ∈ t.pending, c.wellFormed = true) :
    AccessSound t where
  out := by simp [out]
  waiting := by simp [waiting]
  orders o ho := absurd ho (table o)
  takes := by simp [takeSlots, sweep]
  scans := by simp [sweep]
  requests := by simp [sweep]
  cursor := by simp [cursor]
  breaks := breaks
  commands := ⟨pending, by simp [sweep]⟩

/-- With nothing put out yet, the base may change. -/
theorem AccessSound.withArea {s : State} (h : AccessSound s) (ho : s.out = []) (base : Long) (set : Bool) :
    AccessSound { s with link.area := base, link.areaSet := set } :=
  { h with out := by simp [ho], takes := h.takes, commands := ⟨h.commands.pending, h.commands.taken⟩ }

theorem accessSound_takeArea {s : State} (h : AccessSound s) (ho : s.out = []) (base : Long) :
    AccessSound (takeArea base s) := by
  unfold takeArea; split
  · exact (((h.withArea ho 0 false).withWaiting [] (by simp)).withSweep none (by simp)).congr
  · exact accessSound_writeBlock (h.withArea ho base true).congr

theorem accessSound_stopEngine {s : State} (h : AccessSound s) : AccessSound (stopEngine s) := by
  unfold stopEngine; split
  · refine accessSound_clearReport (AccessSound.congr (s := dropCandidates (setEngine .stopping s)) ?_)
    exact accessSound_dropCandidates h.congr
  · exact accessSound_enterStopped h
  · exact h.congr

theorem accessSound_startLoad {s : State} (h : AccessSound s) (ho : s.out = []) : AccessSound (startLoad s) := by
  have h1 := h.withSetup { s.setup with
    state := .loading, clampCount := 0, firstRefused := .none, cursor := some .revision } (by simp [ho])
    (fun f hf => by cases hf; rfl) h.breaks
  exact accessSound_emitRead h1 (by decide)

theorem cutLoad_stored (x : Setup) : (cutLoad x).cursor = none ∧ (cutLoad x).products = x.products := by
  unfold cutLoad; split <;> exact ⟨rfl, rfl⟩

theorem accessSound_enterHalted {s : State} (h : AccessSound s) (ho : s.out = []) : AccessSound (enterHalted s) := by
  obtain ⟨hc, hp⟩ := cutLoad_stored s.setup
  have h1 := ((h.withSetup (cutLoad s.setup) (by simp [ho]) (by simp [hc]) (by rw [hp]; exact h.breaks)).withWaiting []
    (by simp)).withSweep none (by simp)
  exact h1.congr rfl rfl rfl rfl rfl rfl rfl

theorem accessSound_pinValues {s : State} (h : AccessSound s) : AccessSound (pinValues s) := by
  obtain ⟨hc, hp⟩ := cutLoad_stored s.setup
  exact accessSound_idle rfl rfl (by simp [pinValues, keepPins, State.reset, Planner.reset]) rfl hc
    (by rw [show (pinValues s).setup.products = s.setup.products from hp]; exact h.breaks) h.commands.pending

theorem accessSound_powerOn {s : State} (h : AccessSound s) (stable : Bool) : AccessSound (powerOn stable s) :=
  accessSound_idle rfl rfl (by simp [powerOn, keepPins, State.reset, Planner.reset]) rfl rfl
    (by decide : ∀ r ∈ Setup.reset.products, r.breakCount ≤ 4) h.commands.pending

theorem accessSound_softReset {s : State} (h : AccessSound s) : AccessSound (softReset s) := by
  obtain ⟨hc, hp⟩ := cutLoad_stored s.setup
  have h1 : AccessSound (softValues s) :=
    accessSound_idle rfl rfl (by simp [softValues, keepPins, State.reset, Planner.reset]) rfl hc
      (by rw [show (softValues s).setup.products = s.setup.products from hp]; exact h.breaks) h.commands.pending
  exact accessSound_writeBlock (accessSound_evalLow h1).congr

/-! ## Every command -/

theorem accessSound_act {s : State} (h : AccessSound s) {room : Option Nat} {f : State → State}
    (hf : ∀ u, AccessSound u → u.out = [] → AccessSound (f u)) : AccessSound (act room f s) := by
  unfold act perform; split
  · exact accessSound_publish (accessSound_progress (hf _ (accessSound_clearOut h) rfl) room) s
  · exact accessSound_clearOut h

theorem accessSound_actPin {s : State} (h : AccessSound s) {level f : State → State}
    (hl : ∀ u, AccessSound u → AccessSound (level u)) (hf : ∀ u, AccessSound u → AccessSound (f u)) :
    AccessSound (actPin level f s) := by
  have h1 := hl _ (accessSound_clearOut h)
  unfold actPin perform; split
  · exact accessSound_publish (accessSound_progress (hf _ h1) none) s
  · exact h1

theorem accessSound_recordChanged {s : State} (h : AccessSound s) : AccessSound (recordChanged s) :=
  accessSound_evalWait (accessSound_evalLow h)

theorem accessSound_completeChange {s : State} (h : AccessSound s) (m : Mag) : AccessSound (completeChange m s) := by
  have h1 : AccessSound { endChange s with paper.active := m, plan.switchFlag := false } := h.congr
  have h2 : AccessSound (forgetWaiting { endChange s with paper.active := m, plan.switchFlag := false }) := by
    refine h1.withTable _ fun o ho => ?_
    obtain ⟨c, hc, hm⟩ := List.mem_map.1 ho
    obtain ⟨p, rfl, rfl⟩ := Option.map_eq_some_iff.1 hm
    exact ⟨(h1.order hc).1, (h1.order hc).2⟩
  unfold completeChange; dsimp only
  exact h2.congr

theorem accessSound_statusRead {s t : State} (h : AccessSound s) (ht : execStatusRead s = .next t) : AccessSound t := by
  have h0 := accessSound_clearOut h
  unfold execStatusRead at ht
  obtain rfl := Host.Outcome.next.inj ht
  split
  · split
    · exact accessSound_publish (accessSound_progress h0.congr none) s
    · exact h0.congr
  · exact h0.congr

theorem accessSound_exec {s t : State} (h : AccessSound s) (c : Instr) (hc : c.wellFormed = true)
    (ht : exec c s = .next t) : AccessSound t := by
  cases c
  case statusRead => exact accessSound_statusRead h ht
  all_goals obtain rfl := Host.Outcome.next.inj ht
  case softReset =>
    split
    · exact accessSound_softReset h
    · exact accessSound_clearOut h
  case powerOnReset stable => exact accessSound_powerOn h stable
  case pinReset => exact (accessSound_pinValues h).congr rfl rfl rfl rfl rfl rfl rfl
  case resetLineAsserted => exact (accessSound_pinValues h).congr rfl rfl rfl rfl rfl rfl rfl
  case presentSensorInactive m =>
    refine accessSound_actPin h (fun u hu => ?_) fun u hu => accessSound_recordChanged hu.congr
    unfold senseEmpty; split <;> exact hu.congr
  case presentSensorActive m => exact accessSound_actPin h (fun u hu => hu.congr) fun u hu => hu
  case webReadyRise =>
    refine accessSound_actPin h (fun u hu => hu.congr) fun u hu => ?_
    split
    · exact accessSound_webReady hu
    · exact hu
  case webReadyFall =>
    refine accessSound_actPin h (fun u hu => hu.congr) fun u hu => ?_
    split
    · exact accessSound_stoppage hu _
    · exact hu
  case knifeHomeSensor active =>
    exact accessSound_actPin h (fun u hu => hu.congr) fun u hu => accessSound_homeChange hu active
  case jamSensorActive =>
    refine accessSound_actPin h (fun u hu => hu.congr) fun u hu => ?_
    split
    · exact accessSound_stoppage hu _
    · exact hu
  all_goals refine accessSound_act h fun u hu ho => ?_
  case areaWrite value =>
    split
    · exact accessSound_takeArea hu ho _
    · exact hu.congr
  case go jam =>
    split
    · exact accessSound_enterRunning hu jam
    · exact hu.congr
  case stop => exact accessSound_stopEngine hu
  case loadSetup =>
    split
    · exact accessSound_startLoad hu ho
    · exact hu.congr
  case nudge =>
    split
    · exact (accessSound_startSweep hu).congr
    · exact hu.congr
  case refusedControlValue value => exact hu.congr
  case ignoredRegisterWrite value => exact hu
  case sweepTimerExpiry =>
    split
    · exact accessSound_startSweep hu.congr
    · exact hu
  case cellPollExpiry =>
    split
    · split
      · exact hu.congr
      · exact accessSound_readCell hu.congr
    · exact hu
  case sweepStepComplete reads room => exact accessSound_sweepStep hu reads
  case hold slot number => exact accessSound_answerRequest hu _ slot.isLt _ _
  case release slot number => exact accessSound_answerRequest hu _ slot.isLt _ _
  case cancel slot number => exact accessSound_answerRequest hu _ slot.isLt _ _
  case slotRequestNotApplicable slot code number => exact accessSound_answerRequest hu _ slot.isLt _ _
  case takeReadsComplete result room stale =>
    split
    · exact hu
    · exact accessSound_takeReads hu hc
  case slotWriteFault slot offset standing => exact accessSound_slotWriteError hu _ _ _
  case statusBlockWriteError beforeReset =>
    split
    · exact hu
    · exact accessSound_enterHalted hu ho
  case machineRequestCellRead result stale =>
    split
    · exact hu
    · exact accessSound_cellReadDone hu result
  case loadPaper m w f t l k =>
    refine accessSound_cellRequest hu _ _ fun hu => ?_
    split
    · exact accessSound_recordChanged hu.congr
    · exact hu
  case clearPaper m =>
    refine accessSound_cellRequest hu _ _ fun hu => ?_
    split
    · exact accessSound_recordChanged hu.congr
    · exact hu
  case resume jam => exact accessSound_cellRequest hu _ _ fun hu => accessSound_enterRunning hu jam
  case changeoverNow => exact accessSound_cellRequest hu _ _ fun hu => hu.congr
  case releaseBin b => exact accessSound_cellRequest hu _ _ fun hu => hu.congr
  case machineRequestNotApplicable code => exact accessSound_cellRequest hu _ _ fun hu => hu
  case idleTimerExpiry =>
    split
    · dsimp only; split <;> exact hu.congr
    · exact hu
  case slotReturn slot room => exact accessSound_slotReturn hu _
  case setupReadComplete result stale =>
    split
    · exact hu
    · exact accessSound_setupRead hu ho result
  case changeDone =>
    split
    · exact accessSound_completeChange hu _
    · exact hu
  case changeoverTimerExpiry =>
    split
    · exact accessSound_stoppage hu.congr _
    · exact hu
  case lineStrobe paper good => exact accessSound_strobe hu paper good
  case strobeSupervisionExpiry =>
    split
    · exact accessSound_stoppage hu.congr _
    · exact hu
  case ratePeriod =>
    split
    · exact accessSound_ratePulse hu
    · exact hu
  case punchEnd => exact hu.congr
  case pulseEnd element channel => exact hu.congr
  case lampBlinkToggle rate => split <;> exact hu.congr
  case lineReadIssue => exact accessSound_issueRead hu
  case lineReadComplete place result => exact accessSound_arrive hu place _
  case knifeTimerExpiry => exact accessSound_strokeExpiry hu
  case mark => exact accessSound_takeMark hu
  case webClear => exact accessSound_clearReport hu
  case gateArrival => exact hu.congr
  case deliveryConfirmation bin => exact accessSound_confirm hu bin
  case sorterDeadline => exact accessSound_expireLane _ hu.congr
  case keyScanSample pressed => dsimp only; exact hu.congr

/-- Settles O59: every operation of a step keeps what accesses are formed from. -/
theorem accessesStayConfined : Obligations.AccessesStayConfined := by
  intro s t h ht
  unfold step at ht; split at ht
  · obtain rfl := Host.Outcome.next.inj ht
    exact accessSound_act h fun u hu _ => hu.congr
  · rename_i c rest hp
    have h1 : AccessSound { s with pending := rest } :=
      { h with out := h.out, takes := h.takes
               commands := ⟨fun x hx => h.commands.pending x (by simp [hp, hx]), h.commands.taken⟩ }
    exact accessSound_exec h1 c (h.commands.pending c (by simp [hp])) ht

end Sys2Proof.Machine
end

section
/-! The register window, the timers and the write-through (R1 to R8, R22). -/

open Sys2Proof Sys2Proof.Machine

namespace Sys2Proof.Machine

set_option Elab.async false

/-- Settles O2: a step on an empty queue is `idle`, which a live part takes as `act` and any other ignores. -/
theorem emptyQueueTicks : Obligations.EmptyQueueTicks := by
  intro s hp
  have hs : step s = .next (idle s) := by unfold step; rw [hp]
  refine ⟨fun hl => ?_, fun hl => ?_⟩
  · rw [hs, idle, act_live hl]; rfl
  · rw [hs, idle, act, if_neg (by simp [hl])]

/-! ## What a command answers -/

/-- A command that the part takes only where it is live answers with its effect. -/
theorem answers_act {c : Instr} {room : Option Nat} {s e : State} {f : State → State} (hl : live s = true)
    (hc : exec c s = .next (act room f s)) (he : f (clearOut s) = e) : Answers c room s e := by
  rw [Answers, hc, act_live hl, he]

@[simp] theorem moving_clearOut (s : State) : moving (clearOut s) = moving s := rfl

/-! ## The register window -/

theorem areaTaken_false {s : State}
    (h : s.eng.state ≠ .stopped ∨ s.setup.state = .loading ∨ ∃ c ∈ s.plan.table, c ≠ none) : areaTaken s = false := by
  rw [Bool.eq_false_iff, ne_eq, areaTaken_iff]
  rintro ⟨h1, h2, h3⟩
  rcases h with h | h | ⟨c, hc, h⟩
  · exact h h1
  · exact h2 h
  · exact h (h3 c hc)

/-- Settles O11: each write is refused on the branch of its effect that raises REFUSED alone. -/
theorem refusedWritesOnlySetRefused : Obligations.RefusedWritesOnlySetRefused := by
  refine ⟨fun s hl => ⟨fun value h => ?_, fun jam h => ?_, fun h => ?_, fun h => ?_, fun h1 h2 => ?_, fun value => ?_⟩,
    fun value s hl => answers_act hl rfl rfl⟩
  · exact answers_act hl rfl (if_neg (by simp [areaTaken_false (s := clearOut s) h]))
  · refine answers_act hl rfl (if_neg ?_)
    rcases h with h | h | h <;> simp [goTaken, h]
  · refine answers_act hl rfl ?_
    rcases h with h | h <;> simp [stopEngine, h, raiseRefused]
  · refine answers_act hl rfl (if_neg ?_)
    rcases h with h | h | h <;> simp [loadTaken, h]
  · exact answers_act hl rfl (if_neg (by simp [moving, h1, h2]))
  · exact answers_act hl rfl rfl

/-- Settles O10: the write is taken (`areaTaken_iff`), and the two bases are the branches of its effect. -/
theorem areaWriteTaken : Obligations.AreaWriteTaken := by
  intro value s hl h1 h2 h3 base
  have ht : areaTaken (clearOut s) = true := (areaTaken_iff _).2 ⟨h1, h2, h3⟩
  refine ⟨fun hb => ?_, fun hb => ?_⟩ <;> refine answers_act hl rfl ((if_pos ht).trans ?_) <;> rw [baseOf_eq]
  · exact if_pos hb
  · refine (if_neg hb).trans ?_
    rw [writeBlock, foldl_writeField]
    rfl

/-! ## The STATUS word -/

theorem bit_lt (b : Bool) : bit b < 2 := by cases b <;> decide

theorem testBit_bit {n i : Nat} {b : Bool} (h : n / 2 ^ i % 2 = bit b) : n.testBit i = b := by
  rw [Nat.testBit_eq_decide_div_mod_eq, h]; cases b <;> rfl

/-- The fields of a word that is put together from them, each below its width. -/
theorem statusWord_toNat (s : State) (hu : s.link.unreported ≤ 64) :
    (statusWord s).toNat = s.eng.state.code + 8 * s.eng.resetKind.code + 32 * bit (s.setup.state == .valid)
      + 256 * bit s.link.causes.completed + 512 * bit s.link.causes.attention
      + 1024 * bit s.link.causes.fault + 2048 * bit s.link.causes.refused + 65536 * s.link.unreported := by
  have h1 : s.eng.state.code < 5 := by cases s.eng.state <;> decide
  have h2 : s.eng.resetKind.code < 3 := by cases s.eng.resetKind <;> decide
  have := bit_lt (s.setup.state == .valid)
  have := bit_lt s.link.causes.completed
  have := bit_lt s.link.causes.attention
  have := bit_lt s.link.causes.fault
  have := bit_lt s.link.causes.refused
  rw [statusWord, BitVec.toNat_ofNat, Nat.mod_eq_of_lt (by omega)]

/-- Settles O9: a read makes the word before it clears anything, and the word's fields do not overlap. -/
theorem statusReadReturnsWordAndClears : Obligations.StatusReadReturnsWordAndClears := by
  refine ⟨fun s => ⟨fun hl => ?_, fun h1 h2 => ?_, fun h => ?_⟩, fun s hu => ?_⟩
  · have hh : s.eng.hold = .released := by
      simp only [live, Bool.and_eq_true, beq_iff_eq] at hl
      exact hl.2
    rw [Answers, exec, execStatusRead, if_pos hh, if_pos hl]
    rfl
  · rw [exec, execStatusRead, if_pos h2, if_neg (by simp [live, h1])]
    rfl
  · rw [exec, execStatusRead, if_neg h]
  · intro w
    have hw : w.toNat = _ := statusWord_toNat s hu
    have h1 : s.eng.state.code < 5 := by cases s.eng.state <;> decide
    have h2 : s.eng.resetKind.code < 3 := by cases s.eng.resetKind <;> decide
    have h3 := bit_lt (s.setup.state == .valid)
    have h4 := bit_lt s.link.causes.completed
    have h5 := bit_lt s.link.causes.attention
    have h6 := bit_lt s.link.causes.fault
    have h7 := bit_lt s.link.causes.refused
    have field (i n v : Nat) (h : w.toNat / 2 ^ i % 2 ^ n = v % 2 ^ n) : w.extractLsb' i n = BitVec.ofNat n v :=
      BitVec.eq_of_toNat_eq (by simpa [Nat.shiftRight_eq_div_pow] using h)
    have flag (i : Nat) (b : Bool) (h : w.toNat / 2 ^ i % 2 = bit b) : w.getLsbD i = b := testBit_bit h
    refine ⟨field 0 3 _ ?_, field 3 2 _ ?_, flag 5 _ ?_, field 6 2 0 ?_, flag 8 _ ?_, flag 9 _ ?_, flag 10 _ ?_,
      flag 11 _ ?_, field 12 4 0 ?_, field 16 7 _ ?_, field 23 9 0 ?_⟩ <;> rw [hw] <;> omega

/-! ## The write-through -/

/-- Settles O4: `publish` writes the fields of its list in one pass (`foldl_writeField`), and that list is the changed ones. -/
theorem changedFieldsAreWritten : Obligations.ChangedFieldsAreWritten := by
  refine fun before s => ⟨fun ha hl => ?_, fun h => ?_, fun st => rfl, fun kind slot addr => ?_⟩
  · simp only [publish, ha, hl, Bool.and_self, if_true, foldl_writeField, changedFields, List.map_map]
    rfl
  · simp only [publish]
    rw [if_neg]
    rcases h with h | h <;> simp [h]
  · unfold recordFault; split <;> rfl

/-! ## Timers -/

theorem polling_iff (s : State) : polling s = true ↔
    (s.eng.state = .stopped ∨ s.eng.state = .paused) ∧ s.link.areaSet = true ∧ s.intake.timer ≠ none := by
  simp [polling, Option.isSome_iff_ne_none, and_assoc]

/-- While a read of the cell is out, or an answer owed, no second one is issued (log entry 20). -/
theorem readCell_busy {s : State} (h : s.intake.cellRead = true ∨ s.intake.cellOwed = true) : readCell s = s := by
  rw [readCell, if_pos (by simpa using h)]

theorem readCell_issued {s : State} (ha : s.link.areaSet = true) (hr : s.intake.cellRead = false)
    (ho : s.intake.cellOwed = false) :
    readCell s = { s with intake.cellRead := true, out := s.out ++ [.read (jobAddr s 0x200) 4] } := by
  rw [readCell, if_neg (by simp [hr, ho])]
  exact emitRead_set _ _ _ ha

/-- Settles O16: each expiry by whether its timer runs, and the cell's by whether an access of it is left (`readCell_busy`). -/
theorem timerExpiries : Obligations.TimerExpiries := by
  refine ⟨fun s hl => ⟨fun hm ht => ?_, fun h => ?_, fun hs ha ht => ?_, fun h => ?_⟩,
    fun s hl => ⟨fun ht hu => ?_, fun ht hu => ?_, fun ht => ?_⟩⟩
  · refine answers_act hl rfl ((if_pos ?_).trans ?_)
    · simp [hm, Option.isSome_iff_ne_none.2 ht]
    · rw [startSweep_eq]; rfl
  · refine answers_act hl rfl (if_neg ?_)
    rcases h with h | h <;> simp [h]
  · refine answers_act hl rfl ((if_pos ((polling_iff _).2 ⟨hs, ha, ht⟩)).trans ?_)
    dsimp only
    cases hw : s.intake.sweep with
    | some w => simp [hw, loadTimer, clearOut]
    | none =>
      rw [if_neg (by simp [hw])]
      by_cases hb : s.intake.cellRead = true ∨ s.intake.cellOwed = true
      · rw [readCell_busy (s := loadTimer (clearOut s)) hb]
        rcases hb with hb | hb <;> simp [hb, hw, loadTimer, clearOut]
      · push Not at hb
        simp only [ne_eq, Bool.not_eq_true] at hb
        rw [readCell_issued (s := loadTimer (clearOut s)) ha hb.1 hb.2]
        simp [hb.1, hb.2, hw, loadTimer, clearOut, jobAddr]
  · refine answers_act hl rfl (if_neg fun hp => ?_)
    obtain ⟨hs, ha, ht⟩ := (polling_iff _).1 hp
    rcases h with h | h | h
    · rcases (moving_iff s).1 h with h | h <;> exact absurd hs (by simp [h])
    · exact absurd ha (by simp [h])
    · exact ht h
  · refine answers_act hl rfl ((if_pos (Option.isSome_iff_ne_none.2 ht)).trans ?_)
    exact if_pos hu
  · refine answers_act hl rfl ((if_pos (Option.isSome_iff_ne_none.2 ht)).trans ?_)
    exact if_neg (by simp [hu])
  · exact answers_act hl rfl (if_neg (by simp [ht]))

/-! ## The checks of a take -/

/-- The first of four checks that fails. -/
theorem validate_cases (x : Setup) (d : TakeData) :
    (validate x d = some .badCount ↔ badCount d = true)
    ∧ (validate x d = some .tooLarge ↔ ¬badCount d = true ∧ tooLarge d = true)
    ∧ (validate x d = some .badProduct ↔ ¬badCount d = true ∧ ¬tooLarge d = true ∧ badProduct x d = true)
    ∧ (validate x d = some .badImage ↔
        ¬badCount d = true ∧ ¬tooLarge d = true ∧ ¬badProduct x d = true ∧ badImage x d = true)
    ∧ (validate x d = none ↔
        ¬badCount d = true ∧ ¬tooLarge d = true ∧ ¬badProduct x d = true ∧ ¬badImage x d = true) := by
  unfold validate
  cases badCount d <;> cases tooLarge d <;> cases badProduct x d <;> cases badImage x d <;> simp

theorem badCount_iff (d : TakeData) : badCount d = true ↔ d.count.toNat = 0 ∨ 64 < d.count.toNat
    ∨ ∃ e ∈ d.entries, e.copies.toNat = 0 ∨ 99 < e.copies.toNat := by
  have h0 (b : Byte) : b = 0#8 ↔ b.toNat = 0 := by rw [← BitVec.toNat_inj]; rfl
  simp only [badCount, Bool.or_eq_true, beq_iff_eq, decide_eq_true_eq, List.any_eq_true, or_assoc, ← h0]
  rfl

theorem badProduct_iff (x : Setup) (d : TakeData) : badProduct x d = true ↔
    ∃ e ∈ d.entries, 31 < e.product.toNat ∨ (getProduct x e.product.toNat).isDefined = false
      ∨ (getProduct x e.product.toNat).usable = false := by
  simp [badProduct]

theorem badImage_iff (x : Setup) (d : TakeData) : badImage x d = true ↔
    ∃ e ∈ d.entries, e.flags ≠ 1 ∧
      (e.image.height.toNat ≠ (getProduct x e.product.toNat).length
        ∨ 10 * (getProduct x e.product.toNat).width < e.image.left.toNat + e.image.width.toNat
        ∨ e.image.stride.toNat < 3 * e.image.width.toNat
        ∨ ∃ i < e.image.height.toNat, windowTest x e.image i = false) := by
  simp [badImage, badImageEntry, patternOf, or_assoc, Nat.mul_comm]

theorem windowTest_iff (x : Setup) (im : ImageRec) (i : Nat) : windowTest x im i = true ↔ im.width.toNat = 0 ∨
    ∃ w ∈ x.windows, w.enable = true
      ∧ w.base.toNat ≤ im.addr.toNat + i * im.stride.toNat
      ∧ im.addr.toNat + i * im.stride.toNat + 3 * im.width.toNat ≤ w.base.toNat + w.length.toNat
      ∧ im.addr.toNat + i * im.stride.toNat + 3 * im.width.toNat ≤ 2 ^ 64 := by
  have h0 : im.width = 0#16 ↔ im.width.toNat = 0 := by rw [← BitVec.toNat_inj]; rfl
  simp [windowTest, insideWindow, lineAddr, h0, and_assoc, Nat.mul_comm]

/-- Settles O20, by the cases of the checks (`validate_cases`) and of the window test (`windowTest_iff`). -/
theorem refuseCodeOfFirstFailingCheck : Obligations.RefuseCodeOfFirstFailingCheck := by
  refine ⟨fun x d => ?_, windowTest_iff⟩
  intro bad1 bad2 bad3 bad4
  have h2 : tooLarge d = true ↔ bad2 := decide_eq_true_iff
  have h := validate_cases x d
  rw [badCount_iff, h2, badProduct_iff, badImage_iff] at h
  exact h

end Sys2Proof.Machine
end

section
/-! Slot writes, and the machine request cell (R4, R6, R7, R20, R21, R176). -/

open Sys2Proof Sys2Proof.Machine

namespace Sys2Proof.Machine

set_option Elab.async false

/-! ## Where a slot write takes its place -/

/-- A write passes those before it that are of another slot, or of another field and no RETURNED write. -/
theorem insertWrite_append (w : SlotWrite) (before rest : List SlotWrite)
    (h : ∀ y ∈ before, y.slot = w.slot → y.offset ≠ w.offset ∧ y.offset ≠ 0) :
    insertWrite w (before ++ rest) = before ++ insertWrite w rest := by
  induction before with
  | nil => rfl
  | cons y r ih =>
    have hy := h y (by simp)
    have h1 : (y.slot = w.slot && y.offset = w.offset) = false := by
      rw [← Bool.not_eq_true]; simp only [Bool.and_eq_true, decide_eq_true_eq]; exact fun hh => (hy hh.1).1 hh.2
    have h2 : (y.slot = w.slot && y.offset = offToken) = false := by
      rw [← Bool.not_eq_true]; simp only [Bool.and_eq_true, decide_eq_true_eq]; exact fun hh => (hy hh.1).2 hh.2
    simp only [List.cons_append, insertWrite, h1, h2]
    simp [ih fun z hz => h z (by simp [hz])]

/-- With no write of this field and no RETURNED write of the slot waiting, a write goes behind the others. -/
theorem insertWrite_last (w : SlotWrite) (l : List SlotWrite)
    (h : ∀ y ∈ l, y.slot = w.slot → y.offset ≠ w.offset ∧ y.offset ≠ 0) : insertWrite w l = l ++ [w] := by
  have := insertWrite_append w l [] h
  rwa [List.append_nil] at this

/-- A write that waits because its order's return waits for a setup load (R176). -/
theorem awaitsLoad_noToken {s : State} (h : ∀ x ∈ s.link.waiting, x.offset ≠ 0) (slot : Nat) :
    awaitsLoad s slot = (match (orderOfSlot s slot).bind (getOrder s) with
      | some o => o.state == .complete && !o.detached
      | none => false) := by
  have hr : returnWaiting s slot = false := by
    simp only [returnWaiting, List.any_eq_false]
    intro x hx; simp [h x hx, offToken]
  rw [awaitsLoad, hr]; rfl

/-- Settles O3: the merge by `insertWrite`, case by case, and what goes out by `issueList_plain` on the writes that do not wait
for a load. -/
theorem slotWritesMergeAndGoOutInOrder : Obligations.SlotWritesMergeAndGoOutInOrder := by
  refine ⟨fun slot offset size value s => ?_, fun s ht => ⟨fun hx => ?_, fun hw room => progress_idle ht hw room⟩⟩
  · intro after w
    refine ⟨insertWrite_mem _ _, fun x hx => insertWrite_other _ _ _ hx, fun h => insertWrite_last w _ h, fun before rest x hs hb hx => ?_⟩
    have ha : after = before ++ insertWrite w (x :: rest) := by
      rw [← insertWrite_append w before _ hb, ← hs]; rfl
    refine ⟨fun ho => ?_, fun ho h0 => ?_⟩ <;> rw [ha]
    · simp [insertWrite, hx, ho, w]
    · have h1 : ¬0 = offset := h0 ▸ ho
      simp [insertWrite, hx, w, h0, h1, offToken]
  · intro kept
    rw [progress, resumeTake_none ht]
    by_cases hl : s.setup.state = .loading
    · have hk : ∀ x, awaitsLoad s x.slot = kept x := fun x => by
        rw [awaitsLoad_noToken hx]; simp only [kept, hl]; rfl
      rw [issueWaiting_loading none hl]
      simp only [hk]
      rw [issueList_plain _ (fun x h => hx x (List.mem_of_mem_filter h)) _ (by simp)]
      simp
    · have hk : ∀ x, kept x = false := fun x => by simp [kept, hl]
      rw [issueWaiting_due none hl, issueList_plain _ hx _ (by simp)]
      simp [hk]

/-! ## The machine request cell -/

theorem foldl_emitRead_fields (fields : List (Nat × Nat)) (base : Nat) (s : State) :
    fields.foldl (fun s x => emitRead (base + x.1) x.2 s) s = { s with out := s.out ++
      (if s.link.areaSet then fields.map (fun x => .read (jobAddr s (base + x.1)) x.2) else []) } := by
  induction fields generalizing s with
  | nil => simp
  | cons x rest ih =>
    rw [List.foldl_cons, ih]
    simp only [emitRead, emitAccess_out]
    split <;> simp [jobAddr]

theorem byte_le_one {m : Byte} (h : m.toNat ≤ 1) : m = 0 ∨ m = 1 := by bv_omega

theorem magOf_above {m : Byte} (h : 1 < m.toNat) : magOf m = none := by
  unfold magOf
  rw [if_neg (by rintro rfl; simp at h), if_neg (by rintro rfl; simp at h)]

/-- A request of the cell answered other than DONE changes nothing but the answer (R7). -/
theorem answers_cell {c : Instr} {s : State} {a : State → CellAnswer} {f : State → State} (hl : live s = true)
    (hc : exec c s = .next (act none (fun s => cellRequest (a s) f s) s)) (ha : s.link.areaSet = true)
    (ho : s.intake.cellOwed = true) {v : CellAnswer} (hv : a s = v) (hcl : a (clearOut s) = a s) (hne : v ≠ .done) :
    Answers c none s (cellAnswered v.code (clearOut s)) := by
  refine answers_act hl hc ?_
  rw [hcl, hv, cellRequest_eq v f (clearOut s) ha ho fun h => absurd h hne, if_neg hne]

/-- A request answered DONE makes its effect, and then its answer (R7). -/
theorem answers_done {c : Instr} {s e : State} {a : State → CellAnswer} {f : State → State} (hl : live s = true)
    (hc : exec c s = .next (act none (fun s => cellRequest (a s) f s) s)) (ha : s.link.areaSet = true)
    (ho : s.intake.cellOwed = true) (hv : a s = .done) (hcl : a (clearOut s) = a s) (he : f (clearOut s) = e)
    (hset : e.link.areaSet = true) : Answers c none s (cellAnswered 1 e) := by
  refine answers_act hl hc ?_
  rw [hcl, hv, cellRequest_eq _ f (clearOut s) ha ho fun _ => by rw [he]; exact hset, if_pos rfl, he]
  rfl

/-- A request that the cell does not hold, and any while AREA is not set, is left alone (R7, R4). -/
theorem answers_noRequest {c : Instr} {s : State} {a : State → CellAnswer} {f : State → State} (hl : live s = true)
    (hc : exec c s = .next (act none (fun s => cellRequest (a s) f s) s))
    (h : s.link.areaSet = false ∨ s.intake.cellOwed = false) : Answers c none s (clearOut s) :=
  answers_act hl hc (cellRequest_none _ _ h)

/-- What the named magazine and its use make of LOAD_PAPER (R7). -/
theorem loadPaperAnswer_mag {s : State} {b : Byte} {m : Mag} (hm : magOf b = some m) (width tone : Nat) :
    loadPaperAnswer s b width tone =
      if (getMag s m).present = false then .notPresent
      else if magazineBusy s m then .busy
      else if widthAccepted width = false ∨ 3 < tone then .notApplicable
      else .done := by
  unfold loadPaperAnswer; rw [hm]

theorem widthAccepted_iff (w : Nat) : widthAccepted w = true ↔ w ∈ [89, 102, 127, 152, 203, 254, 305] := by
  simp [widthAccepted, Config.widths]

/-- A failed read of the cell is recorded, and the sweep ends where it waited for the cell alone (R186, R9). -/
theorem cellReadFault_eq (offset : Nat) (s : State) :
    let failed : State := { s with intake.cellRead := false, intake.cellOwed := false }
    cellReadFault offset s =
      recordFault .slotRead 255 (jobAddr s (0x200 + offset)) { failed with intake.sweep := sweepEnded failed } := by
  rw [cellReadFault, endSweep_eq]
  cases hf : s.link.causes.fault <;> simp only [recordFault, hf] <;> rfl

/-- Settles O24: the read by the branches of `cellReadDone`, the answers by the checks of each request (`answers_cell`). -/
theorem cellReadAndRefusals : Obligations.CellReadAndRefusals := by
  refine ⟨fun s hl => ?_, fun s hl => ?_⟩
  · intro c failed
    refine ⟨fun hr => ⟨?_, fun t ht => ?_⟩, fun h offset => ?_, fun hr t => ?_, fun hr ho offset => ?_, fun r => ?_⟩
    · refine answers_act (f := cellReadDone (.token 1)) hl rfl ((if_pos hr).trans ((if_pos rfl).trans ?_))
      rw [readOperands, foldl_emitRead_fields]
      rfl
    · refine answers_act (f := cellReadDone (.token t)) hl rfl ((if_pos hr).trans ((if_neg ht).trans ?_))
      exact endSweep_eq _
    · refine answers_act (f := cellReadDone (.busError offset)) hl rfl ((if_pos (by simpa using h)).trans ?_)
      exact cellReadFault_eq offset (clearOut s)
    · exact answers_act (f := cellReadDone (.token t)) hl rfl (if_neg (by simp [hr]))
    · exact answers_act (f := cellReadDone (.busError offset)) hl rfl (if_neg (by simp [hr, ho]))
    · exact answers_act hl rfl rfl
  · intro gives magA magB present busy widthOk
    have named (m : Byte) (hm : m.toNat ≤ 1) :
        ∃ n, magOf m = some n ∧ (getMag s n).present = present m ∧ (magazineBusy s n = true ↔ busy m) := by
      rcases byte_le_one hm with rfl | rfl
      · exact ⟨.a, rfl, rfl, by simp [magazineBusy, busy, magA, magB, and_comm]⟩
      · exact ⟨.b, rfl, rfl, by simp [magazineBusy, busy, magA, magB, and_comm]⟩
    refine ⟨fun ha ho => ⟨fun m w f t l k hm => ?_, fun m w f t l k hm hp => ?_, fun m w f t l k hm hp hb => ?_,
      fun m w f t l k hm hp hb hx => ?_, fun m hm => ?_, fun m hm hb => ?_, fun he jam => ?_, fun he => ?_,
      fun b hb => ?_, fun code => ?_⟩, fun h m w f t l k jam b code c hc => ?_⟩
    · refine answers_cell (v := .notApplicable) hl rfl ha ho ?_ rfl nofun
      simp [loadPaperAnswer, magOf_above hm]
    · refine answers_cell (v := .notPresent) hl rfl ha ho ?_ rfl nofun
      obtain ⟨n, hn, hpn, -⟩ := named m hm
      rw [loadPaperAnswer_mag hn, if_pos (hpn.trans hp)]
    · refine answers_cell (v := .busy) hl rfl ha ho ?_ rfl nofun
      obtain ⟨n, hn, hpn, hbn⟩ := named m hm
      rw [loadPaperAnswer_mag hn, if_neg (by simp [hpn, hp]), if_pos (hbn.2 hb)]
    · refine answers_cell (v := .notApplicable) hl rfl ha ho ?_ rfl nofun
      obtain ⟨n, hn, hpn, hbn⟩ := named m hm
      rw [loadPaperAnswer_mag hn, if_neg (by simp [hpn, hp]), if_neg (fun h => hb (hbn.1 h)), if_pos]
      rwa [← Bool.not_eq_true, widthAccepted_iff]
    · refine answers_cell (v := .notApplicable) hl rfl ha ho ?_ rfl nofun
      simp [clearPaperAnswer, magOf_above hm]
    · refine answers_cell (v := .busy) hl rfl ha ho ?_ rfl nofun
      obtain ⟨n, hn, -, hbn⟩ := named m hm
      unfold clearPaperAnswer; rw [hn]
      exact if_pos (hbn.2 hb)
    · exact answers_cell (v := .notApplicable) hl rfl ha ho (if_neg he) rfl nofun
    · exact answers_cell (v := .notApplicable) hl rfl ha ho (if_neg he) rfl nofun
    · exact answers_cell (v := .notApplicable) hl rfl ha ho (if_neg (by omega)) rfl nofun
    · exact answers_cell (v := .notApplicable) hl rfl ha ho rfl rfl nofun
    · simp only [List.mem_cons, List.not_mem_nil, or_false] at hc
      rcases hc with rfl | rfl | rfl | rfl | rfl | rfl <;> exact answers_noRequest hl rfl h

/-- Settles O25: each request passes its checks (`answers_done`), and RESUME enters RUNNING by `enterRunning_cases`. -/
theorem cellRequestsDone : Obligations.CellRequestsDone := by
  intro s hl ha ho
  have free {m : Mag} (h : s.paper.active = m → moving s = false) : magazineBusy s m = false := by
    rw [magazineBusy, Bool.and_eq_false_iff]
    by_cases hm : s.paper.active = m
    · exact .inr (h hm)
    · exact .inl (by simpa using hm)
  have load {b : Byte} {m : Mag} (hb : magOf b = some m) (hp : (getMag s m).present = true)
      (hm : s.paper.active = m → moving s = false) {w : Half} {t : Byte} (hw : widthAccepted w.toNat = true)
      (ht : t.toNat ≤ 3) : loadPaperAnswer s b w.toNat t.toNat = .done := by
    rw [loadPaperAnswer_mag hb, if_neg (by simp [hp]), if_neg (by simp [free hm]), if_neg]
    rintro (h | h)
    · rw [hw] at h; cases h
    · omega
  have clear {b : Byte} {m : Mag} (hb : magOf b = some m) (hm : s.paper.active = m → moving s = false) :
      clearPaperAnswer s b = .done := by
    unfold clearPaperAnswer; rw [hb]; exact if_neg (by simp [free hm])
  refine ⟨fun w f t l k hw ht => ?_, fun hm => ?_, fun hm => ?_, fun he => ?_, fun he => ?_, fun b hb => ?_⟩
  · have hw := (widthAccepted_iff _).2 hw
    exact ⟨fun hp hm => answers_done hl rfl ha ho (load (m := .a) rfl hp hm hw ht) rfl rfl (by simp [ha]),
      fun hp hm => answers_done hl rfl ha ho (load (m := .b) rfl hp hm hw ht) rfl rfl (by simp [ha])⟩
  · exact answers_done hl rfl ha ho (clear rfl hm) rfl rfl (by simp [ha])
  · exact answers_done hl rfl ha ho (clear rfl hm) rfl rfl (by simp [ha])
  · obtain ⟨h1, h2, h3⟩ := enterRunning_cases s
    exact ⟨fun h => answers_done hl rfl ha ho (if_pos he) rfl (h1 h) (by simp [runningEntered, ha]),
      fun h => answers_done hl rfl ha ho (if_pos he) rfl (h2 h) (by simp [runningEntered, ha]),
      answers_done hl rfl ha ho (if_pos he) rfl h3 (by simp [runningEntered, ha])⟩
  · exact answers_done hl rfl ha ho (if_pos he) rfl rfl ha
  · exact answers_done hl rfl ha ho (if_pos hb) rfl rfl (by simp [ha])

end Sys2Proof.Machine
end

section
/-! The slot writes that wait: where several take their places, and how those of one slot go out (R4, R20, R176). -/

open Sys2Proof Sys2Proof.Machine

namespace Sys2Proof.Machine

set_option Elab.async false

/-! ## Several writes at once -/

/-- The writes that wait once these have taken their places among those that wait. -/
def insertWrites (ws l : List SlotWrite) : List SlotWrite := ws.foldl (fun l w => insertWrite w l) l

/-- These slot writes join those that wait. -/
def pushAll (ws : List SlotWrite) (s : State) : State := { s with link.waiting := insertWrites ws s.link.waiting }

@[simp] theorem insertWrites_nil (l : List SlotWrite) : insertWrites [] l = l := rfl

@[simp] theorem insertWrites_cons (w : SlotWrite) (ws l : List SlotWrite) :
    insertWrites (w :: ws) l = insertWrites ws (insertWrite w l) := rfl

theorem insertWrites_append (vs ws l : List SlotWrite) : insertWrites (vs ++ ws) l = insertWrites ws (insertWrites vs l) :=
  List.foldl_append

theorem pushAll_append (vs ws : List SlotWrite) (s : State) : pushAll (vs ++ ws) s = pushAll ws (pushAll vs s) := by
  simp only [pushAll, insertWrites_append]

/-- A fold whose every step lets some writes join lets them all join. -/
theorem foldl_pushAll {α : Type} (f : State → α → State) (g : α → List SlotWrite) (l : List α)
    (h : ∀ s, ∀ a ∈ l, f s a = pushAll (g a) s) (s : State) : l.foldl f s = pushAll (l.flatMap g) s := by
  induction l generalizing s with
  | nil => rfl
  | cons a r ih => rw [List.foldl_cons, h s a (by simp), ih fun s b hb => h s b (by simp [hb]), List.flatMap_cons, pushAll_append]

theorem waitingWith_eq (ws : List SlotWrite) (s : State) : waitingWith ws s = insertWrites ws s.link.waiting := by
  induction ws generalizing s with
  | nil => rfl
  | cons w r ih => rw [waitingWith_cons, ih]; rfl

/-- The write v, going before w, leaves w its place behind it: it is of another slot, or of another field and no token. -/
def Passes (v w : SlotWrite) : Prop := v.slot = w.slot → v.offset ≠ w.offset ∧ v.offset ≠ 0

/-- Writes that no waiting one merges with or stays behind go behind the others in their order. -/
theorem insertWrites_fresh (ws l : List SlotWrite) (hl : ∀ v ∈ l, ∀ w ∈ ws, Passes v w) (hws : ws.Pairwise Passes) :
    insertWrites ws l = l ++ ws := by
  induction ws generalizing l with
  | nil => simp
  | cons w r ih =>
    rw [List.pairwise_cons] at hws
    rw [insertWrites_cons, insertWrite_last w l fun y hy => hl y hy w (by simp), ih _ _ hws.2]
    · simp
    · intro v hv x hx
      rcases List.mem_append.1 hv with hv | hv
      · exact hl v hv x (List.mem_cons_of_mem _ hx)
      · rw [List.mem_singleton.1 hv]; exact hws.1 x hx

/-- A write merged into the first of those that wait leaves the others as they are. -/
theorem insertWrite_merge {w v : SlotWrite} (hs : v.slot = w.slot) (ho : v.offset = w.offset) (l : List SlotWrite) :
    insertWrite w (v :: l) = w :: l := by
  simp [insertWrite, hs, ho]

/-! ## The writes of one operation -/

/-- The answer of a slot request: the answered number, then the code (R16). -/
def answerWrites (slot number code : Nat) : List SlotWrite := [⟨slot, 0x014, 1, number⟩, ⟨slot, 0x015, 1, code⟩]

theorem writeAnswer_eq (slot : Nat) (number : Byte) (a : Answer) (s : State) :
    writeAnswer slot number a s = pushAll (answerWrites slot number.toNat a.code) s := rfl

theorem writeMirror_eq {o : Order} (h : o.detached = false) (s : State) :
    writeMirror o s = pushAll [mirrorWrite o.slot o.state] s := by
  unfold writeMirror; rw [if_neg (by simp [h])]; rfl

theorem pushResultFields_eq (slot i g a used jams summary : Nat) (s : State) :
    pushResultFields slot i g a used jams summary s =
      pushAll [⟨slot, 0x900 + 16 * i, 2, g⟩, ⟨slot, 0x902 + 16 * i, 2, a⟩, ⟨slot, 0x904 + 16 * i, 2, used⟩,
        ⟨slot, 0x906 + 16 * i, 2, jams⟩, ⟨slot, 0x908 + 16 * i, 1, summary⟩] s := by
  simp [pushResultFields, offResult, pushWrite, pushAll, Nat.add_right_comm]

theorem writeResult_eq {o : Order} {i : Nat} {e : Entry} (h : o.detached = false) (he : o.entries[i]? = some e) (s : State) :
    writeResult o i s = pushAll (resultWrites o.slot i e) s := by
  unfold writeResult; rw [he]; dsimp only
  rw [if_neg (by simp [h])]
  exact pushResultFields_eq _ _ _ _ _ _ _ _

theorem pushPrice_eq (slot base : Nat) (p : Price) (s : State) :
    pushPrice slot base p s =
      pushAll [⟨slot, base, 4, p.subtotal⟩, ⟨slot, base + 0x04, 4, p.discount⟩, ⟨slot, base + 0x08, 4, p.rush⟩,
        ⟨slot, base + 0x0C, 4, p.fee⟩, ⟨slot, base + 0x10, 4, p.net⟩, ⟨slot, base + 0x14, 4, p.tax⟩,
        ⟨slot, base + 0x18, 4, p.total⟩, ⟨slot, base + 0x1C, 1, priceFlags p⟩] s := by
  simp only [pushPrice, pushWrite, pushAll, insertWrites_cons, insertWrites_nil]

/-- The results of one entry that a cancellation of the order writes (R47). -/
def abandonedResult (o : Order) (x : Entry × Nat) : List SlotWrite :=
  if 0 < x.1.t then resultWrites o.slot x.2 { x.1 with a := x.1.a + x.1.t, t := 0 } else []

theorem abandonedWrites_eq (o : Order) : abandonedWrites o = o.entries.zipIdx.flatMap (abandonedResult o) := rfl

theorem writeCancelled_step {o : Order} (h : o.detached = false) {k : Nat} {e : Entry} (he : o.entries[k]? = some e) (s : State) :
    (if 0 < e.t then writeResult (cancelledOrder o) k s else s) = pushAll (abandonedResult o (e, k)) s := by
  unfold abandonedResult
  split
  · have hc : (cancelledOrder o).entries[k]? = some { e with a := e.a + e.t, t := 0 } := by simp [cancelledOrder, he]
    exact writeResult_eq (o := cancelledOrder o) h hc s
  · rfl

/-- A cancellation writes the results of the entries whose copies it moves to abandoned (R47). -/
theorem writeCancelled_eq {o : Order} (h : o.detached = false) (s : State) :
    writeCancelled o (cancelledOrder o) s = pushAll (abandonedWrites o) s := by
  have hr : List.range o.entries.length = o.entries.zipIdx.map Prod.snd := by
    rw [List.zipIdx_map_snd, List.range_eq_range']
  rw [abandonedWrites_eq, writeCancelled, hr, List.foldl_map]
  refine foldl_pushAll _ _ _ (fun t x hx => ?_) s
  have he : o.entries[x.2]? = some x.1 := List.mem_zipIdx_iff_getElem?.1 hx
  rw [he]; exact writeCancelled_step h he t

/-- Result fields of different entries, and of one entry in their order, leave each other their places. -/
theorem resultFields_pairwise (slot k : Nat) (g a used jams summary : Nat) :
    List.Pairwise Passes [⟨slot, 0x900 + 16 * k, 2, g⟩, ⟨slot, 0x902 + 16 * k, 2, a⟩, ⟨slot, 0x904 + 16 * k, 2, used⟩,
      ⟨slot, 0x906 + 16 * k, 2, jams⟩, ⟨slot, 0x908 + 16 * k, 1, summary⟩] := by
  simp [Passes]

theorem mem_abandonedWrites {o : Order} {w : SlotWrite} (h : w ∈ abandonedWrites o) : w.slot = o.slot ∧ 0x900 ≤ w.offset := by
  obtain ⟨x, -, hx⟩ := List.mem_flatMap.1 h
  split at hx
  · simp only [resultWrites, List.mem_cons, List.not_mem_nil, or_false] at hx
    rcases hx with rfl | rfl | rfl | rfl | rfl <;> exact ⟨rfl, by dsimp only; omega⟩
  · cases hx

/-- Writes whose offsets belong to an entry's result field. -/
theorem abandonedResult_offset {o : Order} {x : Entry × Nat} {w : SlotWrite} (h : w ∈ abandonedResult o x) :
    0x900 + 16 * x.2 ≤ w.offset ∧ w.offset < 0x900 + 16 * (x.2 + 1) := by
  unfold abandonedResult at h
  split at h
  · simp only [resultWrites, List.mem_cons, List.not_mem_nil, or_false] at h
    rcases h with rfl | rfl | rfl | rfl | rfl <;> (dsimp only; omega)
  · cases h

theorem abandonedWrites_pairwise (o : Order) : (abandonedWrites o).Pairwise Passes := by
  rw [abandonedWrites_eq, List.pairwise_flatMap]
  refine ⟨fun x _ => ?_, ?_⟩
  · unfold abandonedResult
    split
    · exact resultFields_pairwise _ _ _ _ _ _ _
    · exact List.Pairwise.nil
  · have hidx : o.entries.zipIdx.Pairwise fun x y => x.2 < y.2 := by
      rw [← List.pairwise_map (f := Prod.snd) (R := (· < ·)), List.zipIdx_map_snd]
      exact List.pairwise_lt_range'
    refine hidx.imp fun {x y} hxy v hv w hw _ => ?_
    have hv := abandonedResult_offset hv
    have hw := abandonedResult_offset hw
    omega

/-! ## How the writes of one slot go out -/

/-- Two states hold the same orders where their tables do. -/
theorem orderOfSlot_congr {s t : State} (h : t.plan.table = s.plan.table) (slot : Nat) : orderOfSlot t slot = orderOfSlot s slot := by
  unfold orderOfSlot; rw [h]

/-- With no take past its TAKEN write, and none but writes to one order's slot waiting, no token among them, these go out in
the step; those of a COMPLETE order wait for the end of a setup load (R4, R176). -/
theorem progress_ofSlot {e : State} {slot i : Nat} {o : Order} (ht : ∀ w, e.intake.sweep = some w → w.taken = none)
    (hw : ∀ x ∈ e.link.waiting, x.slot = slot ∧ x.offset ≠ 0) (hi : orderOfSlot e slot = some i)
    (ho : getOrder e i = some o) (hd : o.detached = false) :
    progress none e = if o.state = .complete ∧ e.setup.state = .loading then e
      else { e with link.waiting := [], out := e.out ++ if e.link.areaSet then e.link.waiting.map (wroteSlot e) else [] } := by
  have hawait : ∀ x ∈ e.link.waiting, awaitsLoad e x.slot = decide (o.state = .complete) := fun x hx => by
    rw [awaitsLoad_noToken (fun x hx => (hw x hx).2), (hw x hx).1, hi, Option.bind_some, ho]
    simp only [hd]
    cases o.state <;> rfl
  by_cases hc : o.state = .complete ∧ e.setup.state = .loading
  · have hk : ∀ x ∈ e.link.waiting, awaitsLoad e x.slot = true := fun x hx => by rw [hawait x hx, hc.1]; rfl
    have hkept := List.filter_eq_self.2 hk
    have hdue : e.link.waiting.filter (fun w => !awaitsLoad e w.slot) = [] :=
      List.filter_eq_nil_iff.2 fun x hx => by simp [hk x hx]
    rw [if_pos hc, progress, resumeTake_none ht, issueWaiting_loading none hc.2, hkept, hdue]
    rfl
  · rw [if_neg hc]
    by_cases hl : e.setup.state = .loading
    · have hk : ∀ x ∈ e.link.waiting, awaitsLoad e x.slot = false := fun x hx => by
        rw [hawait x hx]; exact decide_eq_false fun h => hc ⟨h, hl⟩
      have hkept : e.link.waiting.filter (fun w => awaitsLoad e w.slot) = [] :=
        List.filter_eq_nil_iff.2 fun x hx => by simp [hk x hx]
      have hdue : e.link.waiting.filter (fun w => !awaitsLoad e w.slot) = e.link.waiting :=
        List.filter_eq_self.2 fun x hx => by simp [hk x hx]
      rw [progress, resumeTake_none ht, issueWaiting_loading none hl, hkept, hdue,
        issueList_plain _ (fun x hx => (hw x hx).2) _ (by simp)]
      rfl
    · exact progress_plain e hl ht fun x hx => (hw x hx).2

end Sys2Proof.Machine
end

section
/-! Step 2 of a sweep: the requests of the slots answered (R16, R17, R46, R47). -/

open Sys2Proof Sys2Proof.Machine

namespace Sys2Proof.Machine

set_option Elab.async false

/-! ## An answer and what it is made of -/

/-- Context i holds p, and step 2 has no more request of the slot to answer. -/
def handed (slot i : Nat) (p : Order) (s : State) : State :=
  { s with
    plan.table := s.plan.table.set i (some p)
    intake.sweep := s.intake.sweep.map (fun w => { w with requests := w.requests.filter (fun q => q.slot != slot) }) }

theorem putOrder_dropRequest (slot i : Nat) (p : Order) (s : State) :
    putOrder i (some p) (dropRequest slot s) = handed slot i p s := by
  rw [dropRequest_eq]; rfl

/-- A request that step 1 read, new and of a held slot, is handed over where it is answered DONE, and then answered (R16). -/
theorem answerRequest_read {r : Request} {slot i : Nat} {code number : Byte} {s : State} {o : Order}
    (hi : orderOfSlot s slot = some i) (ho : getOrder s i = some o) (hr : requestRead s slot code number = true)
    (hc : requestOf code = r) (hd : o.detached = false) (hn : o.answered ≠ number) :
    answerRequest r slot code number s =
      let o1 := { o with answered := number }
      let s1 := handed slot i o1 s
      let s2 := pushAll (answerWrites slot number.toNat (answerOf r o.state).code)
        (if answerOf r o.state = .done then handRequest r i o1 s1 else s1)
      if o.returnDue then hoistAnswer slot s2 else s2 := by
  unfold answerRequest
  rw [hi]; dsimp only
  rw [ho]; dsimp only
  rw [if_neg (by simp [hr, hc, hd, hn]), putOrder_dropRequest, writeAnswer_eq]

/-- A slot's answer writes stand first already where none but them wait. -/
theorem hoistAnswer_answers {slot number code : Nat} {s : State} (h : s.link.waiting = answerWrites slot number code) :
    hoistAnswer slot s = s := by
  have hl : s.link.waiting.filter (isAnswer slot) ++ s.link.waiting.filter (fun w => !isAnswer slot w) = s.link.waiting := by
    rw [h]; simp [answerWrites, isAnswer, offAnswered, offAnswer]
  unfold hoistAnswer; rw [hl]

/-- An order replaced by one of its slot is found where it was. -/
theorem found_set {s X : State} {slot i : Nat} {o p : Order} (hi : orderOfSlot s slot = some i) (ho : getOrder s i = some o)
    (hs : p.slot = o.slot) (ht : X.plan.table = s.plan.table.set i (some p)) :
    orderOfSlot X slot = some i ∧ getOrder X i = some p := by
  refine ⟨?_, getOrder_set ho _ _ ht⟩
  have hlt := getOrder_some_lt ho
  have hget : s.plan.table[i]? = some (some o) := by
    rw [getOrder, List.getD_eq_getElem?_getD, List.getElem?_eq_getElem hlt] at ho
    rw [List.getElem?_eq_getElem hlt]
    exact congrArg some ho
  unfold orderOfSlot
  rw [ht, findSlot_set slot _ 0 i o p hget hs]
  exact hi

theorem withWaiting_nil {s : State} (h : s.link.waiting = []) : { s with link.waiting := [] } = s := by rw [← h]

/-- Before anything of the step is put out, the writes that a request leaves waiting go out, or wait with the slot's return (log
entry 45). -/
theorem handed_progress {slot i : Nat} {s : State} {o p : Order} {ws : List SlotWrite} (ha : s.link.areaSet = true)
    (hq : Quiet s) (hi : orderOfSlot s slot = some i) (ho : getOrder s i = some o) (hs : p.slot = o.slot)
    (hd : p.detached = false) (hout : s.out = []) (hws : ∀ x ∈ ws, x.slot = slot ∧ x.offset ≠ 0) :
    progress none { handed slot i p s with link.waiting := ws } =
      if p.state = .complete ∧ s.setup.state = .loading then { handed slot i p s with link.waiting := ws }
      else { handed slot i p s with out := ws.map (wroteSlot s) } := by
  have ht : ∀ w, ({ handed slot i p s with link.waiting := ws } : State).intake.sweep = some w → w.taken = none := by
    intro w hw
    obtain ⟨v, hv, rfl⟩ := Option.map_eq_some_iff.1 hw
    exact hq.taken v hv
  obtain ⟨h1, h2⟩ := found_set (X := { handed slot i p s with link.waiting := ws }) hi ho hs rfl
  rw [progress_ofSlot ht hws h1 h2 hd]
  split
  · rename_i hc
    exact (if_pos hc).symm
  · rename_i hc
    refine Eq.trans ?_ (if_neg hc).symm
    have hput : { handed slot i p s with link.waiting := [] } = handed slot i p s := withWaiting_nil hq.waiting
    have hl : s.out ++ (if s.link.areaSet then ws.map (wroteSlot s) else []) = ws.map (wroteSlot s) := by
      rw [if_pos ha, hout]; rfl
    exact (congrArg (fun t : State => { t with out := s.out ++ (if s.link.areaSet then ws.map (wroteSlot s) else []) })
      hput).trans (by rw [hl])

theorem answerWrites_ofSlot (slot number code : Nat) : ∀ x ∈ answerWrites slot number code, x.slot = slot ∧ x.offset ≠ 0 := by
  simp [answerWrites]

/-- A request that hands nothing to the planner is answered, and nothing else of its order changes (R17). -/
theorem answerRequest_answered {r : Request} {slot i : Nat} {code number : Byte} {s : State} {o : Order}
    (ha : s.link.areaSet = true) (hq : Quiet s) (hout : s.out = [])
    (hi : orderOfSlot s slot = some i) (ho : getOrder s i = some o) (hr : requestRead s slot code number = true)
    (hc : requestOf code = r) (hd : o.detached = false) (hn : o.answered ≠ number) {a : Answer}
    (hv : answerOf r o.state = a) (hne : a ≠ .done) :
    progress none (answerRequest r slot code number s) =
      if o.state = .complete ∧ s.setup.state = .loading then
        { handed slot i { o with answered := number } s with link.waiting := answerWrites slot number.toNat a.code }
      else { handed slot i { o with answered := number } s with
        out := (answerWrites slot number.toNat a.code).map (wroteSlot s) } := by
  have hX : pushAll (answerWrites slot number.toNat a.code) (handed slot i { o with answered := number } s) =
      { handed slot i { o with answered := number } s with link.waiting := answerWrites slot number.toNat a.code } := by
    have : insertWrites (answerWrites slot number.toNat a.code) s.link.waiting = answerWrites slot number.toNat a.code := by
      rw [hq.waiting]; simp [answerWrites, insertWrite, offToken]
    exact congrArg (fun l => { handed slot i { o with answered := number } s with link.waiting := l }) this
  have he : answerRequest r slot code number s =
      { handed slot i { o with answered := number } s with link.waiting := answerWrites slot number.toNat a.code } := by
    rw [answerRequest_read hi ho hr hc hd hn, hv]
    dsimp only
    rw [if_neg hne, hX]
    split
    · exact hoistAnswer_answers rfl
    · rfl
  rw [he]
  exact handed_progress (p := { o with answered := number }) ha hq hi ho rfl hd hout (answerWrites_ofSlot _ _ _)

/-! ## An order that a request changes -/

/-- X is s with p in context i and the writes ws waiting; the link, the intake unit and the setup are otherwise as in s, but for
the causes and the fields due to be written. -/
structure Turned (i : Nat) (p : Order) (ws : List SlotWrite) (s X : State) : Prop where
  table : X.plan.table = s.plan.table.set i (some p)
  waiting : X.link.waiting = ws
  intake : X.intake = s.intake
  setup : X.setup = s.setup
  out : X.out = s.out
  area : X.link.area = s.link.area
  areaSet : X.link.areaSet = s.link.areaSet

theorem Turned.congr {i : Nat} {p : Order} {ws : List SlotWrite} {s X Y : State} (h : Turned i p ws s X)
    (table : Y.plan.table = X.plan.table := by simp) (waiting : Y.link.waiting = X.link.waiting := by simp)
    (intake : Y.intake = X.intake := by simp) (setup : Y.setup = X.setup := by simp) (out : Y.out = X.out := by simp)
    (area : Y.link.area = X.link.area := by simp) (areaSet : Y.link.areaSet = X.link.areaSet := by simp) :
    Turned i p ws s Y :=
  ⟨table.trans h.table, waiting.trans h.waiting, intake.trans h.intake, setup.trans h.setup, out.trans h.out,
    area.trans h.area, areaSet.trans h.areaSet⟩

theorem Turned.low {i : Nat} {p : Order} {ws : List SlotWrite} {s X : State} (h : Turned i p ws s X) :
    Turned i p ws s (evalLow X) := h.congr

theorem Turned.push {i : Nat} {p : Order} {ws : List SlotWrite} {s X : State} (h : Turned i p ws s X) (vs : List SlotWrite) :
    Turned i p (insertWrites vs ws) s (pushAll vs X) :=
  { h with waiting := congrArg (insertWrites vs) h.waiting }

theorem Turned.put {i : Nat} {q : Order} {ws : List SlotWrite} {s X : State} (h : Turned i q ws s X) (p : Order) :
    Turned i p ws s (putOrder i (some p) X) :=
  { h with table := by rw [putOrder_table, h.table, List.set_set] }

/-- An order that enters a state has its mirror written (R20). -/
theorem Turned.enter {i : Nat} {q p : Order} {ws : List SlotWrite} {s X : State} (h : Turned i q ws s X)
    (hd : p.detached = false) (st : OrderState) :
    Turned i { p with state := st } (insertWrite (mirrorWrite p.slot st) ws) s (enterState i p st X) := by
  unfold enterState
  rw [writeMirror_eq (o := { p with state := st }) hd]
  exact (h.put _).push [mirrorWrite p.slot st]

/-- An order whose mirror waits first is evaluated, and the mirror shows what comes of it (R45, R20). -/
theorem Turned.eval {i : Nat} {o p : Order} {ws : List SlotWrite} {s X : State}
    (h : Turned i p (mirrorWrite p.slot p.state :: ws) s X) (ho : getOrder s i = some o) (hd : p.detached = false) :
    Turned i { p with state := stateOfCounts p } (mirrorWrite p.slot (stateOfCounts p) :: ws) s (evalOrder i X) := by
  have hp : getOrder X i = some p := getOrder_set ho _ _ h.table
  have hent : ∀ st, Turned i { p with state := st } (mirrorWrite p.slot st :: ws) s (enterState i p st X) := fun st => by
    have := h.enter hd st
    rwa [insertWrite_merge (w := mirrorWrite p.slot st) (v := mirrorWrite p.slot p.state) rfl rfl] at this
  unfold evalOrder
  rw [hp]; dsimp only
  split
  · rename_i he
    rw [he]; exact h
  · split
    · rename_i hc
      unfold completeOrder
      dsimp only
      rw [if_neg (by simp [hd]), hc]
      exact (hent .complete).congr
    · exact hent _

theorem wroteSlot_congr {s t : State} (h : t.link.area = s.link.area) (w : SlotWrite) : wroteSlot t w = wroteSlot s w := by
  unfold wroteSlot jobAddr; rw [h]

/-- What the step makes of an order that a request has changed: the writes that wait go out, or wait on with the slot's
return while a setup load runs (R176, log entry 45). -/
theorem Turned.published {slot i : Nat} {o p : Order} {ws : List SlotWrite} {b s X : State} (h : Turned i p ws s X)
    (hi : orderOfSlot s slot = some i) (ho : getOrder s i = some o) (hs : p.slot = o.slot) (hd : p.detached = false)
    (ht : ∀ w, s.intake.sweep = some w → w.taken = none) (hws : ∀ x ∈ ws, x.slot = slot ∧ x.offset ≠ 0)
    (ha : s.link.areaSet = true) (hout : s.out = []) :
    let t := publish b (progress none X)
    getOrder t i = some p ∧ t.link.causes = X.link.causes
      ∧ (s.setup.state ≠ .loading ∨ p.state ≠ .complete → ws.map (wroteSlot s) <+: t.out)
      ∧ (s.setup.state = .loading → p.state = .complete → t.link.waiting = ws) := by
  intro t
  obtain ⟨h1, h2⟩ := found_set (X := X) hi ho hs h.table
  have hgo := progress_ofSlot (e := X) (by rw [h.intake]; exact ht) (by rw [h.waiting]; exact hws) h1 h2 hd
  have hplan : t.plan = (progress none X).plan := publish_plan _ _
  have hlink : t.link = { (progress none X).link with dirty := [] } := publish_link _ _
  obtain ⟨l, hl⟩ := publish_out b (progress none X)
  have hl : t.out = (progress none X).out ++ l := hl
  refine ⟨?_, ?_, fun hc => ?_, fun hc1 hc2 => ?_⟩
  · rw [getOrder_congr (s := progress none X) (by rw [hplan]), hgo]
    split <;> exact h2
  · rw [hlink, hgo]
    split <;> rfl
  · rw [if_neg (by rw [h.setup]; tauto)] at hgo
    have hwr : X.link.waiting.map (wroteSlot X) = ws.map (wroteSlot s) := by
      rw [h.waiting]; exact List.map_congr_left fun w _ => wroteSlot_congr h.area w
    have ho : (progress none X).out = ws.map (wroteSlot s) := by
      rw [hgo]
      dsimp only
      rw [h.out, hout, h.areaSet, if_pos ha, hwr, List.nil_append]
    rw [hl, ho]
    exact List.prefix_append _ _
  · rw [if_pos (by rw [h.setup]; exact ⟨hc2, hc1⟩)] at hgo
    rw [hlink, hgo]
    exact h.waiting

theorem Turned.refl {i : Nat} {o : Order} {s : State} (ho : getOrder s i = some o) : Turned i o s.link.waiting s s where
  table := by
    have hlt := getOrder_some_lt ho
    rw [getOrder, List.getD_eq_getElem?_getD, List.getElem?_eq_getElem hlt] at ho
    rw [← show s.plan.table[i] = some o from ho, List.set_getElem_self]
  waiting := rfl
  intake := rfl
  setup := rfl
  out := rfl
  area := rfl
  areaSet := rfl

/-- Whether an order lacks paper rests on its entries and on the magazines (R44). -/
theorem lacksPaper_congr {s t : State} {o p : Order} (hp : t.paper = s.paper) (he : p.entries = o.entries) :
    lacksPaper t p = lacksPaper s o := by
  unfold lacksPaper
  rw [he]
  simp only [widthLoaded_congr hp]

theorem enterState_paper (i : Nat) (o : Order) (st : OrderState) (s : State) : (enterState i o st s).paper = s.paper := by simp

/-- The state in which a RELEASE leaves a waiting order before its counts are evaluated (R46, R44). -/
def releasedTo (s : State) (o : Order) (from_ : OrderState) : OrderState :=
  if from_ = .active then .active else if lacksPaper s o then .waitPaper else .queued

/-- A released order is back in the state it was held from, QUEUED and WAIT_PAPER decided again, with ATTENTION where it comes
back in WAIT_PAPER (R46, R44, R23). -/
theorem turned_evalReleased {i : Nat} {o : Order} {s : State} {back : OrderState} (ho : getOrder s i = some o)
    (hd : o.detached = false) (hw : s.link.waiting = []) (hf : o.heldFrom = some back)
    (hback : back = .queued ∨ back = .waitPaper ∨ back = .active) :
    let p : Order := { o with heldFrom := none, state := releasedTo s o back }
    let W := evalReleased i o (enterState i { o with heldFrom := none } back s)
    Turned i p [mirrorWrite o.slot p.state] s W ∧ (p.state = .waitPaper → W.link.causes.attention = true) := by
  intro p W
  have hE : Turned i { o with heldFrom := none, state := back } [mirrorWrite o.slot back] s
      (enterState i { o with heldFrom := none } back s) := by
    have := (Turned.refl ho).enter (p := { o with heldFrom := none }) hd back
    rwa [hw] at this
  have hget := getOrder_set ho _ _ hE.table
  have hlack : lacksPaper (enterState i { o with heldFrom := none } back s) o = lacksPaper s o :=
    lacksPaper_congr (enterState_paper _ _ _ _) rfl
  have hlack' : lacksPaper (enterState i { o with heldFrom := none } back s) { o with heldFrom := none, state := back } =
      lacksPaper s o := lacksPaper_congr (enterState_paper _ _ _ _) rfl
  have hreenter : ∀ st, Turned i { o with heldFrom := none, state := st } [mirrorWrite o.slot st] s
      (enterState i { o with heldFrom := none, state := back } st (enterState i { o with heldFrom := none } back s)) :=
    fun st => by
      have := hE.enter (p := { o with heldFrom := none, state := back }) hd st
      rwa [insertWrite_merge (w := mirrorWrite o.slot st) (v := mirrorWrite o.slot back) rfl rfl] at this
  have hW : W = if back = .waitPaper ∧ lacksPaper s o = true then
      raiseAttention (enterState i { o with heldFrom := none } back s)
    else evalWaitOf (enterState i { o with heldFrom := none } back s) i := by
    simp only [W, evalReleased, hf, hlack, Option.some.injEq]
  have hp : ∀ st, releasedTo s o back = st → p = { o with heldFrom := none, state := st } := fun st h => by
    simp only [p, h]
  rcases hback with rfl | rfl | rfl
  · rw [if_neg (by simp)] at hW
    rw [hW, evalWaitOf, hget]
    dsimp only
    rw [hlack']
    split
    · rename_i hl
      rw [hp .waitPaper (by simp [releasedTo, hl])]
      exact ⟨(hreenter .waitPaper).congr, fun _ => rfl⟩
    · rename_i hl
      rw [hp .queued (by simp [releasedTo, hl])]
      exact ⟨hE, nofun⟩
  · by_cases hl : lacksPaper s o = true
    · rw [if_pos ⟨rfl, hl⟩] at hW
      rw [hW, hp .waitPaper (by simp [releasedTo, hl])]
      exact ⟨hE.congr, fun _ => rfl⟩
    · rw [if_neg (by simp [hl])] at hW
      rw [hW, evalWaitOf, hget]
      dsimp only
      rw [hlack', if_neg hl, hp .queued (by simp [releasedTo, hl])]
      exact ⟨hreenter .queued, nofun⟩
  · rw [if_neg (by simp)] at hW
    rw [hW, evalWaitOf, hget, hp .active rfl]
    exact ⟨hE, nofun⟩

/-- An order in a state that no count changes stands through its evaluation. -/
theorem evalOrder_still {i : Nat} {s : State} {o : Order} (ho : getOrder s i = some o) (h : stateOfCounts o = o.state) :
    evalOrder i s = s := by
  unfold evalOrder; rw [ho]; exact if_pos h

/-- Counts call for no wait for paper: an order that comes out of them in WAIT_PAPER was there. -/
theorem state_of_waitPaper_counts {o : Order} (h : stateOfCounts o = .waitPaper) : o.state = .waitPaper := by
  unfold stateOfCounts at h
  split at h
  · split at h
    · cases h
    · split at h <;> cases h
  · split at h
    · cases h
    · split at h <;> cases h
  · split at h <;> cases h
  · exact h

/-- A RELEASE (R46). -/
theorem turned_release {i : Nat} {o : Order} {s : State} {back : OrderState} (ho : getOrder s i = some o)
    (hd : o.detached = false) (hw : s.link.waiting = []) (hf : o.heldFrom = some back)
    (hback : back = .queued ∨ back = .waitPaper ∨ back = .active) :
    let st := stateOfCounts { o with state := releasedTo s o back }
    Turned i { o with heldFrom := none, state := st } [mirrorWrite o.slot st] s (releaseOrder i o s)
      ∧ (st = .waitPaper → (releaseOrder i o s).link.causes.attention = true) := by
  intro st
  obtain ⟨hT, hatt⟩ := turned_evalReleased ho hd hw hf hback
  have hX : releaseOrder i o s = evalOrder i (evalReleased i o (enterState i { o with heldFrom := none } back s)) := by
    rw [releaseOrder, hf]; rfl
  rw [hX]
  refine ⟨hT.eval ho hd, fun hst => ?_⟩
  have hsame : releasedTo s o back = .waitPaper := state_of_waitPaper_counts hst
  have hstill : stateOfCounts { o with heldFrom := none, state := releasedTo s o back } = releasedTo s o back :=
    (show _ = st from rfl).trans (hst.trans hsame.symm)
  rw [evalOrder_still (getOrder_set ho _ _ hT.table) hstill]
  exact hatt hsame

/-- A CANCEL of an order that is not CANCELLING (R47). -/
theorem turned_cancel {i : Nat} {o : Order} {s : State} (ho : getOrder s i = some o) (hd : o.detached = false)
    (hw : s.link.waiting = []) :
    let st : OrderState := if inFlight o = 0 then .complete else .cancelling
    Turned i { cancelledOrder o with state := st } (mirrorWrite o.slot st :: abandonedWrites o) s (cancelOrder i s) := by
  intro st
  have hd' : (cancelledOrder o).detached = false := hd
  have hin : inFlight (cancelledOrder o) = inFlight o := by simp [inFlight, cancelledOrder, sumBy, Function.comp_def]
  have hst : stateOfCounts (cancelledOrder o) = st := by
    rw [show st = if inFlight (cancelledOrder o) = 0 then .complete else .cancelling by rw [hin]]; rfl
  unfold cancelOrder
  rw [ho]; dsimp only
  rw [writeMirror_eq hd', writeCancelled_eq hd]
  have hT := (((Turned.refl ho).put (cancelledOrder o)).push [mirrorWrite o.slot .cancelling]).push (abandonedWrites o)
  have hws : insertWrites (abandonedWrites o) (insertWrites [mirrorWrite o.slot .cancelling] s.link.waiting) =
      mirrorWrite o.slot .cancelling :: abandonedWrites o := by
    rw [hw]
    refine insertWrites_fresh _ [mirrorWrite o.slot .cancelling] (fun v hv w hw _ => ?_) (abandonedWrites_pairwise o)
    rw [List.mem_singleton.1 hv]
    have := (mem_abandonedWrites hw).2
    exact ⟨fun h => by simp only [mirrorWrite] at h; omega, by simp [mirrorWrite]⟩
  rw [hws] at hT
  have hL := hT.low
  rw [← hst]
  exact Turned.eval (p := cancelledOrder o) hL ho hd

/-! ## The answer DONE -/

/-- The state after a request answered DONE: the answer behind what the request made, or first where the slot's return has begun
(R16, R21). -/
def answeredDone (slot : Nat) (number : Byte) (due : Bool) (Y : State) : State :=
  if due then hoistAnswer slot (pushAll (answerWrites slot number.toNat 1) Y)
  else pushAll (answerWrites slot number.toNat 1) Y

theorem turned_answeredDone {slot i : Nat} {number : Byte} {p : Order} {ws : List SlotWrite} {s Y : State} (due : Bool)
    (h : Turned i p ws s Y) (hws : ∀ x ∈ ws, x.slot = slot ∧ x.offset ≠ 0 ∧ x.offset ≠ 0x014 ∧ x.offset ≠ 0x015) :
    ∃ vs, Turned i p vs s (answeredDone slot number due Y) ∧ (answeredDone slot number due Y).link.causes = Y.link.causes
      ∧ (∀ x ∈ vs, x.slot = slot ∧ x.offset ≠ 0) ∧ (answerWrites slot number.toNat 1).Sublist vs
      ∧ (due = false → vs = ws ++ answerWrites slot number.toNat 1) := by
  have hfresh : insertWrites (answerWrites slot number.toNat 1) ws = ws ++ answerWrites slot number.toNat 1 := by
    refine insertWrites_fresh _ _ (fun v hv w hw _ => ?_) (by simp [answerWrites, Passes])
    obtain ⟨-, h0, h1, h2⟩ := hws v hv
    simp only [answerWrites, List.mem_cons, List.not_mem_nil, or_false] at hw
    rcases hw with rfl | rfl
    · exact ⟨h1, h0⟩
    · exact ⟨h2, h0⟩
  have hpush := h.push (answerWrites slot number.toNat 1)
  rw [hfresh] at hpush
  have hall : ∀ x ∈ ws ++ answerWrites slot number.toNat 1, x.slot = slot ∧ x.offset ≠ 0 := fun x hx => by
    rcases List.mem_append.1 hx with hx | hx
    · exact ⟨(hws x hx).1, (hws x hx).2.1⟩
    · exact answerWrites_ofSlot _ _ _ x hx
  cases due with
  | false => exact ⟨_, hpush, rfl, hall, List.sublist_append_right _ _, fun _ => rfl⟩
  | true =>
    have hhoist : (ws ++ answerWrites slot number.toNat 1).filter (isAnswer slot) = answerWrites slot number.toNat 1 := by
      rw [List.filter_append, List.filter_eq_nil_iff.2, List.nil_append]
      · simp [answerWrites, isAnswer, offAnswered, offAnswer]
      · intro x hx
        obtain ⟨-, -, h1, h2⟩ := hws x hx
        simp [isAnswer, offAnswered, offAnswer, h1, h2]
    refine ⟨answerWrites slot number.toNat 1 ++ (ws ++ answerWrites slot number.toNat 1).filter (fun w => !isAnswer slot w),
      { hpush with waiting := ?_ }, rfl, fun x hx => ?_, List.sublist_append_left _ _, nofun⟩
    · change (pushAll _ Y).link.waiting.filter (isAnswer slot) ++ (pushAll _ Y).link.waiting.filter (fun w => !isAnswer slot w) = _
      rw [hpush.waiting, hhoist]
    · rcases List.mem_append.1 hx with hx | hx
      · exact answerWrites_ofSlot _ _ _ x hx
      · exact hall x (List.mem_of_mem_filter hx)

/-- The step of a request answered DONE: what became of the order, and its writes ahead of the answer (R16, R20). -/
theorem done_published {slot i : Nat} {number : Byte} {o p : Order} {ws : List SlotWrite} {s S Y : State}
    (h : Turned i p ws (handed slot i o S) Y) (hS : S = clearOut s) (hd : p.detached = false) (hs : p.slot = o.slot)
    (ha : s.link.areaSet = true) (hq : Quiet s) (hi : orderOfSlot s slot = some i) {o₀ : Order}
    (ho : getOrder s i = some o₀) (ho₀ : o.slot = o₀.slot)
    (hws : ∀ x ∈ ws, x.slot = slot ∧ x.offset ≠ 0 ∧ x.offset ≠ 0x014 ∧ x.offset ≠ 0x015) (due : Bool) :
    let t := publish s (progress none (answeredDone slot number due Y))
    let vs := ws ++ answerWrites slot number.toNat 1
    getOrder t i = some p ∧ t.link.causes = Y.link.causes
      ∧ (s.setup.state ≠ .loading ∨ p.state ≠ .complete →
          ((answerWrites slot number.toNat 1).map (wroteSlot s)).Sublist t.out)
      ∧ (due = false → (s.setup.state ≠ .loading ∨ p.state ≠ .complete → vs.map (wroteSlot s) <+: t.out)
          ∧ (s.setup.state = .loading → p.state = .complete → t.link.waiting = vs)) := by
  subst hS
  intro t vs
  obtain ⟨ls, hT, hcauses, hls, hsub, heq⟩ := turned_answeredDone (number := number) due h hws
  obtain ⟨h1, h2⟩ := found_set (X := handed slot i o (clearOut s)) (s := clearOut s) hi ho ho₀ rfl
  have ht : ∀ w, (handed slot i o (clearOut s)).intake.sweep = some w → w.taken = none := fun w hw => by
    obtain ⟨v, hv, rfl⟩ := Option.map_eq_some_iff.1 hw
    exact hq.taken v hv
  obtain ⟨g1, g2, g3, g4⟩ := hT.published (b := s) h1 h2 hs hd ht hls ha rfl
  refine ⟨g1, g2.trans hcauses, fun hc => (hsub.map _).trans (g3 hc).sublist, fun hdue => ?_⟩
  rw [heq hdue] at g3 g4
  exact ⟨g3, g4⟩

/-- A HOLD answered DONE: the order held, with its mirror ahead of the answer (R46). -/
theorem answerRequest_held {slot i : Nat} {number : Byte} {s : State} {o : Order}
    (ha : s.link.areaSet = true) (hq : Quiet s) (hout : s.out = []) (hi : orderOfSlot s slot = some i)
    (ho : getOrder s i = some o) (hr : requestRead s slot 1 number = true) (hd : o.detached = false)
    (hn : o.answered ≠ number) (hv : answerOf .hold o.state = .done) (hdue : o.returnDue = false) :
    progress none (answerRequest .hold slot 1 number s) =
      { handed slot i { o with state := .held, heldFrom := some o.state, answered := number } s with
        out := (mirrorWrite slot .held :: answerWrites slot number.toNat 1).map (wroteSlot s) } := by
  have hslot := orderOfSlot_slot hi ho
  let q : Order := { o with state := .held, heldFrom := some o.state, answered := number }
  have hput : putOrder i (some q) (handed slot i { o with answered := number } s) = handed slot i q s := by
    unfold putOrder handed; dsimp only; rw [List.set_set]
  have hws : insertWrites (answerWrites slot number.toNat 1) (insertWrites [mirrorWrite o.slot .held] s.link.waiting) =
      mirrorWrite slot .held :: answerWrites slot number.toNat 1 := by
    rw [hq.waiting, hslot]; simp [answerWrites, mirrorWrite, insertWrite, offToken]
  have he : answerRequest .hold slot 1 number s = { handed slot i q s with
      link.waiting := mirrorWrite slot .held :: answerWrites slot number.toNat 1 } := by
    rw [answerRequest_read (r := .hold) hi ho hr rfl hd hn, hv]
    dsimp only
    rw [if_neg (by simp [hdue]), if_pos rfl, handRequest, holdOrder, enterState,
      writeMirror_eq (o := { o with state := .held, heldFrom := some o.state, answered := number }) hd]
    exact (congrArg (fun t => pushAll _ (pushAll _ t)) hput).trans
      (congrArg (fun l => { handed slot i q s with link.waiting := l }) hws)
  rw [he, handed_progress (p := q) ha hq hi ho rfl hd hout]
  · exact if_neg (by simp [q])
  · intro x hx
    rcases List.mem_cons.1 hx with rfl | hx
    · simp [mirrorWrite]
    · exact answerWrites_ofSlot _ _ _ x hx

/-- A request answered DONE, as the hand-over and the answer behind it. -/
theorem answerRequest_done {r : Request} {slot i : Nat} {code number : Byte} {s : State} {o : Order}
    (hi : orderOfSlot s slot = some i) (ho : getOrder s i = some o) (hr : requestRead s slot code number = true)
    (hc : requestOf code = r) (hd : o.detached = false) (hn : o.answered ≠ number) (hv : answerOf r o.state = .done) :
    answerRequest r slot code number s = answeredDone slot number o.returnDue
      (handRequest r i { o with answered := number } (handed slot i { o with answered := number } s)) := by
  rw [answerRequest_read hi ho hr hc hd hn, hv]
  dsimp only
  rw [if_pos rfl]
  rfl

/-- The state that a RELEASE leaves an order in, by what it was held from (R46, R44, R45). -/
theorem released_state (s : State) (o : Order) {back : OrderState} (hb : back = .queued ∨ back = .waitPaper ∨ back = .active) :
    stateOfCounts { o with state := releasedTo s o back } =
      if back = .active then (if 0 < stillToExpose o then .active else if 0 < inFlight o then .draining else .complete)
      else if ∃ e ∈ o.entries, 0 < e.t ∧ widthLoaded s e.width = false then .waitPaper else .queued := by
  have hwait : back ≠ .active → stateOfCounts { o with state := releasedTo s o back } =
      if ∃ e ∈ o.entries, 0 < e.t ∧ widthLoaded s e.width = false then .waitPaper else .queued := fun hne => by
    rw [releasedTo, if_neg hne]
    simp only [← lacks_iff]
    split <;> rfl
  by_cases hb' : back = .active
  · subst hb'
    rfl
  · rw [if_neg hb', hwait hb']

/-! ## The obligation -/

/-- A request that step 2 has not to answer is left alone (R16). -/
theorem answerRequest_alone {r : Request} {slot : Nat} {code number : Byte} {s : State}
    (h : requestRead s slot code number = false ∨ orderOfSlot s slot = none ∨ ∃ i o, orderOfSlot s slot = some i
      ∧ getOrder s i = some o ∧ (o.detached = true ∨ o.answered = number)) : answerRequest r slot code number s = s := by
  rcases h with h | h | ⟨i, o, hi, ho, h⟩
  · exact answerRequest_left r slot code number s (.inl h)
  · unfold answerRequest; rw [h]
  · unfold answerRequest
    rw [hi]; dsimp only
    rw [ho]
    exact if_pos (by tauto)

/-- Settles O19, on what a request makes of its order's slot writes (`handed_progress`, `done_published`). -/
theorem slotRequestsAnswered : Obligations.SlotRequestsAnswered := by
  intro slot number s hl asked
  have hread : ∀ code, asked code ↔ requestRead (clearOut s) slot code number = true := fun code =>
    (requestRead_iff _ _ _ _).symm
  refine ⟨fun c code hc => ⟨fun h => ?_, fun hcc h => ?_⟩, fun i o ha hq hi ho hd hn => ?_⟩
  · have halone : ∀ r, answerRequest r slot code number (clearOut s) = clearOut s := fun r =>
      answerRequest_alone (h.imp_left fun hna => by rwa [hread, Bool.not_eq_true] at hna)
    simp only [List.mem_cons, Prod.mk.injEq, List.not_mem_nil, or_false] at hc
    rcases hc with (⟨rfl, rfl⟩ | ⟨rfl, rfl⟩ | ⟨rfl, rfl⟩) | rfl <;> exact answers_act hl rfl (halone _)
  · subst hcc
    refine answers_act hl rfl (answerRequest_left _ _ _ _ _ (.inr ?_))
    rcases h with rfl | rfl | rfl <;> decide
  · intro field put answered
    have hslot : o.slot = slot := orderOfSlot_slot hi ho
    have plain {r : Request} {code : Byte} (hasked : asked code) (hr : requestOf code = r) {a : Answer}
        (hv : answerOf r o.state = a) (hne : a ≠ .done) {c : Instr}
        (hc : exec c s = .next (act none (answerRequest r slot code number) s)) :
        exec c s = .next (publish s (answered a.code)) := by
      have := answerRequest_answered (s := clearOut s) ha ⟨hq.waiting, hq.taken⟩ rfl hi ho ((hread code).1 hasked) hr hd hn
        hv hne
      rw [hc, act_live hl, this]
      rfl
    refine ⟨fun h1 => ⟨fun hst => ?_, fun hst => ?_, fun hst hdue => ?_⟩,
      fun h2 => ⟨fun hst => ?_, fun hst => ?_, fun hst back hback hb => ?_⟩,
      fun h3 => ⟨fun hst => ?_, fun hst => ?_, fun hst => ?_⟩, fun code hcode n1 n2 n3 => ?_⟩
    · exact plain h1 (r := .hold) rfl (a := .notApplicable) (by rcases hst with h | h <;> rw [h] <;> rfl) nofun rfl
    · exact plain h1 (r := .hold) rfl (a := .tooLate) (by rcases hst with h | h <;> rw [h] <;> rfl) nofun rfl
    · have := answerRequest_held (s := clearOut s) ha ⟨hq.waiting, hq.taken⟩ rfl hi ho ((hread 1).1 h1) hd hn
        (by rcases hst with h | h | h <;> rw [h] <;> rfl) hdue
      change Host.Outcome.next (act none (answerRequest .hold slot 1 number) s) = _
      rw [act_live hl, this]
      rfl
    · exact plain h2 (r := .release) rfl (a := .notApplicable) (by rcases hst with h | h | h | h <;> rw [h] <;> rfl) nofun rfl
    · exact plain h2 (r := .release) rfl (a := .tooLate) (by rcases hst with h | h <;> rw [h] <;> rfl) nofun rfl
    · intro lacks st
      obtain ⟨o1, ho1⟩ : ∃ p : Order, p = { o with answered := number } := ⟨_, rfl⟩
      have hd1 : o1.detached = false := by rw [ho1]; exact hd
      have hS := found_set (s := clearOut s) (X := handed slot i o1 (clearOut s)) hi ho (by rw [ho1]) rfl
      obtain ⟨hT, hatt⟩ := turned_release hS.2 hd1 hq.waiting (by rw [ho1]; exact hback) hb
      have hst' : stateOfCounts { o1 with state := releasedTo (handed slot i o1 (clearOut s)) o1 back } = st := by
        rw [released_state _ _ hb, ho1]
        rfl
      rw [hst'] at hT hatt
      obtain ⟨g1, g2, g3, g4⟩ := done_published (slot := slot) (number := number) hT rfl hd1 rfl ha hq hi ho (by rw [ho1])
        (by rw [ho1, show o.slot = slot from hslot]; simp [mirrorWrite]) o.returnDue
      refine ⟨_, ?_, g1.trans (by rw [ho1]), fun h => (congrArg Causes.attention g2).trans (hatt h), g3, ?_⟩
      · change Host.Outcome.next (act none (answerRequest .release slot 2 number) s) = _
        rw [act_live hl, answerRequest_done (r := .release) (s := clearOut s) hi ho ((hread 2).1 h2) rfl hd hn (by rw [hst]; rfl), ← ho1]
        rfl
      · rw [show o1.slot = slot by rw [ho1]; exact hslot] at g4
        exact g4
    · exact plain h3 (r := .cancel) rfl (a := .notApplicable) (by rw [hst]; rfl) nofun rfl
    · exact plain h3 (r := .cancel) rfl (a := .tooLate) (by rcases hst with h | h <;> rw [h] <;> rfl) nofun rfl
    · obtain ⟨o1, ho1⟩ : ∃ p : Order, p = { o with answered := number } := ⟨_, rfl⟩
      have hd1 : o1.detached = false := by rw [ho1]; exact hd
      have hslot : o1.slot = slot := by rw [ho1]; exact hslot
      have hS := found_set (s := clearOut s) (X := handed slot i o1 (clearOut s)) hi ho (by rw [ho1]) rfl
      have hT := turned_cancel hS.2 hd1 hq.waiting
      have hin : inFlight o1 = inFlight o := by rw [ho1]; rfl
      have hab : abandonedWrites o1 = abandonedWrites o := by rw [ho1]; rfl
      obtain ⟨g1, -, g3, g4⟩ := done_published (slot := slot) (number := number) hT rfl hd1 rfl ha hq hi ho (by rw [ho1])
        (fun x hx => by
          rcases List.mem_cons.1 hx with rfl | hx
          · simp [mirrorWrite, hslot]
          · obtain ⟨hs, hle⟩ := mem_abandonedWrites hx
            exact ⟨hs.trans hslot, by omega, by omega, by omega⟩) o.returnDue
      have hfl : inFlight o ≠ 0 ↔ (if inFlight o = 0 then OrderState.complete else .cancelling) ≠ .complete := by
        split <;> simp_all
      simp only [hin, hslot, hab] at g1 g3 g4
      refine ⟨_, ?_, g1.trans (by rw [ho1]; rfl), fun h => g3 (h.imp_right hfl.1), fun hdue =>
        ⟨fun h => (g4 hdue).1 (h.imp_right hfl.1), fun h1 h2 => (g4 hdue).2 h1 (if_pos h2)⟩⟩
      have hv : answerOf .cancel o.state = .done := by rcases hst with h | h | h | h <;> rw [h] <;> rfl
      change Host.Outcome.next (act none (answerRequest .cancel slot 3 number) s) = _
      rw [act_live hl, answerRequest_done (r := .cancel) (s := clearOut s) hi ho ((hread 3).1 h3) rfl hd hn hv, ← ho1]
      rfl
    · exact plain hcode (r := .other) (by rw [requestOf, if_neg n1, if_neg n2, if_neg n3]) (a := .notApplicable) rfl nofun rfl

end Sys2Proof.Machine
end

section
/-! Slot returns: the writes of one, what issuing its token frees, and the returns a setup load holds up (R21, R22, R176). -/

open Sys2Proof Sys2Proof.Machine

namespace Sys2Proof.Machine

set_option Elab.async false

/-! ## What issuing slot writes frees -/

/-- Taking another slot's order out of the table leaves a slot's order where it was. -/
theorem findSlot_set_none {slot : Nat} {l : List (Option Order)} {j : Nat} {p : Order} (h : l[j]? = some (some p))
    (hp : p.slot ≠ slot) (k : Nat) : findSlot slot (l.set j none) k = findSlot slot l k := by
  induction l generalizing j k with
  | nil => rfl
  | cons x r ih =>
    cases j with
    | zero =>
      simp only [List.getElem?_cons_zero, Option.some.injEq] at h
      subst h
      simp [findSlot, hp]
    | succ j =>
      rw [List.getElem?_cons_succ] at h
      cases x <;> simp [findSlot, ih h]

theorem getElem?_of_getOrder {s : State} {i : Nat} {o : Order} (h : getOrder s i = some o) : s.plan.table[i]? = some (some o) := by
  have hlt := getOrder_some_lt h
  rw [getOrder, List.getD_eq_getElem?_getD, List.getElem?_eq_getElem hlt] at h
  rw [List.getElem?_eq_getElem hlt]
  exact congrArg some h

theorem getOrder_of_orderOfSlot {s : State} {slot i : Nat} (h : orderOfSlot s slot = some i) :
    ∃ o, getOrder s i = some o ∧ o.slot = slot := by
  obtain ⟨-, o, ho, hs⟩ := findSlot_spec slot _ 0 i h
  exact ⟨o, by rw [getOrder, List.getD_eq_getElem?_getD]; simpa using congrArg (Option.getD · none) ho, hs⟩

/-- A slot's token frees the order of that slot alone, and only where it is COMPLETE (R21). -/
theorem freeReturned_cases (slot : Nat) (s : State) :
    freeReturned slot s = s ∨ ∃ j p, orderOfSlot s slot = some j ∧ getOrder s j = some p ∧ p.slot = slot
      ∧ p.state = .complete ∧ freeReturned slot s = freeOrder j s := by
  unfold freeReturned
  cases hj : orderOfSlot s slot with
  | none => exact .inl rfl
  | some j =>
    obtain ⟨p, hp, hs⟩ := getOrder_of_orderOfSlot hj
    dsimp only
    rw [hp]; dsimp only
    split
    · exact .inr ⟨j, p, rfl, hp, hs, ‹_›, rfl⟩
    · exact .inl rfl

/-- The orders of the other slots stay where a slot's token goes out. -/
theorem freeReturned_keeps {slot other : Nat} (h : slot ≠ other) (s : State) :
    orderOfSlot (freeReturned slot s) other = orderOfSlot s other
    ∧ ∀ i o, getOrder s i = some o → o.slot ≠ slot → getOrder (freeReturned slot s) i = some o := by
  rcases freeReturned_cases slot s with he | ⟨j, p, -, hp, hps, -, he⟩
  · rw [he]; exact ⟨rfl, fun _ _ ho _ => ho⟩
  · rw [he]
    refine ⟨?_, fun i o ho hos => ?_⟩
    · unfold orderOfSlot
      rw [freeOrder_table]
      exact findSlot_set_none (getElem?_of_getOrder hp) (by rw [hps]; exact h) 0
    · have hij : i ≠ j := by
        rintro rfl
        rw [hp] at ho
        exact hos (Option.some.inj ho ▸ hps)
      rw [getOrder_congr (freeOrder_table j s) (t := freeOrder j s) (s := putOrder j none s),
        getOrder_put s j i none (getOrder_some_lt hp), if_neg hij, ho]

/-- Orders of a slot stay where other writes than its RETURNED token are issued. -/
theorem issueWrite_keeps {w : SlotWrite} {slot : Nat} (h : w.slot = slot → w.offset ≠ 0) (s : State) :
    orderOfSlot (issueWrite w s) slot = orderOfSlot s slot
    ∧ ∀ i o, getOrder s i = some o → o.slot = slot → getOrder (issueWrite w s) i = some o := by
  unfold issueWrite
  dsimp only
  have he : (emitWrite (slotOffset w.slot w.offset) w.size w.value s).plan.table = s.plan.table := by simp
  split
  · rename_i h0
    have hne : w.slot ≠ slot := fun hs => h hs h0.1
    obtain ⟨h1, h2⟩ := freeReturned_keeps hne (emitWrite (slotOffset w.slot w.offset) w.size w.value s)
    have hc := fun t => show (countReturn t).plan.table = t.plan.table by simp
    exact ⟨(orderOfSlot_congr (hc _) slot).trans (h1.trans (orderOfSlot_congr he slot)), fun i o ho hs =>
      (getOrder_congr (hc _) i).trans (h2 i o ((getOrder_congr he i).trans ho) (by rw [hs]; exact hne.symm))⟩
  · exact ⟨orderOfSlot_congr he slot, fun i o ho _ => (getOrder_congr he i).trans ho⟩

/-- The writes go out one behind the other. -/
def issueAll (ws : List SlotWrite) (s : State) : State := ws.foldl (fun s w => issueWrite w s) s

theorem issueList_all (l : List SlotWrite) (n : Nat) (hn : l.length ≤ n) (s : State) :
    issueList l n s = { issueAll l s with link.waiting := [] } := by
  induction l generalizing n s with
  | nil => simp [issueList, issueAll]
  | cons w r ih =>
    obtain ⟨m, rfl⟩ : ∃ m, n = m + 1 := ⟨n - 1, by simp at hn; omega⟩
    rw [issueList, ih m (by simpa using hn)]
    rfl

theorem issueAll_keeps {ws : List SlotWrite} {slot : Nat} (h : ∀ w ∈ ws, w.slot = slot → w.offset ≠ 0) (s : State) :
    orderOfSlot (issueAll ws s) slot = orderOfSlot s slot
    ∧ ∀ i o, getOrder s i = some o → o.slot = slot → getOrder (issueAll ws s) i = some o := by
  induction ws generalizing s with
  | nil => exact ⟨rfl, fun _ _ ho _ => ho⟩
  | cons w r ih =>
    obtain ⟨h1, h2⟩ := issueWrite_keeps (h w (by simp)) s
    obtain ⟨g1, g2⟩ := ih (fun x hx => h x (by simp [hx])) (issueWrite w s)
    exact ⟨g1.trans h1, fun i o ho hs => g2 i o (h2 i o ho hs) hs⟩

/-- A COMPLETE order's context is free once its slot's token is out, and it has left the queue (R21, R49). -/
theorem freeReturned_complete {s : State} {slot i : Nat} {o : Order} (hi : orderOfSlot s slot = some i)
    (ho : getOrder s i = some o) (hc : o.state = .complete) : freeReturned slot s = freeOrder i s := by
  unfold freeReturned
  rw [hi]; dsimp only
  rw [ho]; exact if_pos hc

theorem freeOrder_queue (i : Nat) (s : State) : (freeOrder i s).plan.queue = s.plan.queue.filter (fun j => j != i) := by
  simp [freeOrder]

theorem getOrder_freeOrder {s : State} {i : Nat} {o : Order} (ho : getOrder s i = some o) : getOrder (freeOrder i s) i = none :=
  getOrder_set ho none _ (freeOrder_table i s)

/-- The token of a slot's return frees its order's context, whatever of other slots goes out before it (R21). -/
theorem issueAll_token {l : List SlotWrite} {slot i : Nat} {s : State} {o : Order} (hl : ∀ w ∈ l, w.slot = slot → w.offset ≠ 0)
    (hi : orderOfSlot s slot = some i) (ho : getOrder s i = some o) (hc : o.state = .complete) :
    getOrder (issueAll (l ++ [⟨slot, 0, 4, 3⟩]) s) i = none := by
  have hs := orderOfSlot_slot hi ho
  obtain ⟨h1, h2⟩ := issueAll_keeps hl s
  unfold issueAll at *
  rw [List.foldl_append, List.foldl_cons, List.foldl_nil, issueWrite]
  dsimp only
  rw [if_pos ⟨rfl, rfl⟩]
  let u := emitWrite (slotOffset slot 0) 4 3 (l.foldl (fun s w => issueWrite w s) s)
  have hu : u.plan.table = (l.foldl (fun s w => issueWrite w s) s).plan.table := by simp [u]
  have hui : getOrder u i = some o := (getOrder_congr hu i).trans (h2 i o ho hs)
  have hfree : freeReturned slot u = freeOrder i u :=
    freeReturned_complete ((orderOfSlot_congr hu slot).trans (h1.trans hi)) hui hc
  change getOrder (countReturn (freeReturned slot u)) i = none
  rw [hfree]
  exact (getOrder_congr (s := freeOrder i u) (by simp) i).trans (getOrder_freeOrder hui)

/-! ## The writes of a return -/

/-- The price, the outcome and RETURNED of a slot return, in their order (R21, R177). -/
def finalWrites (x : Setup) (o : Order) : List SlotWrite :=
  let p := finalPrice x o
  [⟨o.slot, 0x060, 4, p.subtotal⟩, ⟨o.slot, 0x064, 4, p.discount⟩, ⟨o.slot, 0x068, 4, p.rush⟩, ⟨o.slot, 0x06C, 4, p.fee⟩,
   ⟨o.slot, 0x070, 4, p.net⟩, ⟨o.slot, 0x074, 4, p.tax⟩, ⟨o.slot, 0x078, 4, p.total⟩, ⟨o.slot, 0x07C, 1, priceFlags p⟩,
   ⟨o.slot, 0x020, 1, (outcomeOf o).code⟩] ++ [⟨o.slot, 0, 4, 3⟩]

theorem beginReturn_eq (i : Nat) (o : Order) (s : State) :
    beginReturn i o s = pushAll (finalWrites s.setup o) (oweAnswer o.slot i o s) := by
  rw [beginReturn, pushPrice_eq]; rfl

theorem finalWrites_pairwise (x : Setup) (o : Order) : (finalWrites x o).Pairwise Passes := by
  simp [finalWrites, Passes]

theorem mem_finalWrites {x : Setup} {o : Order} {w : SlotWrite} (h : w ∈ finalWrites x o) :
    w.slot = o.slot ∧ (w.offset = 0 ∨ w.offset = 0x020 ∨ 0x060 ≤ w.offset ∧ w.offset < 0x080) := by
  simp only [finalWrites, List.cons_append, List.nil_append, List.mem_cons, List.not_mem_nil, or_false] at h
  rcases h with rfl | rfl | rfl | rfl | rfl | rfl | rfl | rfl | rfl | rfl <;> exact ⟨rfl, by simp⟩

/-- The outcome of a return as its field holds it (R21). -/
theorem outcomeOf_code (o : Order) : (outcomeOf o).code =
    if o.faultMark then 4 else if o.cancelled then 3 else if o.entries.any (fun e => decide (0 < e.a)) then 2 else 1 := by
  unfold outcomeOf
  split
  · rfl
  · split
    · rfl
    · split <;> rfl

/-- The answer that a return owes, if a request has been read (R17, R21). -/
def owedWrites (slot : Nat) (owed : Option SlotRequest) : List SlotWrite :=
  match owed with
  | some q => answerWrites slot q.number.toNat (if q.code = 1 ∨ q.code = 2 ∨ q.code = 3 then 2 else 3)
  | none => []

theorem answerOf_complete (code : Byte) : (answerOf (requestOf code) .complete).code = if code = 1 ∨ code = 2 ∨ code = 3 then 2 else 3 := by
  unfold requestOf
  split
  · rw [if_pos (.inl ‹_›)]; rfl
  · split
    · rw [if_pos (.inr (.inl ‹_›))]; rfl
    · split
      · rw [if_pos (.inr (.inr ‹_›))]; rfl
      · rw [if_neg (by tauto)]; rfl

/-- The owed answer is written before the price, and no more than the order's answered number changes (R21). -/
theorem oweAnswer_cases {slot i : Nat} {o : Order} {s : State} (hw : s.link.waiting = []) (ho : getOrder s i = some o) :
    ∃ p : Order, p.slot = o.slot ∧ p.state = o.state ∧ (oweAnswer slot i o s).plan.table = s.plan.table.set i (some p)
      ∧ (oweAnswer slot i o s).link.waiting =
          owedWrites slot (s.intake.sweep.bind (fun w => w.requests.find? (fun q => q.slot == slot)))
      ∧ ((∀ w, s.intake.sweep = some w → w.taken = none) → ∀ w, (oweAnswer slot i o s).intake.sweep = some w → w.taken = none) := by
  have hself : s.plan.table = s.plan.table.set i (some o) := (Turned.refl ho).table
  unfold oweAnswer
  cases hsw : s.intake.sweep with
  | none => exact ⟨o, rfl, rfl, hself, hw, fun h => by rw [hsw]; exact nofun⟩
  | some w =>
    dsimp only [Option.bind_some]
    cases hq : w.requests.find? (fun q => q.slot == slot) with
    | none => exact ⟨o, rfl, rfl, hself, hw, fun h => by rw [hsw]; exact h⟩
    | some q =>
      dsimp only
      have hX : (writeAnswer slot q.number (answerOf (requestOf q.code) .complete)
          (putOrder i (some { o with answered := q.number }) (dropRequest slot s))).link.waiting =
          answerWrites slot q.number.toNat (answerOf (requestOf q.code) .complete).code := by
        rw [putOrder_dropRequest, writeAnswer_eq]
        change insertWrites _ s.link.waiting = _
        rw [hw]; simp [answerWrites, insertWrite, offToken]
      rw [hoistAnswer_answers hX]
      refine ⟨{ o with answered := q.number }, rfl, rfl, ?_, ?_, fun h v hv => ?_⟩
      · rw [putOrder_dropRequest]; rfl
      · rw [hX, answerOf_complete]; rfl
      · rw [putOrder_dropRequest] at hv
        obtain ⟨v', hv', rfl⟩ := Option.map_eq_some_iff.1 (show (s.intake.sweep.map _) = some v from hv)
        exact h v' (hsw ▸ hv')

/-- A return whose writes alone wait goes out: its context is free, and it counts (R21, R22). -/
theorem return_goes_out {e : State} {slot i : Nat} {p : Order} {ls : List SlotWrite} (hl : e.setup.state ≠ .loading)
    (ht : ∀ w, e.intake.sweep = some w → w.taken = none) (hw : e.link.waiting = ls ++ [⟨slot, 0, 4, 3⟩])
    (hls : ∀ x ∈ ls, x.offset ≠ 0) (hi : orderOfSlot e slot = some i) (hp : getOrder e i = some p)
    (hc : p.state = .complete) :
    let t := progress none e
    getOrder t i = none ∧ i ∉ t.plan.queue ∧ t.link.unreported = min (e.link.unreported + 1) 64
      ∧ t.link.idleTimer = some e.setup.params.notifyIdle
      ∧ (e.setup.params.notifyTrigger ≤ min (e.link.unreported + 1) 64 → t.link.causes.completed = true) := by
  intro t
  obtain ⟨u, hu, hplan, hsetup, hun, -, -⟩ := progress_final e hl ht ls slot hls hw
  have hui : getOrder u i = some p := (getOrder_congr (by rw [hplan]) i).trans hp
  have hfree : freeReturned slot u = freeOrder i u :=
    freeReturned_complete ((orderOfSlot_congr (by rw [hplan]) slot).trans hi) hui hc
  have htplan : t.plan = (freeOrder i u).plan := by
    change (progress none e).plan = _
    rw [hu, hfree]
    exact (countReturn_frame _).2.2.2.2.2.2.2.1
  obtain ⟨hcu, hci⟩ := countReturn_link (freeOrder i u)
  have hlink : t.link = { (countReturn (freeOrder i u)).link with waiting := [] } := by
    change (progress none e).link = _
    rw [hu, hfree]
  have hfu : (freeOrder i u).link.unreported = e.link.unreported := by simp [hun]
  have hfs : (freeOrder i u).setup = e.setup := by simp [hsetup]
  refine ⟨?_, ?_, ?_, ?_, fun htrig => ?_⟩
  · exact (getOrder_congr (s := freeOrder i u) (by rw [htplan]) i).trans (getOrder_freeOrder hui)
  · rw [htplan, freeOrder_queue]; simp
  · rw [hlink]; exact hcu.trans (by rw [hfu])
  · rw [hlink]; exact hci.trans (by rw [hfs])
  · rw [hlink]
    unfold countReturn
    dsimp only
    rw [if_pos (by rw [hfs, hfu]; exact htrig)]
    rfl

/-! ## Returns that a setup load holds up (R176) -/

/-- A price rests on these fields of the setup alone (R165 to R173). -/
structure SamePrices (x y : Setup) : Prop where
  products : y.products = x.products
  discounts : y.discounts = x.discounts
  handlingFee : y.handlingFee = x.handlingFee
  rushSurcharge : y.rushSurcharge = x.rushSurcharge
  taxRate : y.taxRate = x.taxRate

theorem finalPrice_congr {x y : Setup} (h : SamePrices x y) (o : Order) : finalPrice y o = finalPrice x o := by
  have hl : lineAmount y = lineAmount x := by
    funext c es p; unfold lineAmount getProduct; rw [h.products]
  unfold finalPrice priceOf
  rw [hl, h.discounts, h.handlingFee, h.rushSurcharge, h.taxRate]

theorem finalWrites_congr {x y : Setup} (h : SamePrices x y) (o : Order) : finalWrites y o = finalWrites x o := by
  unfold finalWrites; rw [finalPrice_congr h]

theorem SamePrices.trans {x y z : Setup} (h : SamePrices x y) (g : SamePrices y z) : SamePrices x z :=
  ⟨g.products.trans h.products, g.discounts.trans h.discounts, g.handlingFee.trans h.handlingFee,
    g.rushSurcharge.trans h.rushSurcharge, g.taxRate.trans h.taxRate⟩

theorem samePrices_noteClamp (f : SetupField) (clamped : Bool) (x : Setup) : SamePrices x (noteClamp f clamped x) := by
  unfold noteClamp noteRefused
  split
  · split <;> exact ⟨rfl, rfl, rfl, rfl, rfl⟩
  · exact ⟨rfl, rfl, rfl, rfl, rfl⟩

/-- A value of the uniformity table changes no price. -/
theorem samePrices_storeUniformity (k raw : Nat) (x : Setup) : SamePrices x (storeField (.uniformity k) raw x) :=
  SamePrices.trans (y := storeValue (.uniformity k) _ x) ⟨rfl, rfl, rfl, rfl, rfl⟩ (samePrices_noteClamp _ _ _)

theorem loadRead_badRevision {v : BitVec 64} (h : v.toNat % 2 ^ 32 ≠ 1) (s : State) :
    loadRead .revision (some v) s = endLoad .invalid { s with setup.firstRefused := .header } := if_pos ⟨rfl, h⟩

theorem loadRead_last (v : BitVec 64) (s : State) :
    loadRead (.uniformity 9215) (some v) s = endLoad .valid { s with setup := storeField (.uniformity 9215) v.toNat s.setup } := by
  unfold loadRead
  dsimp only
  rw [if_neg (by simp)]
  rfl

/-- The last read of a load, a failed one, and one of a bad revision word end the load, and change no price. -/
theorem loadRead_ended {f : SetupField} {result : Option (BitVec 64)} (s : State)
    (h : result = none ∨ ∃ v, result = some v ∧ (f = .uniformity 9215 ∨ (f = .revision ∧ v.toNat % 2 ^ 32 ≠ 1))) :
    (loadRead f result s).setup.state ≠ .loading ∧ SamePrices s.setup (loadRead f result s).setup := by
  rcases h with rfl | ⟨v, rfl, rfl | ⟨rfl, hv⟩⟩
  · have : (loadRead f none s).setup = { s.setup with state := .invalid, cursor := none } := by
      simp [loadRead, endLoad]
    rw [this]
    exact ⟨nofun, ⟨rfl, rfl, rfl, rfl, rfl⟩⟩
  · rw [loadRead_last]
    exact ⟨nofun, (samePrices_storeUniformity 9215 v.toNat s.setup).trans ⟨rfl, rfl, rfl, rfl, rfl⟩⟩
  · rw [loadRead_badRevision hv]
    exact ⟨nofun, ⟨rfl, rfl, rfl, rfl, rfl⟩⟩

/-- A context with no return due stays as it is at the end of a load. -/
theorem returnDueOf_none {s : State} {j : Nat} (h : ∀ p, getOrder s j = some p → p.returnDue = false) : returnDueOf s j = s := by
  unfold returnDueOf
  cases hp : getOrder s j with
  | none => rfl
  | some p => exact if_neg (by simp [h p hp])

theorem foldl_returnDueOf_none (l : List Nat) {s : State} (h : ∀ j ∈ l, ∀ p, getOrder s j = some p → p.returnDue = false) :
    l.foldl returnDueOf s = s := by
  induction l with
  | nil => rfl
  | cons j r ih => rw [List.foldl_cons, returnDueOf_none (h j (by simp)), ih fun k hk => h k (by simp [hk])]

/-- The one return that waits begins at the end of the load. -/
theorem returnsAfterLoad_one {s : State} {i : Nat} {o : Order} (hl : s.setup.state ≠ .loading) (hi : i < 16)
    (ho : getOrder s i = some o) (hc : o.state = .complete) (hd : o.detached = false) (hdue : o.returnDue = true)
    (hother : ∀ j p, j ≠ i → getOrder s j = some p → p.returnDue = false) (hret : returnWaiting s o.slot = false)
    (hreq : ∀ w, s.intake.sweep = some w → ∀ q ∈ w.requests, q.slot ≠ o.slot) :
    returnsAfterLoad s = pushAll (finalWrites s.setup o) (putOrder i (some { o with returnDue := false }) s) := by
  obtain ⟨l1, l2, hsplit⟩ := List.append_of_mem (List.mem_range.2 hi)
  have hnd : (l1 ++ i :: l2).Nodup := hsplit ▸ List.nodup_range
  rw [List.nodup_append, List.nodup_cons] at hnd
  obtain ⟨-, ⟨h2, -⟩, h1⟩ := hnd
  have howe : oweAnswer o.slot i { o with returnDue := false } (putOrder i (some { o with returnDue := false }) s) =
      putOrder i (some { o with returnDue := false }) s := by
    unfold oweAnswer
    cases hw : (putOrder i (some { o with returnDue := false }) s).intake.sweep with
    | none => rfl
    | some w =>
      dsimp only
      rw [List.find?_eq_none.2 fun q hq => by simp [hreq w hw q hq]]
  have hi' : returnDueOf s i = pushAll (finalWrites s.setup o) (putOrder i (some { o with returnDue := false }) s) := by
    unfold returnDueOf
    rw [ho]; dsimp only
    rw [if_pos ⟨hdue, hc, hd, hret⟩, beginReturn_eq]
    rw [howe]
    rfl
  unfold returnsAfterLoad
  rw [if_neg hl, show Config.contexts = 16 from rfl, hsplit, List.foldl_append, List.foldl_cons,
    foldl_returnDueOf_none l1 fun j hj p hp => hother j p (fun h => h1 j hj i (by simp) h) hp, hi']
  refine foldl_returnDueOf_none l2 fun j hj p hp => ?_
  have hji : j ≠ i := fun h => h2 (h ▸ hj)
  refine hother j p hji ?_
  rw [← hp]
  exact ((getOrder_put s i j _ (getOrder_some_lt ho)).trans (if_neg hji)).symm

theorem sublist_of_eq {α : Type} {l m : List α} (h : l = m) : l.Sublist m := h ▸ List.Sublist.refl l

/-- The final writes as they go out. -/
theorem finalWrites_wrote (s : State) (o : Order) : (finalWrites s.setup o).map (wroteSlot s) =
    let field (k n v : Nat) : Output := .write (jobAddr s (0x10000 + o.slot * 0x1000 + k)) n v
    let p := priceOf s.setup o.rush o.custClass Entry.g o.entries
    let short := o.entries.any (fun e => decide (0 < e.a))
    [field 0x060 4 p.subtotal, field 0x064 4 p.discount, field 0x068 4 p.rush, field 0x06C 4 p.fee,
     field 0x070 4 p.net, field 0x074 4 p.tax, field 0x078 4 p.total,
     field 0x07C 1 (bit short + 2 * bit o.cancelled + 4 * bit p.saturated),
     field 0x020 1 (if o.faultMark then 4 else if o.cancelled then 3 else if short then 2 else 1), field 0 4 3] := by
  simp only [finalWrites, outcomeOf_code, finalPrice, priceFlags, List.cons_append, List.nil_append, List.map_cons,
    List.map_nil, wroteSlot]

/-- A return is left alone where no COMPLETE order of the slot awaits it (R21). -/
theorem slotReturn_left {slot : Nat} {s : State} (h : orderOfSlot s slot = none ∨ returnWaiting s slot = true
    ∨ ∃ i o, orderOfSlot s slot = some i ∧ getOrder s i = some o ∧ (o.state ≠ .complete ∨ o.detached = true)) :
    slotReturn slot s = s := by
  unfold slotReturn
  cases hi : orderOfSlot s slot with
  | none => rfl
  | some i =>
    obtain ⟨o, ho, -⟩ := getOrder_of_orderOfSlot hi
    dsimp only
    rw [ho]; dsimp only
    refine if_neg fun ⟨hc, hd, hr⟩ => ?_
    rcases h with h | h | ⟨j, p, hj, hp, h⟩
    · rw [hi] at h; cases h
    · rw [hr] at h; cases h
    · rw [hi] at hj
      obtain rfl := Option.some.inj hj
      rw [ho] at hp
      obtain rfl := Option.some.inj hp
      rw [hd] at h
      exact h.elim (· hc) nofun

/-- A return of a COMPLETE order that holds its slot. -/
theorem slotReturn_complete {slot i : Nat} {s : State} {o : Order} (hi : orderOfSlot s slot = some i)
    (ho : getOrder s i = some o) (hc : o.state = .complete) (hd : o.detached = false) (hr : returnWaiting s slot = false) :
    slotReturn slot s = if s.setup.state = .loading then putOrder i (some { o with returnDue := true }) s
      else beginReturn i o s := by
  unfold slotReturn
  rw [hi]; dsimp only
  rw [ho]; exact if_pos ⟨hc, hd, hr⟩

/-- With nothing waiting, a return's writes are the answer it owes and the final ones, and they go out (R21, R22). -/
theorem beginReturn_goes_out {slot i : Nat} {s : State} {o : Order} (ha : s.link.areaSet = true) (hq : Quiet s)
    (hl : s.setup.state ≠ .loading) (hi : orderOfSlot s slot = some i) (ho : getOrder s i = some o)
    (hc : o.state = .complete) (hout : s.out = []) :
    let t := progress none (beginReturn i o s)
    let owed := s.intake.sweep.bind (fun w => w.requests.find? (fun q => q.slot == slot))
    t.out = (owedWrites slot owed ++ finalWrites s.setup o).map (wroteSlot s)
      ∧ getOrder t i = none ∧ i ∉ t.plan.queue ∧ t.link.unreported = min (s.link.unreported + 1) 64
      ∧ t.link.idleTimer = some s.setup.params.notifyIdle
      ∧ (s.setup.params.notifyTrigger ≤ min (s.link.unreported + 1) 64 → t.link.causes.completed = true) := by
  intro t owed
  have hslot := orderOfSlot_slot hi ho
  obtain ⟨p, hps, hpc, htab, hwait, htaken⟩ := oweAnswer_cases (slot := slot) hq.waiting ho
  have hws : (beginReturn i o s).link.waiting = owedWrites slot owed ++ finalWrites s.setup o := by
    rw [beginReturn_eq]
    change insertWrites _ (oweAnswer o.slot i o s).link.waiting = _
    rw [hslot, hwait]
    refine insertWrites_fresh _ _ (fun v hv w hw _ => ?_) (finalWrites_pairwise _ _)
    have hv' : v.offset = 0x014 ∨ v.offset = 0x015 := by
      generalize owed = q at hv
      unfold owedWrites at hv
      split at hv
      · simp only [answerWrites, List.mem_cons, List.not_mem_nil, or_false] at hv
        rcases hv with rfl | rfl <;> simp
      · cases hv
    have hw' := (mem_finalWrites hw).2
    omega
  have htab' : (beginReturn i o s).plan.table = s.plan.table.set i (some p) := by
    rw [beginReturn_eq, hslot]; exact htab
  have hsw : (beginReturn i o s).intake.sweep = (oweAnswer slot i o s).intake.sweep := by
    rw [beginReturn_eq, hslot]; rfl
  have ht : ∀ w, (beginReturn i o s).intake.sweep = some w → w.taken = none := fun w hw => htaken hq.taken w (hsw ▸ hw)
  have hset : (beginReturn i o s).setup = s.setup := by simp
  obtain ⟨h1, h2⟩ := found_set (X := beginReturn i o s) hi ho hps htab'
  refine ⟨?_, ?_⟩
  · refine (progress_out _ (by rw [hset]; exact hl) ht).trans ?_
    rw [if_pos (by simp [ha]), hws]
    have hb : (beginReturn i o s).out = [] := by simp [hout]
    rw [hb, List.nil_append]
    exact List.map_congr_left fun w _ => wroteSlot_congr (s := s) (by simp) w
  · have hgo := return_goes_out (e := beginReturn i o s) (slot := slot) (by rw [hset]; exact hl) ht
      (ls := owedWrites slot owed ++ (finalWrites s.setup o).dropLast)
      (by rw [hws, List.append_assoc, ← hslot]; rfl)
      (fun x hx => ?_) h1 h2 (hpc.trans hc)
    · simpa using hgo
    · rcases List.mem_append.1 hx with hx | hx
      · generalize owed = q at hx
        unfold owedWrites at hx
        split at hx
        · exact (answerWrites_ofSlot _ _ _ x hx).2
        · cases hx
      · simp only [finalWrites, List.cons_append, List.nil_append, List.dropLast, List.mem_cons, List.not_mem_nil, or_false] at hx
        rcases hx with rfl | rfl | rfl | rfl | rfl | rfl | rfl | rfl | rfl <;> simp

/-- All writes that wait go out, and a slot's token frees its order's context (R21). -/
theorem progress_token {e : State} {slot i : Nat} {p : Order} {ls : List SlotWrite} (hl : e.setup.state ≠ .loading)
    (ht : ∀ w, e.intake.sweep = some w → w.taken = none) (hw : e.link.waiting = ls ++ [⟨slot, 0, 4, 3⟩])
    (hls : ∀ x ∈ ls, x.slot = slot → x.offset ≠ 0) (hi : orderOfSlot e slot = some i) (hp : getOrder e i = some p)
    (hc : p.state = .complete) : getOrder (progress none e) i = none := by
  rw [progress, resumeTake_none ht, issueWaiting_due none hl, issueList_all _ _ (by simp), hw]
  exact issueAll_token hls hi hp hc

/-- A load's end begins the return that waits for it, behind the slot's writes that wait, and all of them go out (R176). -/
theorem loadEnd_returns {result : Option (BitVec 64)} {s : State} {f : SetupField} {i : Nat} {o : Order}
    (hl : live s = true) (ha : s.link.areaSet = true) (hcur : s.setup.cursor = some f)
    (hres : result = none ∨ ∃ v, result = some v ∧ (f = .uniformity 9215 ∨ (f = .revision ∧ v.toNat % 2 ^ 32 ≠ 1)))
    (hi16 : i < 16) (hi : orderOfSlot s o.slot = some i) (ho : getOrder s i = some o) (hc : o.state = .complete)
    (hd : o.detached = false) (hdue : o.returnDue = true)
    (hother : ∀ j p, j ≠ i → getOrder s j = some p → p.returnDue = false)
    (hsw : ∀ w, s.intake.sweep = some w → w.taken = none ∧ ∀ q ∈ w.requests, q.slot ≠ o.slot)
    (hwait : ∀ x ∈ s.link.waiting, x.slot = o.slot → x.offset ≠ 0 ∧ x.offset ≠ 0x020 ∧ ¬(0x060 ≤ x.offset ∧ x.offset < 0x080)) :
    ∃ t, exec (.setupReadComplete result false) s = .next t
      ∧ ((s.link.waiting ++ finalWrites s.setup o).map (wroteSlot s)).Sublist t.out ∧ getOrder t i = none := by
  obtain ⟨hload, hsame⟩ := loadRead_ended (clearOut s) hres
  obtain ⟨B, hB⟩ : ∃ B, B = evalFetch (loadRead f result (clearOut s)) := ⟨_, rfl⟩
  have hBplan : B.plan = s.plan := by rw [hB]; simp
  have hBset : B.setup = (loadRead f result (clearOut s)).setup := by rw [hB]; simp
  have hBwait : B.link.waiting = s.link.waiting := by rw [hB]; simp
  have hBint : B.intake = s.intake := by rw [hB]; simp
  have hBarea : B.link.area = s.link.area ∧ B.link.areaSet = s.link.areaSet := by rw [hB]; simp
  have hBi : orderOfSlot B o.slot = some i := (orderOfSlot_congr (by rw [hBplan]) _).trans hi
  have hBo : getOrder B i = some o := (getOrder_congr (by rw [hBplan]) _).trans ho
  have hret : returnWaiting B o.slot = false := by
    rw [returnWaiting, hBwait, List.any_eq_false]
    intro x hx
    simp only [Bool.and_eq_true, beq_iff_eq, not_and]
    exact fun hs => (hwait x hx hs).1
  have hBl : B.setup.state ≠ .loading := hBset ▸ hload
  have he := returnsAfterLoad_one hBl hi16 hBo hc hd hdue (fun j p hj hp => hother j p hj (by
    rw [← hp]; exact (getOrder_congr (by rw [hBplan]) j).symm)) hret fun w hw => (hsw w (hBint ▸ hw)).2
  have hfin : finalWrites B.setup o = finalWrites s.setup o := finalWrites_congr (hBset ▸ hsame) o
  obtain ⟨e, hedef⟩ : ∃ e, e = returnsAfterLoad B := ⟨_, rfl⟩
  rw [← hedef, hfin] at he
  have hews : e.link.waiting = s.link.waiting ++ finalWrites s.setup o := by
    rw [he]
    change insertWrites _ B.link.waiting = _
    rw [hBwait]
    refine insertWrites_fresh _ _ (fun v hv w hw hs => ?_) (finalWrites_pairwise _ _)
    obtain ⟨hws, hwo⟩ := mem_finalWrites hw
    obtain ⟨h0, h1, h2⟩ := hwait v hv (hs.trans hws)
    exact ⟨by omega, h0⟩
  have heset : e.setup = B.setup := by rw [he]; rfl
  have hesw : e.intake = s.intake := by rw [he]; exact hBint
  have het : ∀ w, e.intake.sweep = some w → w.taken = none := fun w hw => (hsw w (hesw ▸ hw)).1
  obtain ⟨h1, h2⟩ := found_set (X := e) (p := { o with returnDue := false }) hBi hBo rfl (by rw [he]; rfl)
  refine ⟨_, answers_act (f := setupRead result) (e := e) hl rfl ?_, publish_out_sub ?_, ?_⟩
  · rw [setupRead, show (clearOut s).setup.cursor = some f from hcur, hedef, hB]
  · rw [progress_out e (by rw [heset]; exact hBl) het]
    have hea : e.link.area = s.link.area ∧ e.link.areaSet = s.link.areaSet := by rw [he]; exact hBarea
    rw [if_pos (by rw [hea.2]; exact ha), hews]
    rw [List.map_congr_left fun w _ => (wroteSlot_congr hea.1 w).symm]
    exact List.sublist_append_right _ _
  · refine (getOrder_congr (by rw [publish_plan]) i).trans (progress_token (slot := o.slot) (p := { o with returnDue := false })
      (ls := s.link.waiting ++ (finalWrites s.setup o).dropLast) (by rw [heset]; exact hBl) het ?_ ?_ h1 h2 hc)
    · rw [hews, List.append_assoc]; rfl
    · intro x hx hs
      rcases List.mem_append.1 hx with hx | hx
      · exact (hwait x hx hs).1
      · simp only [finalWrites, List.cons_append, List.nil_append, List.dropLast, List.mem_cons, List.not_mem_nil, or_false] at hx
        rcases hx with rfl | rfl | rfl | rfl | rfl | rfl | rfl | rfl | rfl <;> simp

/-- Settles O23, by what a return's writes come to (`beginReturn_goes_out`) and where a load's end lets them begin
(`returnsAfterLoad_one`). -/
theorem slotReturnWritesPriceOutcomeToken : Obligations.SlotReturnWritesPriceOutcomeToken := by
  unfold Obligations.SlotReturnWritesPriceOutcomeToken
  intro final
  refine ⟨fun slot s hl => ⟨fun h room => ?_, fun i o hi ho => ⟨fun h room => ?_, fun hc hd hload hr room => ?_,
    fun hc hd hload ha hq => ?_⟩⟩, fun result s f i o hl ha hcur hres hi16 hi ho hc hd hdue hother hsw hwait => ?_⟩
  · exact answers_act (f := slotReturn slot) hl rfl (slotReturn_left (s := clearOut s) (h.imp_right .inl))
  · exact answers_act (f := slotReturn slot) hl rfl (slotReturn_left (s := clearOut s) (.inr (.inr ⟨i, o, hi, ho, h⟩)))
  · exact answers_act (f := slotReturn slot) hl rfl
      ((slotReturn_complete (s := clearOut s) hi ho hc hd hr).trans (if_pos hload))
  · intro owed field
    have hr : returnWaiting (clearOut s) slot = false := by
      unfold returnWaiting
      rw [show (clearOut s).link.waiting = [] from hq.waiting]; rfl
    have he := (slotReturn_complete (s := clearOut s) hi ho hc hd hr).trans (if_neg hload)
    obtain ⟨g1, g2, g3, g4, g5, g6⟩ := beginReturn_goes_out (s := clearOut s) ha ⟨hq.waiting, hq.taken⟩ hload hi ho hc rfl
    refine ⟨_, answers_act (f := slotReturn slot) hl rfl he, publish_out_sub ?_, ?_, ?_, ?_, ?_, ?_⟩
    · have hfinal : (finalWrites (clearOut s).setup o).map (wroteSlot (clearOut s)) = final s o := finalWrites_wrote _ _
      have howed : (owedWrites slot owed).map (wroteSlot (clearOut s)) = (match owed with
          | some q => [field 0x014 1 q.number.toNat, field 0x015 1 (if q.code = 1 ∨ q.code = 2 ∨ q.code = 3 then 2 else 3)]
          | none => []) := by
        cases owed <;> rfl
      have hout := (g1.trans List.map_append).trans (congrArg₂ (· ++ ·) howed hfinal)
      exact sublist_of_eq hout.symm
    · exact (getOrder_congr (by rw [publish_plan]) i).trans g2
    · rw [publish_plan]; exact g3
    · rw [publish_link]; exact g4
    · rw [publish_link]; exact g5
    · rw [publish_link]; exact g6
  · obtain ⟨t, ht, hsub, hnone⟩ := loadEnd_returns hl ha hcur hres hi16 hi ho hc hd hdue hother hsw hwait
    refine ⟨t, ht, ?_, hnone⟩
    rw [List.map_append, finalWrites_wrote] at hsub
    exact hsub

end Sys2Proof.Machine
end

section
/-! Takes: the verdict, the writes of an admission, and what goes out in the step (R12 to R15, R42 to R44). -/

open Sys2Proof Sys2Proof.Machine

namespace Sys2Proof.Machine

set_option Elab.async false

/-! ## Issuing while a load runs -/

/-- Where no write that waits has to wait for a load, all of them go out (R176). -/
theorem issueWaiting_allDue {s : State} (h : ∀ x ∈ s.link.waiting, awaitsLoad s x.slot = false) :
    issueWaiting none s = issueList s.link.waiting s.link.waiting.length s := by
  by_cases hl : s.setup.state = .loading
  · have hkept : s.link.waiting.filter (fun w => awaitsLoad s w.slot) = [] :=
      List.filter_eq_nil_iff.2 fun x hx => by simp [h x hx]
    have hdue : s.link.waiting.filter (fun w => !awaitsLoad s w.slot) = s.link.waiting :=
      List.filter_eq_self.2 fun x hx => by simp [h x hx]
    rw [issueWaiting_loading none hl, hkept, hdue]
    dsimp only
    rw [Option.getD_none, issueList_all _ _ (by simp)]
    rfl
  · exact issueWaiting_due none hl

/-- A slot whose RETURNED write waits has none that wait for a load. -/
theorem awaitsLoad_returning {s : State} {slot : Nat} (h : returnWaiting s slot = true) : awaitsLoad s slot = false := by
  unfold awaitsLoad; rw [h]; rfl

/-- A slot whose order is not COMPLETE has no write that waits for a load. -/
theorem awaitsLoad_open {s : State} {slot i : Nat} {o : Order} (hi : orderOfSlot s slot = some i) (ho : getOrder s i = some o)
    (h : o.state ≠ .complete) : awaitsLoad s slot = false := by
  unfold awaitsLoad
  rw [hi, Option.bind_some, ho]
  simp [h]

/-! ## Free contexts -/

theorem findFree_spec (l : List (Option Order)) (k i : Nat) (h : findFree l k = some i) : k ≤ i ∧ l[i - k]? = some none := by
  induction l generalizing k with
  | nil => cases h
  | cons x r ih =>
    cases x with
    | none => obtain rfl := Option.some.inj h; simp
    | some o =>
      obtain ⟨h1, h2⟩ := ih _ h
      exact ⟨by omega, by rw [show i - k = (i - (k + 1)) + 1 by omega]; simpa using h2⟩

theorem findFree_isSome (l : List (Option Order)) (k : Nat) : (findFree l k).isSome = true ↔ none ∈ l := by
  induction l generalizing k with
  | nil => simp [findFree]
  | cons x r ih => cases x <;> simp [findFree, ih]

/-- An order entered in a free place is the one of its slot, where the slot had none. -/
theorem findSlot_set_new {slot : Nat} {l : List (Option Order)} {i k : Nat} {p : Order} (hfree : l[i]? = some none)
    (hnone : findSlot slot l k = none) (hp : p.slot = slot) : findSlot slot (l.set i (some p)) k = some (k + i) := by
  induction l generalizing i k with
  | nil => cases hfree
  | cons x r ih =>
    cases i with
    | zero => simp [findSlot, hp]
    | succ i =>
      rw [List.getElem?_cons_succ] at hfree
      cases x with
      | none => simpa [findSlot, Nat.add_assoc, Nat.add_comm 1] using ih hfree hnone
      | some o =>
        simp only [findSlot] at hnone
        split at hnone
        · cases hnone
        · rename_i hne
          simpa [findSlot, hne, Nat.add_assoc, Nat.add_comm 1] using ih hfree hnone

/-! ## The beginning of the next take -/

theorem nextTake_none {s : State} {w : Sweep} (hw : s.intake.sweep = some w) (hc : w.candidates = []) : nextTake s = s := by
  unfold nextTake
  rw [hw]; dsimp only
  rw [hc]

/-- The next candidate's take begins in RUNNING with a free context, and reads its header (R11, R12). -/
theorem nextTake_begins {s : State} {w : Sweep} {c : Nat} {rest : List Nat} (hw : s.intake.sweep = some w)
    (hc : w.candidates = c :: rest) (h : s.eng.state = .running ∧ none ∈ s.plan.table) :
    nextTake s = emitReads c takeHeaderFields
      { s with intake.sweep := some { w with candidates := rest, taking := some c } } := by
  unfold nextTake
  rw [hw]; dsimp only
  rw [hc]
  exact if_pos ⟨h.1, (findFree_isSome _ 0).2 h.2⟩

theorem nextTake_stops {s : State} {w : Sweep} {c : Nat} {rest : List Nat} (hw : s.intake.sweep = some w)
    (hc : w.candidates = c :: rest) (h : s.eng.state ≠ .running ∨ none ∉ s.plan.table) :
    nextTake s = { s with intake.sweep := some { w with candidates := [] } } := by
  unfold nextTake
  rw [hw]; dsimp only
  rw [hc]
  exact if_neg fun ⟨h1, h2⟩ => h.elim (· h1) (· ((findFree_isSome _ 0).1 h2))

/-! ## The writes of a verdict -/

/-- A refusal: the outcome, the refuse code, RETURNED (R14). -/
def refusalWrites (slot : Nat) (code : RefuseCode) : List SlotWrite :=
  [⟨slot, 0x020, 1, 5⟩, ⟨slot, 0x021, 1, code.code⟩] ++ [⟨slot, 0, 4, 3⟩]

theorem refuse_eq (slot : Nat) (code : RefuseCode) (s : State) : refuse slot code s = pushAll (refusalWrites slot code) s := rfl

/-- The fields of an admission before the results: the request answered, the outcome, the mirror, the bin count (R15). -/
def admissionHead (slot number : Nat) (st : OrderState) : List SlotWrite :=
  [⟨slot, 0x014, 1, number⟩, ⟨slot, 0x015, 1, 0⟩, ⟨slot, 0x020, 1, 0⟩, ⟨slot, 0x021, 1, 0⟩] ++
    [mirrorWrite slot st, ⟨slot, 0x023, 1, 0⟩]

/-- The 64 entry results, every one 0 (R15, log entry 17). -/
def clearedResult (slot k : Nat) : List SlotWrite :=
  [⟨slot, 0x900 + 16 * k, 2, 0⟩, ⟨slot, 0x902 + 16 * k, 2, 0⟩, ⟨slot, 0x904 + 16 * k, 2, 0⟩, ⟨slot, 0x906 + 16 * k, 2, 0⟩,
   ⟨slot, 0x908 + 16 * k, 1, 0⟩]

/-- The estimate (R175). -/
def estimateWrites (slot : Nat) (p : Price) : List SlotWrite :=
  [⟨slot, 0x040, 4, p.subtotal⟩, ⟨slot, 0x044, 4, p.discount⟩, ⟨slot, 0x048, 4, p.rush⟩, ⟨slot, 0x04C, 4, p.fee⟩,
   ⟨slot, 0x050, 4, p.net⟩, ⟨slot, 0x054, 4, p.tax⟩, ⟨slot, 0x058, 4, p.total⟩, ⟨slot, 0x05C, 1, priceFlags p⟩]

/-- The writes of an admission, with the mirror of this state (R15). -/
def admittedWrites (slot number : Nat) (p : Price) (st : OrderState) : List SlotWrite :=
  admissionHead slot number st ++ ((List.range 64).flatMap (clearedResult slot) ++ estimateWrites slot p)

theorem admissionWrites_eq (o : Order) (s : State) :
    admissionWrites o s =
      pushAll ((List.range 64).flatMap (clearedResult o.slot)) (pushAll (admissionHead o.slot o.answered.toNat .queued) s) := by
  have hhead : pushAll (admissionHead o.slot o.answered.toNat .queued) s =
      pushWrite o.slot offBinsCount 1 0 (pushWrite o.slot offMirror 1 OrderState.queued.code
        (pushWrite o.slot offRefuse 1 0 (pushWrite o.slot offOutcome 1 SlotOutcome.pending.code
          (pushWrite o.slot offAnswer 1 Answer.none.code (pushWrite o.slot offAnswered 1 o.answered.toNat s))))) := by
    simp only [admissionHead, mirrorWrite, pushAll, pushWrite, List.cons_append, List.nil_append, insertWrites_cons,
      insertWrites_nil, offBinsCount, offMirror, offRefuse, offOutcome, offAnswer, offAnswered, Answer.code, SlotOutcome.code]
  rw [hhead, admissionWrites]
  exact foldl_pushAll _ (clearedResult o.slot) _ (fun t k _ => pushResultFields_eq o.slot k 0 0 0 0 0 t) _

theorem mem_clearedResult {slot k : Nat} {w : SlotWrite} (h : w ∈ clearedResult slot k) :
    w.slot = slot ∧ 0x900 + 16 * k ≤ w.offset ∧ w.offset < 0x900 + 16 * (k + 1) := by
  simp only [clearedResult, List.mem_cons, List.not_mem_nil, or_false] at h
  rcases h with rfl | rfl | rfl | rfl | rfl <;> (refine ⟨rfl, ?_, ?_⟩ <;> dsimp only <;> omega)

theorem clearedResults_pairwise (slot n : Nat) : ((List.range n).flatMap (clearedResult slot)).Pairwise Passes := by
  rw [List.pairwise_flatMap]
  refine ⟨fun k _ => resultFields_pairwise slot k 0 0 0 0 0, List.pairwise_lt_range.imp fun {j k} hjk v hv w hw _ => ?_⟩
  have hv := (mem_clearedResult hv).2
  have hw := (mem_clearedResult hw).2
  omega

theorem mem_admissionHead {slot number : Nat} {st : OrderState} {w : SlotWrite} (h : w ∈ admissionHead slot number st) :
    w.slot = slot ∧ 0x014 ≤ w.offset ∧ w.offset < 0x040 := by
  simp only [admissionHead, mirrorWrite, List.cons_append, List.nil_append, List.mem_cons, List.not_mem_nil, or_false] at h
  rcases h with rfl | rfl | rfl | rfl | rfl | rfl <;> exact ⟨rfl, by simp, by simp⟩

theorem mem_estimateWrites {slot : Nat} {p : Price} {w : SlotWrite} (h : w ∈ estimateWrites slot p) :
    w.slot = slot ∧ 0x040 ≤ w.offset ∧ w.offset < 0x060 := by
  simp only [estimateWrites, List.mem_cons, List.not_mem_nil, or_false] at h
  rcases h with rfl | rfl | rfl | rfl | rfl | rfl | rfl | rfl <;> exact ⟨rfl, by simp, by simp⟩

theorem admittedWrites_pairwise (slot number : Nat) (p : Price) (st : OrderState) :
    (admittedWrites slot number p st).Pairwise Passes := by
  have hres {w : SlotWrite} (h : w ∈ (List.range 64).flatMap (clearedResult slot)) : 0x900 ≤ w.offset := by
    obtain ⟨k, -, hk⟩ := List.mem_flatMap.1 h
    have := (mem_clearedResult hk).2
    omega
  unfold admittedWrites
  rw [List.pairwise_append, List.pairwise_append]
  refine ⟨by simp [admissionHead, mirrorWrite, Passes], ⟨clearedResults_pairwise slot 64, by simp [estimateWrites, Passes],
    fun v hv w hw _ => ?_⟩, fun v hv w hw _ => ?_⟩
  · have hv := hres hv
    have hw := (mem_estimateWrites hw).2
    omega
  · have hv := (mem_admissionHead hv).2
    rcases List.mem_append.1 hw with hw | hw
    · have hw := hres hw
      omega
    · have hw := (mem_estimateWrites hw).2
      omega

theorem mem_admittedWrites {slot number : Nat} {p : Price} {st : OrderState} {w : SlotWrite}
    (h : w ∈ admittedWrites slot number p st) : w.slot = slot ∧ w.offset ≠ 0 := by
  rcases List.mem_append.1 h with h | h
  · have := mem_admissionHead h
    exact ⟨this.1, by omega⟩
  · rcases List.mem_append.1 h with h | h
    · obtain ⟨k, -, hk⟩ := List.mem_flatMap.1 h
      have := mem_clearedResult hk
      exact ⟨this.1, by omega⟩
    · have := mem_estimateWrites h
      exact ⟨this.1, by omega⟩

/-- The mirror of an admission takes another state in its place. -/
theorem admittedWrites_mirror (slot number : Nat) (p : Price) (st st' : OrderState) :
    insertWrite (mirrorWrite slot st') (admittedWrites slot number p st) = admittedWrites slot number p st' := by
  unfold admittedWrites admissionHead
  rw [List.append_assoc, List.append_assoc, insertWrite_append _ _ _ (by simp [mirrorWrite])]
  exact congrArg _ (insertWrite_merge (w := mirrorWrite slot st') (v := mirrorWrite slot st) rfl rfl _)

/-! ## The verdict and what goes out with it -/

theorem nextTake_link (s : State) : (nextTake s).link = s.link := by simp
theorem nextTake_setup (s : State) : (nextTake s).setup = s.setup := by simp
theorem nextTake_plan (s : State) : (nextTake s).plan = s.plan := by simp
theorem nextTake_takeSeq (s : State) : (nextTake s).intake.takeSeq = s.intake.takeSeq := by simp
theorem clearTake_link (s : State) : (clearTake s).link = s.link := by simp
theorem clearTake_setup (s : State) : (clearTake s).setup = s.setup := by simp
theorem clearTake_plan (s : State) : (clearTake s).plan = s.plan := by simp
theorem clearTake_paper (s : State) : (clearTake s).paper = s.paper := by simp
theorem clearTake_out (s : State) : (clearTake s).out = s.out := by simp
theorem clearTake_takeSeq (s : State) : (clearTake s).intake.takeSeq = s.intake.takeSeq := by simp

/-- An admitted order is QUEUED, or in WAIT_PAPER where it lacks paper (R15, R44). -/
def admittedState (s : State) (o : Order) : OrderState := if lacksPaper s o then .waitPaper else .queued

/-- What an admission leaves: the order in its context and in the queue, and its writes (R15). -/
structure Admitted (i : Nat) (o : Order) (ws : List SlotWrite) (s X : State) : Prop where
  table : X.plan.table = s.plan.table.set i (some o)
  queue : X.plan.queue = joinQueue s i o.rush o.takeSeq s.plan.queue
  waiting : X.link.waiting = ws
  takeSeq : X.intake.takeSeq = s.intake.takeSeq + 1
  sweep : X.intake.sweep = s.intake.sweep
  setup : X.setup = s.setup
  out : X.out = s.out
  area : X.link.area = s.link.area
  areaSet : X.link.areaSet = s.link.areaSet
  width : ∀ k, widthLoaded X k = widthLoaded s k

theorem Admitted.push {i : Nat} {o : Order} {ws : List SlotWrite} {s X : State} (h : Admitted i o ws s X) (vs : List SlotWrite) :
    Admitted i o (insertWrites vs ws) s (pushAll vs X) :=
  { h with waiting := congrArg (insertWrites vs) h.waiting }

theorem Admitted.low {i : Nat} {o : Order} {ws : List SlotWrite} {s X : State} (h : Admitted i o ws s X) :
    Admitted i o ws s (evalLow X) where
  table := by simp [h.table]
  queue := by simp [h.queue]
  waiting := by simp [h.waiting]
  takeSeq := by simp [h.takeSeq]
  sweep := by simp [h.sweep]
  setup := by simp [h.setup]
  out := by simp [h.out]
  area := by simp [h.area]
  areaSet := by simp [h.areaSet]
  width k := (widthLoaded_evalLow X k).trans (h.width k)

theorem admitted_enterTable {i : Nat} {o : Order} {s : State} (hw : s.link.waiting = []) : Admitted i o [] s (enterTable i o s) :=
  ⟨rfl, rfl, hw, rfl, rfl, rfl, rfl, rfl, rfl, fun _ => rfl⟩

/-- An admitted order that lacks paper goes to WAIT_PAPER, and its mirror with it (R44). -/
theorem Admitted.wait {i : Nat} {o : Order} {ws : List SlotWrite} {s X : State} (h : Admitted i o ws s X)
    (hi : i < s.plan.table.length) (hst : o.state = .queued) (hd : o.detached = false) :
    Admitted i { o with state := admittedState s o }
      (if lacksPaper s o then insertWrite (mirrorWrite o.slot .waitPaper) ws else ws) s (evalWaitOf X i) := by
  have hget : getOrder X i = some o := by simp [getOrder, h.table, hi]
  have hlack : lacksPaper X o = lacksPaper s o := by unfold lacksPaper; simp only [h.width]
  unfold evalWaitOf admittedState
  rw [hget]; dsimp only
  rw [hst]; dsimp only
  rw [hlack]
  split
  · have henter : enterState i o .waitPaper X =
        pushAll [mirrorWrite o.slot .waitPaper] (putOrder i (some { o with state := .waitPaper }) X) := by
      unfold enterState; rw [writeMirror_eq (o := { o with state := .waitPaper }) hd]
    have hput : Admitted i { o with state := .waitPaper } ws s (putOrder i (some { o with state := .waitPaper }) X) :=
      { h with table := by rw [putOrder_table, h.table, List.set_set] }
    rw [henter]
    exact { hput.push [mirrorWrite o.slot .waitPaper] with width := fun k => h.width k }
  · rw [← hst]; exact h

theorem pushPrice_estimate (slot : Nat) (p : Price) (s : State) : pushPrice slot offEstimate p s = pushAll (estimateWrites slot p) s :=
  pushPrice_eq slot offEstimate p s

theorem admitted_admitOrder {i slot : Nat} {d : TakeData} {s : State} {o : Order} (ho : o = orderOf s.setup slot s.intake.takeSeq d)
    (hw : s.link.waiting = []) (hi : i < s.plan.table.length) :
    Admitted i { o with state := admittedState s o }
      (admittedWrites slot d.reqNumber.toNat (estimate s.setup o) (admittedState s o)) s (admitOrder i slot d s) := by
  have hst : o.state = .queued := by rw [ho]; rfl
  have hd : o.detached = false := by rw [ho]; rfl
  have hs : o.slot = slot := by rw [ho]; rfl
  have hn : o.answered = d.reqNumber := by rw [ho]; rfl
  have hX : admitOrder i slot d s =
      evalWaitOf (evalLow (pushPrice slot offEstimate (estimate s.setup o) (admissionWrites o (enterTable i o s)))) i := by
    rw [admitOrder, ho]
  have hws : insertWrites (estimateWrites slot (estimate s.setup o)) (insertWrites ((List.range 64).flatMap (clearedResult slot))
      (insertWrites (admissionHead slot o.answered.toNat .queued) [])) =
      admittedWrites slot o.answered.toNat (estimate s.setup o) .queued := by
    rw [← insertWrites_append, ← insertWrites_append]
    exact (insertWrites_fresh _ [] (by simp) (admittedWrites_pairwise _ _ _ _)).trans (List.nil_append _)
  have hmerge : (if lacksPaper s o then insertWrite (mirrorWrite slot .waitPaper)
        (admittedWrites slot o.answered.toNat (estimate s.setup o) .queued)
      else admittedWrites slot o.answered.toNat (estimate s.setup o) .queued) =
      admittedWrites slot o.answered.toNat (estimate s.setup o) (admittedState s o) := by
    rw [admittedWrites_mirror]
    unfold admittedState
    split <;> rfl
  have hA := ((((admitted_enterTable (i := i) (o := o) hw).push (admissionHead slot o.answered.toNat .queued)).push
    ((List.range 64).flatMap (clearedResult slot))).push (estimateWrites slot (estimate s.setup o))).low.wait hi hst hd
  rw [hws, hs, hmerge] at hA
  rw [hX, pushPrice_estimate, admissionWrites_eq, hs, ← hn]
  subst hs
  exact hA

theorem finishTake_refused {slot : Nat} {d : TakeData} {s : State} {code : RefuseCode} (h : validate s.setup d = some code) :
    finishTake slot d s = nextTake (pushAll (refusalWrites slot code) (clearTake s)) := by
  unfold finishTake
  rw [h]
  rfl

theorem finishTake_admitted {slot i : Nat} {d : TakeData} {s : State} (h : validate s.setup d = none)
    (hi : freeContext s = some i) : finishTake slot d s = nextTake (admitOrder i slot d (clearTake s)) := by
  have hfree : freeContext (clearTake s) = some i := by rw [← hi, freeContext, clearTake_plan]; rfl
  unfold finishTake
  rw [h]; dsimp only
  rw [hfree]

/-- What goes out after a take's TAKEN write, where its values fail a check: at once, also while a load runs (R14, R22). -/
theorem progress_refused {s : State} {w : Sweep} {slot : Nat} {d : TakeData} {code : RefuseCode}
    (hw : s.intake.sweep = some w) (ht : w.taken = some (slot, d)) (hwait : s.link.waiting = [])
    (hv : validate s.setup d = some code) :
    let t := progress none s
    (∃ l, t.out = s.out ++ l ++ (if s.link.areaSet then (refusalWrites slot code).map (wroteSlot s) else []))
      ∧ t.link.unreported = min (s.link.unreported + 1) 64 ∧ t.link.idleTimer = some s.setup.params.notifyIdle := by
  intro t
  obtain ⟨N, hN⟩ : ∃ N, N = nextTake (pushAll (refusalWrites slot code) (clearTake s)) := ⟨_, rfl⟩
  have hNlink : N.link = { s.link with waiting := refusalWrites slot code } := by
    rw [hN, nextTake_link, pushAll, clearTake_link, hwait]
    simp [refusalWrites, insertWrite, offToken]
  have hNset : N.setup = s.setup := by rw [hN, nextTake_setup]; exact clearTake_setup s
  have hNout : ∃ l, N.out = s.out ++ l := by
    obtain ⟨l, hl⟩ := nextTake_out (pushAll (refusalWrites slot code) (clearTake s))
    exact ⟨l, by rw [hN, hl]; exact congrArg (· ++ l) (clearTake_out s)⟩
  have hret : returnWaiting N slot = true := by rw [returnWaiting, hNlink]; simp [refusalWrites, offToken]
  have hgo : t = issueList (refusalWrites slot code) (refusalWrites slot code).length N := by
    change progress none s = _
    rw [progress_taken s w slot d hw ht, finishTake_refused hv, ← hN, issueWaiting_allDue, hNlink]
    intro x hx
    rw [hNlink] at hx
    have hxs : x.slot = slot := by
      simp only [refusalWrites, List.cons_append, List.nil_append, List.mem_cons, List.not_mem_nil, or_false] at hx
      rcases hx with rfl | rfl | rfl <;> rfl
    rw [hxs]
    exact awaitsLoad_returning hret
  obtain ⟨u, hu, -, hus, huu, -, -⟩ := issue_last_token [⟨slot, 0x020, 1, 5⟩, ⟨slot, 0x021, 1, code.code⟩]
    (by simp) slot 4 N
  have hgo' : t = { countReturn (freeReturned slot u) with link.waiting := [] } := hgo.trans hu
  obtain ⟨hc1, hc2⟩ := countReturn_link (freeReturned slot u)
  refine ⟨?_, ?_, ?_⟩
  · obtain ⟨l, hl⟩ := hNout
    refine ⟨l, ?_⟩
    rw [hgo, issueList_out _ _ (le_refl _), hl, hNlink]
    congr 1
    split
    · exact List.map_congr_left fun x _ => wroteSlot_congr (s := s) (by rw [hNlink]) x
    · rfl
  · rw [hgo']
    exact hc1.trans (by rw [show (freeReturned slot u).link.unreported = u.link.unreported by simp, huu, hNlink])
  · rw [hgo']
    exact hc2.trans (by rw [show (freeReturned slot u).setup = u.setup by simp, hus, hNset])

/-- A place in the queue rests on the table alone (R43). -/
theorem joinQueue_congr {s t : State} (h : t.plan.table = s.plan.table) (i : Nat) (rush : Bool) (seq : Word) (q : List Nat) :
    joinQueue t i rush seq q = joinQueue s i rush seq q := by
  have : ahead t rush seq = ahead s rush seq := by funext j; unfold ahead; rw [getOrder_congr h]
  unfold joinQueue; rw [this]

/-- What goes out after a take's TAKEN write, where its values pass: the order admitted, and its writes out (R15). -/
theorem progress_admitted {s : State} {w : Sweep} {slot i : Nat} {d : TakeData} {o : Order}
    (hw : s.intake.sweep = some w) (ht : w.taken = some (slot, d)) (hwait : s.link.waiting = [])
    (hv : validate s.setup d = none) (hi : freeContext s = some i) (hno : orderOfSlot s slot = none)
    (ho : o = orderOf s.setup slot s.intake.takeSeq d) :
    let t := progress none s
    (∃ l, t.out = s.out ++ l ++ (if s.link.areaSet then (admittedWrites slot d.reqNumber.toNat (estimate s.setup o)
        (admittedState s o)).map (wroteSlot s) else []))
      ∧ getOrder t i = some { o with state := admittedState s o } ∧ t.intake.takeSeq = s.intake.takeSeq + 1
      ∧ t.plan.queue = joinQueue s i o.rush o.takeSeq s.plan.queue := by
  intro t
  obtain ⟨-, hfree⟩ := findFree_spec _ 0 i hi
  rw [Nat.sub_zero] at hfree
  obtain ⟨hlt, -⟩ := List.getElem?_eq_some_iff.1 hfree
  have hA := admitted_admitOrder (i := i) (s := clearTake s) (d := d) (slot := slot) (o := o)
    (by rw [ho, clearTake_setup, clearTake_takeSeq]) (by rw [clearTake_link]; exact hwait) (by rw [clearTake_plan]; exact hlt)
  have hst : admittedState (clearTake s) o = admittedState s o := by
    unfold admittedState; rw [lacksPaper_congr (clearTake_paper s) rfl]
  rw [hst, clearTake_setup] at hA
  obtain ⟨N, hN⟩ : ∃ N, N = nextTake (admitOrder i slot d (clearTake s)) := ⟨_, rfl⟩
  have hNlink : N.link = (admitOrder i slot d (clearTake s)).link := by rw [hN, nextTake_link]
  have hNtab : N.plan.table = s.plan.table.set i (some { o with state := admittedState s o }) := by
    rw [hN, nextTake_plan, hA.table, clearTake_plan]
  have hNwait : N.link.waiting = admittedWrites slot d.reqNumber.toNat (estimate s.setup o) (admittedState s o) := by
    rw [hNlink, hA.waiting]
  have hNi : orderOfSlot N slot = some i := by
    unfold orderOfSlot
    rw [hNtab]
    exact (findSlot_set_new hfree hno (by rw [ho]; rfl)).trans (congrArg some (Nat.zero_add i))
  have hNo : getOrder N i = some { o with state := admittedState s o } := by simp [getOrder, hNtab, hlt]
  have hopen : admittedState s o ≠ .complete := by unfold admittedState; split <;> nofun
  have hgo : t = issueList N.link.waiting N.link.waiting.length N := by
    change progress none s = _
    rw [progress_taken s w slot d hw ht, finishTake_admitted hv hi, ← hN, issueWaiting_allDue]
    intro x hx
    rw [hNwait] at hx
    rw [(mem_admittedWrites hx).1]
    exact awaitsLoad_open hNi hNo hopen
  rw [issueList_plain _ (fun x hx => (mem_admittedWrites (hNwait ▸ hx)).2) _ (le_refl _)] at hgo
  refine ⟨?_, ?_, ?_, ?_⟩
  · obtain ⟨l, hl⟩ := nextTake_out (admitOrder i slot d (clearTake s))
    refine ⟨l, ?_⟩
    have hNa : N.link.area = s.link.area ∧ N.link.areaSet = s.link.areaSet := by
      rw [hNlink, hA.area, hA.areaSet, clearTake_link]; exact ⟨rfl, rfl⟩
    rw [hgo]
    dsimp only
    rw [hNwait, hNa.2, show N.out = s.out ++ l by rw [hN, hl, hA.out, clearTake_out]]
    congr 1
    split
    · exact List.map_congr_left fun x _ => wroteSlot_congr hNa.1 x
    · rfl
  · exact (getOrder_congr (by rw [hgo]) i).trans hNo
  · rw [hgo]
    dsimp only
    rw [hN, nextTake_takeSeq, hA.takeSeq, clearTake_takeSeq]
  · rw [hgo]
    dsimp only
    rw [hN, nextTake_plan, hA.queue, clearTake_plan]
    exact joinQueue_congr (by rw [clearTake_plan]) _ _ _ _

/-! ## The reads of a take -/

/-- With its values read, a take reads its print entries and has its TAKEN write issued (R12). -/
theorem takeReads_data {s : State} {w : Sweep} {slot : Nat} (d : TakeData) (hw : s.intake.sweep = some w)
    (ht : w.taking = some slot) (ha : s.link.areaSet = true) :
    takeReads (.data d) s =
      { s with
        intake.sweep := some { w with taking := none, taken := some (slot, d) }
        out := s.out ++ (entryReads (min d.count.toNat 64)).map (fun x =>
            .read (jobAddr s (0x10000 + slot * 0x1000 + x.1)) x.2)
          ++ [.write (jobAddr s (0x10000 + slot * 0x1000 + 0)) 4 2] } := by
  unfold takeReads
  rw [hw]; dsimp only
  rw [ht]; dsimp only
  rw [emitReads_out, if_pos ha, markTaken, emitWrite, emitAccess_out]
  dsimp only
  rw [if_pos ha]
  rfl

theorem recordFault_withOut (kind : FaultKind) (slot : Nat) (addr : Long) (s : State) (l : List Output) :
    recordFault kind slot addr { s with out := l } = { recordFault kind slot addr s with out := l } := by
  cases hf : s.link.causes.fault <;> simp only [recordFault, hf] <;> rfl

/-- A take whose read failed is a slot read fault, and is skipped (R12, R186). -/
theorem takeReads_failed {s : State} {w : Sweep} {slot : Nat} (offset : Nat) (hw : s.intake.sweep = some w)
    (ht : w.taking = some slot) (hout : s.out = []) :
    takeReads (.busError offset) s = nextTake
      { recordFault .slotRead slot (jobAddr s (0x10000 + slot * 0x1000 + offset)) s with
        intake.sweep := some { w with taking := none, taken := none }
        out := if s.link.areaSet then ((entryReads 64).filter (fun x => decide (x.1 ≤ offset))).map (fun x =>
            .read (jobAddr s (0x10000 + slot * 0x1000 + x.1)) x.2) else [] } := by
  unfold takeReads
  rw [hw]; dsimp only
  rw [ht]; dsimp only
  rw [emitReads_out, recordFault_withOut, clearTake]
  have hsw : (recordFault .slotRead slot (jobAddr s (slotOffset slot offset)) s).intake.sweep = some w := by simp [hw]
  dsimp only
  rw [hsw, hout, List.nil_append]
  rfl

theorem clearedResult_wrote (s : State) (slot k : Nat) : (clearedResult slot k).map (wroteSlot s) =
    [(0, 2), (2, 2), (4, 2), (6, 2), (8, 1)].map (fun x : Nat × Nat =>
      Output.write (jobAddr s (0x10000 + slot * 0x1000 + (0x900 + 16 * k + x.1))) x.2 0) := by
  simp only [clearedResult, wroteSlot, List.map_cons, List.map_nil, Nat.add_zero]
  rw [show 0x902 + 16 * k = 0x900 + 16 * k + 2 by omega, show 0x904 + 16 * k = 0x900 + 16 * k + 4 by omega,
    show 0x906 + 16 * k = 0x900 + 16 * k + 6 by omega, show 0x908 + 16 * k = 0x900 + 16 * k + 8 by omega]

/-- An estimate has no flag but the saturation's (R174). -/
theorem estimate_flags (x : Setup) (o : Order) : priceFlags (estimate x o) = 4 * bit (estimate x o).saturated := by
  simp [priceFlags, estimate, priceOf, bit]

/-- A write of a slot's field. -/
def fieldOut (s : State) (slot k n v : Nat) : Output := .write (jobAddr s (0x10000 + slot * 0x1000 + k)) n v

/-- The writes of an admission as they go out (R15). -/
theorem admittedWrites_wrote (s : State) (x : Setup) (o : Order) (slot number : Nat) (st : OrderState) :
    (admittedWrites slot number (estimate x o) st).map (wroteSlot s) =
    [fieldOut s slot 0x014 1 number, fieldOut s slot 0x015 1 0, fieldOut s slot 0x020 1 0, fieldOut s slot 0x021 1 0,
     fieldOut s slot 0x022 1 st.code, fieldOut s slot 0x023 1 0]
      ++ (List.range 64).flatMap (fun k => [(0, 2), (2, 2), (4, 2), (6, 2), (8, 1)].map (fun x : Nat × Nat =>
          fieldOut s slot (0x900 + 16 * k + x.1) x.2 0))
      ++ [fieldOut s slot 0x040 4 (estimate x o).subtotal, fieldOut s slot 0x044 4 (estimate x o).discount,
          fieldOut s slot 0x048 4 (estimate x o).rush, fieldOut s slot 0x04C 4 (estimate x o).fee,
          fieldOut s slot 0x050 4 (estimate x o).net, fieldOut s slot 0x054 4 (estimate x o).tax,
          fieldOut s slot 0x058 4 (estimate x o).total, fieldOut s slot 0x05C 1 (4 * bit (estimate x o).saturated)] := by
  have hres : ((List.range 64).flatMap (clearedResult slot)).map (wroteSlot s) = (List.range 64).flatMap (fun k =>
      [(0, 2), (2, 2), (4, 2), (6, 2), (8, 1)].map (fun x : Nat × Nat => fieldOut s slot (0x900 + 16 * k + x.1) x.2 0)) := by
    rw [List.map_flatMap]
    exact congrArg (fun g => (List.range 64).flatMap g) (funext fun k => clearedResult_wrote s slot k)
  rw [admittedWrites, List.map_append, List.map_append, hres, estimateWrites, estimate_flags]
  simp only [admissionHead, mirrorWrite, wroteSlot, List.map_cons, List.map_nil, List.cons_append, List.nil_append, fieldOut]

/-- Settles O21, by the steps of a take (`takeReads_data`, `progress_refused`, `progress_admitted`). -/
theorem takesRefusedAdmittedOrSkipped : Obligations.TakesRefusedAdmittedOrSkipped := by
  unfold Obligations.TakesRefusedAdmittedOrSkipped
  intro entry reads
  refine ⟨fun d s hl => ⟨fun result room => ?_, fun h result room => ?_, fun w slot ha hq hw htk => ?_⟩,
    fun offset room s w slot hl hw htk => ?_, fun s w c rest hw hc => ⟨fun hrun hfree => ?_, fun h => nextTake_stops hw hc h⟩⟩
  · exact answers_act hl rfl rfl
  · refine answers_act (f := takeReads result) hl rfl ?_
    unfold takeReads
    cases hw : (clearOut s).intake.sweep with
    | none => rfl
    | some w => dsimp only; rw [h w hw]
  · intro field taken
    obtain ⟨E, hE⟩ : ∃ E, E = takeReads (.data d) (clearOut s) := ⟨_, rfl⟩
    have hEq := hE.trans (takeReads_data d (s := clearOut s) hw htk ha)
    have hexec : exec (.takeReadsComplete (.data d) none false) s = .next (publish s (progress none E)) :=
      answers_act (f := takeReads (.data d)) hl rfl hE.symm
    have hEout : E.out = taken := by
      rw [hEq]
      simp only [taken, reads, ha]
      rfl
    have hEsw : E.intake.sweep = some { w with taking := none, taken := some (slot, d) } := by rw [hEq]
    have hElink : E.link = (clearOut s).link := by rw [hEq]
    have hEset : E.setup = s.setup := by rw [hEq]; rfl
    have hEplan : E.plan = s.plan := by rw [hEq]; rfl
    have hwrote : ∀ ws : List SlotWrite, (if E.link.areaSet then ws.map (wroteSlot E) else []) = ws.map (wroteSlot s) := by
      intro ws
      rw [if_pos (by rw [hElink]; exact ha)]
      exact List.map_congr_left fun x _ => wroteSlot_congr (by rw [hElink]; rfl) x
    obtain ⟨l', hl'⟩ := publish_out s (progress none E)
    refine ⟨fun code hv => ?_, fun i hv hi hno => ?_⟩
    · obtain ⟨⟨l, hout⟩, g2, g3⟩ := progress_refused hEsw rfl (by rw [hElink]; exact hq.waiting) (hEset ▸ hv)
      rw [hwrote, hEout] at hout
      refine ⟨_, hexec, ?_, publish_out_sub ?_, ?_, ?_⟩
      · rw [hl', hout, List.append_assoc, List.append_assoc]; exact List.prefix_append _ _
      · rw [hout]; exact List.sublist_append_right _ _
      · rw [publish_link]; exact g2.trans (by rw [hElink]; rfl)
      · rw [publish_link]; exact g3.trans (by rw [hEset])
    · have hEseq : E.intake.takeSeq = s.intake.takeSeq := by rw [hEq]; rfl
      have hEpap : E.paper = s.paper := by rw [hEq]; rfl
      obtain ⟨⟨l, hout⟩, g2, g3, g4⟩ := progress_admitted (o := orderOf s.setup slot s.intake.takeSeq d) hEsw rfl
        (by rw [hElink]; exact hq.waiting) (hEset ▸ hv) (by rw [← hi, freeContext, hEplan]; rfl)
        (by rw [← hno, orderOfSlot, hEplan]; rfl) (by rw [hEset, hEseq])
      have hst : admittedState E (orderOf s.setup slot s.intake.takeSeq d) =
          if ∃ e ∈ (orderOf s.setup slot s.intake.takeSeq d).entries, 0 < e.t ∧ widthLoaded s e.width = false then .waitPaper
          else .queued := by
        unfold admittedState
        simp only [lacksPaper_congr (o := orderOf s.setup slot s.intake.takeSeq d) hEpap rfl, lacks_iff]
      rw [hwrote, hEout, hEset] at hout
      refine ⟨_, _, hexec, ?_, (getOrder_congr (by rw [publish_plan]) i).trans g2, ?_, ?_, ?_, publish_out_sub ?_⟩
      · rw [hl', hout, List.append_assoc, List.append_assoc]; exact List.prefix_append _ _
      · rw [hst]
      · rw [publish_intake, g3, hEseq]
      · rw [publish_plan, g4, hEplan]; exact joinQueue_congr (by rw [hEplan]) _ _ _ _
      · rw [hout, admittedWrites_wrote]
        refine List.Sublist.trans (sublist_of_eq ?_) (List.sublist_append_right _ _)
        rfl
  · intro f skipped
    have he := takeReads_failed offset (s := clearOut s) hw htk rfl
    refine ⟨fun hc => answers_act (f := takeReads (.busError offset)) hl rfl ?_,
      fun _ => answers_act (f := takeReads (.busError offset)) hl rfl he⟩
    exact he.trans (nextTake_none (s := skipped) rfl hc)
  · rw [nextTake_begins hw hc ⟨hrun, hfree⟩, emitReads_out]
    rfl

end Sys2Proof.Machine
end

section
/-! Step 3 of a sweep: detachment and the LOST pass, slot by slot (R9, R18, R19, R48). -/

open Sys2Proof Sys2Proof.Machine

namespace Sys2Proof.Machine

set_option Elab.async false

/-! ## Detachment -/

/-- What a detachment makes of its order: freed, or held on to its last copy (R18, R48). -/
def detachedTo (o : Order) : Option Order :=
  if o.state = .complete then none
  else if o.state = .cancelling then some { o with detached := true }
  else if inFlight o = 0 then none
  else some { o with
    detached := true, cancelled := true, state := .cancelling, heldFrom := none, waitingSince := none
    remakes := [], entries := o.entries.map (fun e => { e with a := e.a + e.t, t := 0 }) }

/-- A cancellation changes no context but its own. -/
theorem cancelOrder_table {i : Nat} {s : State} {o : Order} (h : getOrder s i = some o) :
    (cancelOrder i s).plan.table = s.plan.table.set i (if inFlight o = 0 ∧ o.detached then none
      else some { cancelledOrder o with state := if inFlight o = 0 then .complete else .cancelling }) := by
  have hset : ∃ x, (cancelOrder i s).plan.table = s.plan.table.set i x := by
    have hget : getOrder (evalLow (writeCancelled o (cancelledOrder o) (writeMirror (cancelledOrder o)
        (putOrder i (some (cancelledOrder o)) s)))) i = some (cancelledOrder o) := getOrder_set h _ _ (by simp)
    unfold cancelOrder
    rw [h]; dsimp only
    rw [evalOrder_table i _ _ hget]
    simp
  obtain ⟨x, hx⟩ := hset
  rw [hx]
  congr 1
  rw [← getOrder_set h x _ hx]
  exact cancel_table i s o h

theorem detachOrder_detached {i : Nat} {s : State} {o : Order} (h : getOrder s i = some o) (hd : o.detached = true) :
    detachOrder i s = s := by
  unfold detachOrder
  rw [h]; exact if_pos hd

/-- The part detaches the order: counted, its slot's writes given up, and its context as `detachedTo` says (R18, R48). -/
theorem detachOrder_spec {i : Nat} {s : State} {o : Order} (h : getOrder s i = some o) (hd : o.detached = false) :
    (detachOrder i s).plan.table = s.plan.table.set i (detachedTo o)
      ∧ (detachOrder i s).link.waiting = s.link.waiting.filter (fun w => w.slot != o.slot)
      ∧ (detachOrder i s).intake.detached = s.intake.detached + 1 := by
  obtain ⟨u, hu⟩ : ∃ u : State, u = { dropWrites o.slot (putOrder i (some { o with detached := true }) s) with
      intake.detached := s.intake.detached + 1 } := ⟨_, rfl⟩
  have hut : u.plan.table = s.plan.table.set i (some { o with detached := true }) := by rw [hu]; rfl
  have huw : u.link.waiting = s.link.waiting.filter (fun w => w.slot != o.slot) := by rw [hu]; rfl
  have hud : u.intake.detached = s.intake.detached + 1 := by rw [hu]
  have hget : getOrder u i = some { o with detached := true } := getOrder_set h _ _ hut
  have hdet : detachOrder i s = if o.state = .complete then freeOrder i u
      else if cancellable o then cancelOrder i u else evalLow u := by
    unfold detachOrder
    rw [h]; dsimp only
    rw [if_neg (by simp [hd]), hu]
    rfl
  rw [hdet]
  unfold detachedTo
  by_cases hc : o.state = .complete
  · simp only [hc, if_true]
    exact ⟨by rw [freeOrder_table, hut, List.set_set], by simp [huw], by simp [hud]⟩
  · rw [if_neg hc, if_neg hc]
    by_cases hk : o.state = .cancelling
    · rw [if_neg (by simp [cancellable, hk]), if_pos hk]
      exact ⟨by simp [hut], by simp [huw], by simp [hud]⟩
    · rw [if_pos (by simp [cancellable, hc, hk]), if_neg hk]
      refine ⟨?_, (cancel_detached_waiting i u _ hget rfl).trans huw, by simp [hud]⟩
      rw [cancelOrder_table hget, hut, List.set_set]
      congr 1
      have hin : inFlight { o with detached := true } = inFlight o := rfl
      rw [hin]
      by_cases h0 : inFlight o = 0
      · rw [if_pos ⟨h0, rfl⟩, if_pos h0]
      · rw [if_neg fun hh => h0 hh.1, if_neg h0, if_neg h0]
        rfl

/-! ## One slot of step 3 -/

/-- Step 3 detaches the order of this slot: its token reads other than TAKEN, and the order is not detached yet (R18). -/
def detaches (s : State) (x : SlotScan) : Bool :=
  x.token != (2 : Word) && (match (orderOfSlot s x.slot).bind (getOrder s) with
    | some o => !o.detached
    | none => false)

/-- The two writes of a LOST return, the outcome before the token (R19). -/
def lostWrites (slot : Nat) : List SlotWrite := [⟨slot, 0x020, 1, 6⟩, ⟨slot, 0, 4, 3⟩]

/-- Step 3 returns the slot as LOST (R19). -/
def losesSlot (s : State) (x : SlotScan) : Bool := s.intake.lostPending && x.token == tokenTaken && !x.held && !holdsSlot s x.slot

theorem checkSlot_none {s : State} {x : SlotScan} (h : orderOfSlot s x.slot = none) :
    checkSlot s x = if losesSlot s x then pushAll (lostWrites x.slot) s else s := by
  unfold checkSlot
  rw [h]
  rfl

/-- What step 3 does for one slot: a detachment, a LOST return, or nothing (R18, R19). -/
theorem checkSlot_cases (s : State) (x : SlotScan) :
    (detaches s x = true ∧ ∃ i o, orderOfSlot s x.slot = some i ∧ getOrder s i = some o ∧ o.detached = false
        ∧ checkSlot s x = detachOrder i s)
    ∨ (detaches s x = false ∧ (checkSlot s x = s
        ∨ (orderOfSlot s x.slot = none ∧ checkSlot s x = pushAll (lostWrites x.slot) s))) := by
  cases hi : orderOfSlot s x.slot with
  | none =>
    refine .inr ⟨by simp [detaches, hi], ?_⟩
    rw [checkSlot_none hi]
    split
    · exact .inr ⟨rfl, rfl⟩
    · exact .inl rfl
  | some i =>
    obtain ⟨o, ho, -⟩ := getOrder_of_orderOfSlot hi
    have hcheck : checkSlot s x = if x.token ≠ tokenTaken then detachOrder i s else s := by unfold checkSlot; rw [hi]
    by_cases ht : x.token = 2
    · exact .inr ⟨by simp [detaches, ht], .inl (hcheck.trans (if_neg (not_not.2 ht)))⟩
    · have hne : x.token ≠ tokenTaken := ht
      rw [if_pos hne] at hcheck
      cases hd : o.detached with
      | true => exact .inr ⟨by simp [detaches, hi, ho, hd], .inl (hcheck.trans (detachOrder_detached ho hd))⟩
      | false => exact .inl ⟨by simp only [detaches, hi, Option.bind_some, ho, hd]; simpa using ht, i, o, rfl, ho, hd, hcheck⟩

theorem detachedTo_slot {o p : Order} (h : detachedTo o = some p) : p.slot = o.slot := by
  unfold detachedTo at h
  split at h
  · cases h
  · split at h
    · obtain rfl := Option.some.inj h; rfl
    · split at h
      · cases h
      · obtain rfl := Option.some.inj h; rfl

/-- A slot with no order gets none where an order gives way to one of its own slot, or to nothing. -/
theorem findSlot_set_stays_none {slot : Nat} {l : List (Option Order)} {j k : Nat} {o : Order} {x : Option Order}
    (h : l[j]? = some (some o)) (hx : ∀ p, x = some p → p.slot = o.slot) (hn : findSlot slot l k = none) :
    findSlot slot (l.set j x) k = none := by
  induction l generalizing j k with
  | nil => exact hn
  | cons y r ih =>
    cases j with
    | zero =>
      simp only [List.getElem?_cons_zero, Option.some.injEq] at h
      subst h
      simp only [findSlot] at hn
      split at hn
      · cases hn
      · rename_i hne
        cases x with
        | none => exact hn
        | some p => simpa [findSlot, hx p rfl, hne] using hn
    | succ j =>
      rw [List.getElem?_cons_succ] at h
      cases y with
      | none => exact ih h hn
      | some q =>
        simp only [findSlot] at hn
        split at hn
        · cases hn
        · rename_i hne
          simpa [findSlot, hne] using ih h hn

/-- The index of a slot's order stays where the order of another slot gives way to one of that slot, or to nothing. -/
theorem findSlot_set_other {slot : Nat} {l : List (Option Order)} {j k : Nat} {o : Order} {x : Option Order}
    (h : l[j]? = some (some o)) (hx : ∀ p, x = some p → p.slot = o.slot) (hne : o.slot ≠ slot) :
    findSlot slot (l.set j x) k = findSlot slot l k := by
  cases x with
  | none => exact findSlot_set_none h hne k
  | some p => exact findSlot_set slot l k j o p h (hx p rfl)

/-- Step 3 for one slot leaves the orders of every other slot, and every context with none. -/
theorem checkSlot_getOrder {s : State} {x : SlotScan} {i : Nat} (h : ∀ p, getOrder s i = some p → p.slot ≠ x.slot) :
    getOrder (checkSlot s x) i = getOrder s i := by
  rcases checkSlot_cases s x with ⟨-, j, o, hj, ho, hd, he⟩ | ⟨-, he | ⟨-, he⟩⟩
  · have hos := orderOfSlot_slot hj ho
    have hij : i ≠ j := by rintro rfl; exact h o ho hos
    rw [he, getOrder_congr (s := putOrder j (detachedTo o) s) (detachOrder_spec ho hd).1,
      getOrder_put s j i _ (getOrder_some_lt ho), if_neg hij]
  · rw [he]
  · rw [he]; rfl

theorem checkSlot_orderOfSlot {s : State} {x : SlotScan} {slot : Nat} (h : x.slot ≠ slot) :
    orderOfSlot (checkSlot s x) slot = orderOfSlot s slot := by
  rcases checkSlot_cases s x with ⟨-, j, o, hj, ho, hd, he⟩ | ⟨-, he | ⟨-, he⟩⟩
  · unfold orderOfSlot
    rw [he, (detachOrder_spec ho hd).1]
    exact findSlot_set_other (getElem?_of_getOrder ho) (fun p hp => detachedTo_slot hp)
      (by rw [orderOfSlot_slot hj ho]; exact h)
  · rw [he]
  · rw [he]; rfl

/-- A slot with no order has none after step 3. -/
theorem checkSlot_no_order {s : State} {slot : Nat} (x : SlotScan) (h : orderOfSlot s slot = none) :
    orderOfSlot (checkSlot s x) slot = none := by
  rcases checkSlot_cases s x with ⟨-, j, o, hj, ho, hd, he⟩ | ⟨-, he | ⟨-, he⟩⟩
  · unfold orderOfSlot
    rw [he, (detachOrder_spec ho hd).1]
    exact findSlot_set_stays_none (getElem?_of_getOrder ho) (fun p hp => detachedTo_slot hp) h
  · rw [he]; exact h
  · rw [he]; exact h

/-! ## The writes that step 3 leaves waiting -/

theorem mem_insertWrites {ws l : List SlotWrite} {y : SlotWrite} (h : y ∈ insertWrites ws l) : y ∈ ws ∨ y ∈ l := by
  induction ws generalizing l with
  | nil => exact .inr h
  | cons w r ih =>
    rcases ih h with h | h
    · exact .inl (List.mem_cons_of_mem _ h)
    · rcases mem_insertWrite h with rfl | h
      · exact .inl (by simp)
      · exact .inr h

/-- Whatever waits after step 3 for one slot waited before, or is a LOST write of that slot. -/
theorem checkSlot_waiting {s : State} {x : SlotScan} {y : SlotWrite} (h : y ∈ (checkSlot s x).link.waiting) :
    y ∈ s.link.waiting ∨ (y ∈ lostWrites x.slot ∧ orderOfSlot s x.slot = none) := by
  rcases checkSlot_cases s x with ⟨-, j, o, hj, ho, hd, he⟩ | ⟨-, he | ⟨hn, he⟩⟩
  · rw [he, (detachOrder_spec ho hd).2.1] at h
    exact .inl (List.mem_of_mem_filter h)
  · rw [he] at h; exact .inl h
  · rw [he] at h
    exact (mem_insertWrites h).elim (fun h => .inr ⟨h, hn⟩) .inl

theorem mem_lostWrites {slot : Nat} {y : SlotWrite} (h : y ∈ lostWrites slot) :
    y.slot = slot ∧ ((y.offset = 0x020 ∧ y.value = 6) ∨ (y.offset = 0 ∧ y.value = 3)) := by
  simp only [lostWrites, List.mem_cons, List.not_mem_nil, or_false] at h
  rcases h with rfl | rfl <;> simp

/-- No write waits whose slot has an order. -/
def NoneOfOrders (s : State) : Prop := ∀ y ∈ s.link.waiting, orderOfSlot s y.slot = none

theorem noneOfOrders_checkSlot {s : State} (h : NoneOfOrders s) (x : SlotScan) : NoneOfOrders (checkSlot s x) := by
  intro y hy
  rcases checkSlot_waiting hy with hy | ⟨hy, hn⟩
  · exact checkSlot_no_order x (h y hy)
  · rw [(mem_lostWrites hy).1]; exact checkSlot_no_order x hn

theorem foldl_checkSlot_keeps {P : State → Prop} (h : ∀ s x, P s → P (checkSlot s x)) (l : List SlotScan) {s : State} (hs : P s) :
    P (l.foldl checkSlot s) := by
  induction l generalizing s with
  | nil => exact hs
  | cons x r ih => exact ih (h s x hs)

/-- Writes of slots with no order free nothing as they go out. -/
theorem issueAll_table {ws : List SlotWrite} {s : State} (h : ∀ w ∈ ws, orderOfSlot s w.slot = none) :
    (issueAll ws s).plan.table = s.plan.table := by
  induction ws generalizing s with
  | nil => rfl
  | cons w r ih =>
    have hw : (issueWrite w s).plan.table = s.plan.table := by
      unfold issueWrite
      dsimp only
      have hn : orderOfSlot (emitWrite (slotOffset w.slot w.offset) w.size w.value s) w.slot = none :=
        (orderOfSlot_congr (by simp) _).trans (h w (by simp))
      have hfree : freeReturned w.slot (emitWrite (slotOffset w.slot w.offset) w.size w.value s) =
          emitWrite (slotOffset w.slot w.offset) w.size w.value s := by unfold freeReturned; rw [hn]
      split
      · rw [hfree]; simp
      · simp
    change (issueAll r (issueWrite w s)).plan.table = _
    rw [ih fun y hy => (orderOfSlot_congr hw _).trans (h y (by simp [hy])), hw]

/-- Where no write waits whose slot has an order, all that wait go out and the table stays. -/
theorem progress_noneOfOrders {e : State} (ht : ∀ w, e.intake.sweep = some w → w.taken = none) (h : NoneOfOrders e) :
    (progress none e).plan.table = e.plan.table ∧ (progress none e).intake = e.intake
      ∧ (progress none e).out = e.out ++ (if e.link.areaSet then e.link.waiting.map (wroteSlot e) else []) := by
  have hdue : ∀ x ∈ e.link.waiting, awaitsLoad e x.slot = false := fun x hx => by
    unfold awaitsLoad; rw [h x hx]; simp
  have hgo : progress none e = issueList e.link.waiting e.link.waiting.length e := by
    rw [progress, resumeTake_none ht, issueWaiting_allDue hdue]
  refine ⟨?_, ?_, ?_⟩
  · rw [hgo, issueList_all _ _ (le_refl _)]; exact issueAll_table h
  · rw [hgo]; simp
  · rw [hgo, issueList_out _ _ (le_refl _)]; rfl

/-! ## Step 3 over the slots -/

/-- With no request to answer and nothing waiting, step 3 goes over the slots that step 1 read. -/
theorem sweepStep_two {s : State} {w : Sweep} (reads : List SlotRead) (hw : s.intake.sweep = some w) (hst : w.step = .two)
    (hreq : w.requests = []) (hwait : s.link.waiting = []) :
    sweepStep reads s = w.scans.foldl checkSlot { s with intake.sweep := some { w with step := .three, requests := [] } } := by
  unfold sweepStep
  rw [if_pos (by rw [hw]; rfl), issueWaiting_nil none hwait, beginStep]
  rw [hw]; dsimp only
  rw [hst]; dsimp only
  rw [endStepTwo, hreq, answerAll, List.foldl_nil, issueWaiting_nil none hwait, setStep, hw]

/-- The detachments of step 3 are counted, each against the orders as they stood before it (R18). -/
theorem foldl_checkSlot_detached (l : List SlotScan) (hnd : (l.map SlotScan.slot).Nodup) (s : State) :
    (l.foldl checkSlot s).intake.detached = s.intake.detached + BitVec.ofNat 32 (l.countP (detaches s)) := by
  induction l generalizing s with
  | nil => simp
  | cons x r ih =>
    rw [List.map_cons, List.nodup_cons] at hnd
    have hsame : r.countP (detaches (checkSlot s x)) = r.countP (detaches s) := by
      refine List.countP_congr fun y hy => ?_
      have hne : x.slot ≠ y.slot := fun he => hnd.1 (he ▸ List.mem_map_of_mem hy)
      have hord : (orderOfSlot (checkSlot s x) y.slot).bind (getOrder (checkSlot s x)) =
          (orderOfSlot s y.slot).bind (getOrder s) := by
        rw [checkSlot_orderOfSlot hne]
        cases hj : orderOfSlot s y.slot with
        | none => rfl
        | some j =>
          refine checkSlot_getOrder fun p hp => ?_
          rw [orderOfSlot_slot hj hp]
          exact hne.symm
      unfold detaches
      rw [hord]
    rw [List.foldl_cons, ih hnd.2, hsame, List.countP_cons]
    rcases checkSlot_cases s x with ⟨hdet, j, o, hj, ho, hd, he⟩ | ⟨hdet, he | ⟨-, he⟩⟩
    · rw [he, (detachOrder_spec ho hd).2.2, hdet]
      simp only [if_true]
      rw [BitVec.ofNat_add, BitVec.add_assoc, BitVec.add_comm 1]
      rfl
    · rw [he, hdet]; simp
    · rw [he, hdet]; simp [pushAll]

/-- A context whose order no slot of step 3 detaches stays as it is. -/
theorem foldl_checkSlot_getOrder (l : List SlotScan) {s : State} {i : Nat}
    (h : ∀ x ∈ l, ∀ p, getOrder s i = some p → p.slot ≠ x.slot) : getOrder (l.foldl checkSlot s) i = getOrder s i := by
  induction l generalizing s with
  | nil => rfl
  | cons x r ih =>
    have hx := checkSlot_getOrder (h x (by simp))
    rw [List.foldl_cons, ih fun y hy p hp => h y (by simp [hy]) p (hx ▸ hp), hx]

theorem foldl_checkSlot_orderOfSlot (l : List SlotScan) {s : State} {slot : Nat} (h : ∀ x ∈ l, x.slot ≠ slot) :
    orderOfSlot (l.foldl checkSlot s) slot = orderOfSlot s slot := by
  induction l generalizing s with
  | nil => rfl
  | cons x r ih => rw [List.foldl_cons, ih fun y hy => h y (by simp [hy]), checkSlot_orderOfSlot (h x (by simp))]

/-- An order detached before, and one whose slot reads TAKEN, stays as it is. -/
theorem checkSlot_stays {s : State} {x : SlotScan} {i : Nat} {o : Order} (ho : getOrder s i = some o)
    (h : o.detached = true ∨ (x.slot = o.slot → x.token = 2)) : getOrder (checkSlot s x) i = some o := by
  rcases checkSlot_cases s x with ⟨hdet, j, p, hj, hp, hd, he⟩ | ⟨-, he | ⟨-, he⟩⟩
  · have hij : i ≠ j := by
      rintro rfl
      rw [hp] at ho
      obtain rfl := Option.some.inj ho
      rcases h with h | h
      · rw [hd] at h; cases h
      · have := h (orderOfSlot_slot hj hp).symm
        simp [detaches, this] at hdet
    rw [he, getOrder_congr (s := putOrder j (detachedTo p) s) (detachOrder_spec hp hd).1,
      getOrder_put s j i _ (getOrder_some_lt hp), if_neg hij, ho]
  · rw [he]; exact ho
  · rw [he]; exact ho

/-- A slot that step 3 does not go to gets no write of it. -/
theorem foldl_checkSlot_noWrite (l : List SlotScan) {s : State} {slot : Nat} (h : ∀ x ∈ l, x.slot ≠ slot)
    (hw : ∀ y ∈ s.link.waiting, y.slot ≠ slot) : ∀ y ∈ (l.foldl checkSlot s).link.waiting, y.slot ≠ slot := by
  induction l generalizing s with
  | nil => exact hw
  | cons x r ih =>
    refine ih (fun y hy => h y (by simp [hy])) fun y hy => ?_
    rcases checkSlot_waiting hy with hy | ⟨hy, -⟩
    · exact hw y hy
    · rw [(mem_lostWrites hy).1]; exact h x (by simp)

/-- The detachment of one slot's order, over the whole of step 3 (R18, R48). -/
theorem foldl_checkSlot_detaches {l : List SlotScan} (hnd : (l.map SlotScan.slot).Nodup) {s : State} {x : SlotScan} {i : Nat}
    {o : Order} (hx : x ∈ l) (ht : x.token ≠ 2) (hi : orderOfSlot s x.slot = some i) (ho : getOrder s i = some o)
    (hd : o.detached = false) :
    getOrder (l.foldl checkSlot s) i = detachedTo o ∧ ∀ y ∈ (l.foldl checkSlot s).link.waiting, y.slot ≠ x.slot := by
  obtain ⟨l1, l2, rfl⟩ := List.append_of_mem hx
  rw [List.map_append, List.map_cons, List.nodup_append, List.nodup_cons] at hnd
  obtain ⟨-, ⟨h2, -⟩, h1⟩ := hnd
  have hne1 : ∀ y ∈ l1, y.slot ≠ x.slot := fun y hy => h1 _ (List.mem_map_of_mem hy) _ (by simp)
  have hne2 : ∀ y ∈ l2, y.slot ≠ x.slot := fun y hy he => h2 (he ▸ List.mem_map_of_mem hy)
  have hslot := orderOfSlot_slot hi ho
  obtain ⟨u, hu⟩ : ∃ u, u = l1.foldl checkSlot s := ⟨_, rfl⟩
  have hui : orderOfSlot u x.slot = some i := by rw [hu, foldl_checkSlot_orderOfSlot l1 hne1, hi]
  have huo : getOrder u i = some o := by
    rw [hu, foldl_checkSlot_getOrder l1 fun y hy p hp => ?_, ho]
    rw [ho] at hp
    obtain rfl := Option.some.inj hp
    rw [hslot]
    exact (hne1 y hy).symm
  have hstep : checkSlot u x = detachOrder i u := by
    unfold checkSlot
    rw [hui]; dsimp only
    exact if_pos ht
  obtain ⟨htab, hwait, -⟩ := detachOrder_spec huo hd
  have hgi : getOrder (checkSlot u x) i = detachedTo o := by rw [hstep]; exact getOrder_set huo _ _ htab
  rw [List.foldl_append, List.foldl_cons, ← hu]
  refine ⟨?_, ?_⟩
  · rw [foldl_checkSlot_getOrder l2 fun y hy p hp => ?_, hgi]
    rw [hgi] at hp
    rw [detachedTo_slot hp, hslot]
    exact (hne2 y hy).symm
  · refine foldl_checkSlot_noWrite l2 hne2 fun y hy => ?_
    rw [hstep, hwait] at hy
    simpa [hslot] using (List.mem_filter.1 hy).2

end Sys2Proof.Machine
end

section
/-! Steps 3 and 4 of a sweep: the LOST pass, the candidates in order, and the addresses of slot writes (R9, R11, R18, R19). -/

open Sys2Proof Sys2Proof.Machine

namespace Sys2Proof.Machine

set_option Elab.async false

/-! ## The waiting writes of one slot -/

/-- The writes of this slot among those that wait. -/
def ofSlot (slot : Nat) (l : List SlotWrite) : List SlotWrite := l.filter (fun w => w.slot == slot)

theorem ofSlot_cons_same {w : SlotWrite} {slot : Nat} (h : w.slot = slot) (l : List SlotWrite) :
    ofSlot slot (w :: l) = w :: ofSlot slot l := List.filter_cons_of_pos (by simp [h])

theorem ofSlot_cons_other {w : SlotWrite} {slot : Nat} (h : w.slot ≠ slot) (l : List SlotWrite) :
    ofSlot slot (w :: l) = ofSlot slot l := List.filter_cons_of_neg (by simp [h])

/-- A write takes its place by the slot's own writes alone. -/
theorem insertWrite_pass {v w : SlotWrite} (h : Passes v w) (l : List SlotWrite) : insertWrite w (v :: l) = v :: insertWrite w l :=
  insertWrite_append w [v] l fun y hy hs => by rw [List.mem_singleton.1 hy] at hs ⊢; exact h hs

theorem insertWrite_before {v w : SlotWrite} (hs : v.slot = w.slot) (ho : v.offset ≠ w.offset) (h0 : v.offset = 0)
    (l : List SlotWrite) : insertWrite w (v :: l) = w :: v :: l := by
  simp only [insertWrite, hs, decide_true, Bool.true_and]
  rw [if_neg (by simpa using ho), if_pos (by simp [h0, offToken])]

theorem ofSlot_insertWrite {w : SlotWrite} {slot : Nat} (h : w.slot = slot) (l : List SlotWrite) :
    ofSlot slot (insertWrite w l) = insertWrite w (ofSlot slot l) := by
  induction l with
  | nil => exact ofSlot_cons_same h []
  | cons y r ih =>
    by_cases hy : y.slot = slot
    · have hyw : y.slot = w.slot := hy.trans h.symm
      rw [ofSlot_cons_same hy]
      by_cases h1 : y.offset = w.offset
      · rw [insertWrite_merge hyw h1, insertWrite_merge hyw h1, ofSlot_cons_same h]
      · by_cases h2 : y.offset = 0
        · rw [insertWrite_before hyw h1 h2, insertWrite_before hyw h1 h2, ofSlot_cons_same h, ofSlot_cons_same hy]
        · rw [insertWrite_pass fun _ => ⟨h1, h2⟩, insertWrite_pass fun _ => ⟨h1, h2⟩, ofSlot_cons_same hy, ih]
    · rw [insertWrite_pass fun he => absurd (he.trans h) hy, ofSlot_cons_other hy, ofSlot_cons_other hy, ih]

theorem ofSlot_insertWrite_other {w : SlotWrite} {slot : Nat} (h : w.slot ≠ slot) (l : List SlotWrite) :
    ofSlot slot (insertWrite w l) = ofSlot slot l := by
  induction l with
  | nil => exact ofSlot_cons_other h []
  | cons y r ih =>
    by_cases hy : y.slot = w.slot
    · have hys : y.slot ≠ slot := hy ▸ h
      by_cases h1 : y.offset = w.offset
      · rw [insertWrite_merge hy h1, ofSlot_cons_other h, ofSlot_cons_other hys]
      · by_cases h2 : y.offset = 0
        · rw [insertWrite_before hy h1 h2, ofSlot_cons_other h]
        · rw [insertWrite_pass fun _ => ⟨h1, h2⟩, ofSlot_cons_other hys, ofSlot_cons_other hys, ih]
    · rw [insertWrite_pass fun he => absurd he hy]
      by_cases hys : y.slot = slot
      · rw [ofSlot_cons_same hys, ofSlot_cons_same hys, ih]
      · rw [ofSlot_cons_other hys, ofSlot_cons_other hys, ih]

theorem ofSlot_insertWrites {ws : List SlotWrite} {slot : Nat} (h : ∀ w ∈ ws, w.slot = slot) (l : List SlotWrite) :
    ofSlot slot (insertWrites ws l) = insertWrites ws (ofSlot slot l) := by
  induction ws generalizing l with
  | nil => rfl
  | cons w r ih => rw [insertWrites_cons, insertWrites_cons, ih fun v hv => h v (by simp [hv]), ofSlot_insertWrite (h w (by simp))]

theorem ofSlot_insertWrites_other {ws : List SlotWrite} {slot : Nat} (h : ∀ w ∈ ws, w.slot ≠ slot) (l : List SlotWrite) :
    ofSlot slot (insertWrites ws l) = ofSlot slot l := by
  induction ws generalizing l with
  | nil => rfl
  | cons w r ih => rw [insertWrites_cons, ih fun v hv => h v (by simp [hv]), ofSlot_insertWrite_other (h w (by simp))]

theorem returnWaiting_ofSlot (s : State) (slot : Nat) :
    returnWaiting s slot = (ofSlot slot s.link.waiting).any (fun w => w.offset == offToken) := by
  rw [ofSlot, List.any_filter]; rfl

/-! ## The LOST pass (R19) -/

/-- Step 3 for one slot leaves the waiting writes of the others. -/
theorem checkSlot_ofSlot {s : State} {x : SlotScan} {slot : Nat} (h : x.slot ≠ slot) :
    ofSlot slot (checkSlot s x).link.waiting = ofSlot slot s.link.waiting := by
  rcases checkSlot_cases s x with ⟨-, j, o, hj, ho, hd, he⟩ | ⟨-, he | ⟨-, he⟩⟩
  · have hne : o.slot ≠ slot := by rw [orderOfSlot_slot hj ho]; exact h
    rw [he, (detachOrder_spec ho hd).2.1, ofSlot, ofSlot, List.filter_filter]
    refine List.filter_congr fun w _ => ?_
    by_cases hw : w.slot = slot
    · simp [hw, hne.symm]
    · simp [hw]
  · rw [he]
  · rw [he]
    exact ofSlot_insertWrites_other (fun w hw => by rw [(mem_lostWrites hw).1]; exact h) _

/-- A slot with no order, in the first sweep after a reset, before or after its LOST return. -/
structure Losing (slot : Nat) (s : State) : Prop where
  order : orderOfSlot s slot = none
  pending : s.intake.lostPending = true
  taken : ∀ w, s.intake.sweep = some w → w.taken = none
  writes : ofSlot slot s.link.waiting = [] ∨ ofSlot slot s.link.waiting = lostWrites slot

/-- The part holds no slot without order, take and RETURNED write (R5). -/
theorem Losing.holds {slot : Nat} {s : State} (h : Losing slot s) : holdsSlot s slot = returnWaiting s slot := by
  unfold holdsSlot
  rw [h.order]
  cases hw : s.intake.sweep with
  | none => simp
  | some w => dsimp only; rw [h.taken w hw]; simp

theorem Losing.returned {slot : Nat} {s : State} (h : ofSlot slot s.link.waiting = lostWrites slot) : returnWaiting s slot = true := by
  rw [returnWaiting_ofSlot, h]; simp [lostWrites, offToken]

theorem losing_push {slot : Nat} {s : State} (h : ofSlot slot s.link.waiting = []) :
    ofSlot slot (pushAll (lostWrites slot) s).link.waiting = lostWrites slot := by
  refine (ofSlot_insertWrites (fun w hw => (mem_lostWrites hw).1) _).trans ?_
  rw [h]
  exact insertWrites_fresh _ [] (by simp) (by simp [lostWrites, Passes])

/-- Step 3 for a slot leaves another as it was, and returns this one once at most. -/
theorem Losing.checkSlot {slot : Nat} {s : State} (h : Losing slot s) (x : SlotScan) : Losing slot (Machine.checkSlot s x) where
  order := checkSlot_no_order x h.order
  pending := by simp [h.pending]
  taken w hw := h.taken w (by simpa using hw)
  writes := by
    by_cases hx : x.slot = slot
    · subst hx
      rw [checkSlot_none h.order]
      split
      · rename_i hl
        have hr : returnWaiting s x.slot = false := by
          have : holdsSlot s x.slot = false := by simpa using (Bool.and_eq_true_iff.1 hl).2
          rwa [h.holds] at this
        rcases h.writes with hw | hw
        · exact .inr (losing_push hw)
        · rw [Losing.returned hw] at hr; cases hr
      · exact h.writes
    · rw [checkSlot_ofSlot hx]; exact h.writes

/-- The slot's LOST return waits, once step 3 has gone to it. -/
theorem Losing.lost {s : State} {x : SlotScan} (h : Losing x.slot s) (ht : x.token = 2) (hh : x.held = false) :
    ofSlot x.slot (Machine.checkSlot s x).link.waiting = lostWrites x.slot := by
  rw [checkSlot_none h.order]
  rcases h.writes with hw | hw
  · have hr : returnWaiting s x.slot = false := by rw [returnWaiting_ofSlot, hw]; rfl
    rw [if_pos (by simp [losesSlot, h.pending, ht, hh, h.holds, hr, tokenTaken])]
    exact losing_push hw
  · rw [if_neg (by simp [losesSlot, h.holds, Losing.returned hw])]
    exact hw

theorem Losing.lost_stays {slot : Nat} {s : State} (h : Losing slot s) (hw : ofSlot slot s.link.waiting = lostWrites slot)
    (x : SlotScan) : ofSlot slot (Machine.checkSlot s x).link.waiting = lostWrites slot := by
  by_cases hx : x.slot = slot
  · subst hx
    rw [checkSlot_none h.order, if_neg (by simp [losesSlot, h.holds, Losing.returned hw])]
    exact hw
  · rw [checkSlot_ofSlot hx, hw]

theorem losing_foldl {s : State} {x : SlotScan} {l : List SlotScan} (h : Losing x.slot s) (hx : x ∈ l) (ht : x.token = 2)
    (hh : x.held = false) : ofSlot x.slot (l.foldl checkSlot s).link.waiting = lostWrites x.slot := by
  obtain ⟨l1, l2, rfl⟩ := List.append_of_mem hx
  rw [List.foldl_append, List.foldl_cons]
  have h1 := foldl_checkSlot_keeps (P := Losing x.slot) (fun _ y h => h.checkSlot y) l1 h
  exact (foldl_checkSlot_keeps (P := fun u => Losing x.slot u ∧ ofSlot x.slot u.link.waiting = lostWrites x.slot)
    (fun _ y h => ⟨h.1.checkSlot y, h.1.lost_stays h.2 y⟩) l2 ⟨h1.checkSlot x, h1.lost ht hh⟩).2

/-! ## The candidates (R11) -/

theorem insertCandidate_perm (x : Nat × Bool × Word) (l : List (Nat × Bool × Word)) : (insertCandidate x l).Perm (x :: l) := by
  induction l with
  | nil => exact .refl _
  | cons y r ih =>
    unfold insertCandidate
    split
    · exact .refl _
    · exact (List.Perm.cons y ih).trans (List.Perm.swap x y r)

theorem insertedCandidates_perm (l : List (Nat × Bool × Word)) : (l.foldr insertCandidate []).Perm l := by
  induction l with
  | nil => exact .refl _
  | cons x r ih => exact (insertCandidate_perm x _).trans (List.Perm.cons x ih)

theorem insertedCandidates_sorted (l : List (Nat × Bool × Word)) :
    (l.foldr insertCandidate []).Pairwise (fun a b => takenBefore a b = true) := by
  induction l with
  | nil => exact List.Pairwise.nil
  | cons x r ih => exact sorted_insert x _ ih

/-- What step 1 kept of a slot, as a candidate of step 4: one that reads POSTED, is not held and has its header read. -/
def candidateOf (s : State) (x : SlotScan) : Option (Nat × Bool × Word) :=
  if x.token = tokenPosted ∧ holdsSlot s x.slot = false then x.header.map (fun h => (x.slot, h)) else none

theorem candidates_eq (s : State) (scans : List SlotScan) :
    candidates s scans = ((scans.filterMap (candidateOf s)).foldr insertCandidate []).map (·.1) := rfl

theorem candidateOf_iff {s : State} {x : SlotScan} {k : Nat} {h : Bool × Word} :
    candidateOf s x = some (k, h) ↔ x.slot = k ∧ x.token = 1 ∧ holdsSlot s k = false ∧ x.header = some h := by
  unfold candidateOf
  constructor
  · intro he
    split at he
    · rename_i hc
      obtain ⟨h', hh, heq⟩ := Option.map_eq_some_iff.1 he
      obtain ⟨rfl, rfl⟩ := Prod.mk.inj heq
      exact ⟨rfl, hc.1, hc.2, hh⟩
    · cases he
  · rintro ⟨rfl, ht, hf, hh⟩
    rw [if_pos ⟨ht, hf⟩, hh]
    rfl

/-- Candidate a is taken before candidate b, and another slot: RUSH first, then the lower ticket, then the lower slot. -/
theorem takenBefore_strict {a b : Nat} {rx ry : Bool} {tx ty : Word} (h : takenBefore (a, rx, tx) (b, ry, ty) = true) (hne : a ≠ b) :
    (rx = true ∧ ry = false) ∨ (rx = ry ∧ (tx.toNat < ty.toNat ∨ (tx = ty ∧ a < b))) := by
  unfold takenBefore at h
  dsimp only at h
  split at h
  · rename_i hr
    refine .inr ⟨hr, ?_⟩
    split at h
    · rename_i ht
      exact .inr ⟨ht, by have := of_decide_eq_true h; omega⟩
    · rename_i ht
      have hne' : tx.toNat ≠ ty.toNat := fun he => ht (BitVec.eq_of_toNat_eq he)
      exact .inl (by have := of_decide_eq_true h; omega)
  · rename_i hr
    rw [h] at hr
    exact .inl ⟨h, by simpa using hr⟩

theorem candidates_mem (s : State) (scans : List SlotScan) (k : Nat) : k ∈ candidates s scans ↔
    ∃ x ∈ scans, x.slot = k ∧ x.token = 1 ∧ holdsSlot s k = false ∧ x.header ≠ none := by
  rw [candidates_eq, List.mem_map]
  constructor
  · rintro ⟨⟨j, h⟩, hy, rfl⟩
    obtain ⟨x, hx, he⟩ := List.mem_filterMap.1 (mem_foldr_insertCandidate.1 hy)
    obtain ⟨h1, h2, h3, h4⟩ := candidateOf_iff.1 he
    exact ⟨x, hx, h1, h2, h3, by simp [h4]⟩
  · rintro ⟨x, hx, h1, h2, h3, h4⟩
    obtain ⟨h, hh⟩ := Option.ne_none_iff_exists'.1 h4
    exact ⟨(k, h), mem_foldr_insertCandidate.2 (List.mem_filterMap.2 ⟨x, hx, candidateOf_iff.2 ⟨h1, h2, h3, hh⟩⟩), rfl⟩

/-- Each slot is a candidate once at most. -/
theorem candidateSlots_nodup {s : State} {scans : List SlotScan} (hnd : (scans.map SlotScan.slot).Nodup) :
    ((scans.filterMap (candidateOf s)).map Prod.fst).Nodup := by
  refine List.Nodup.sublist ?_ hnd
  rw [List.map_filterMap]
  induction scans with
  | nil => exact List.Sublist.refl _
  | cons x r ih =>
    have ih := ih (List.nodup_cons.1 (by simpa using hnd)).2
    cases hc : candidateOf s x with
    | none => simpa [hc] using ih.cons x.slot
    | some p =>
      obtain ⟨k, h⟩ := p
      obtain ⟨rfl, -⟩ := candidateOf_iff.1 hc
      simpa [hc] using ih.cons_cons x.slot

theorem candidates_sorted (s : State) (scans : List SlotScan) (hnd : (scans.map SlotScan.slot).Nodup) :
    (candidates s scans).Pairwise (fun a b => ∀ x ∈ scans, ∀ y ∈ scans, x.slot = a → y.slot = b →
      ∀ rx tx ry ty, x.header = some (rx, tx) → y.header = some (ry, ty) →
        (rx = true ∧ ry = false) ∨ (rx = ry ∧ (tx.toNat < ty.toNat ∨ (tx = ty ∧ a < b)))) := by
  obtain ⟨L, hL⟩ : ∃ L, L = (scans.filterMap (candidateOf s)).foldr insertCandidate [] := ⟨_, rfl⟩
  have hdistinct : L.Pairwise (fun p q => p.1 ≠ q.1) := by
    have hnd' : (L.map Prod.fst).Nodup := by
      rw [hL]
      exact ((insertedCandidates_perm _).map Prod.fst).nodup_iff.2 (candidateSlots_nodup hnd)
    exact List.pairwise_map.1 hnd'
  have hheader : ∀ p ∈ L, ∀ x ∈ scans, x.slot = p.1 → ∀ h, x.header = some h → h = p.2 := by
    intro p hp x hx hxs h hh
    rw [hL] at hp
    obtain ⟨z, hz, hc⟩ := List.mem_filterMap.1 (mem_foldr_insertCandidate.1 hp)
    obtain ⟨h1, -, -, h4⟩ := candidateOf_iff.1 (show candidateOf s z = some (p.1, p.2) from hc)
    obtain rfl := List.inj_on_of_nodup_map hnd hx hz (hxs.trans h1.symm)
    rw [hh] at h4
    exact Option.some.inj h4
  rw [candidates_eq, ← hL, List.pairwise_map]
  have hboth := (hL ▸ insertedCandidates_sorted (scans.filterMap (candidateOf s)) : L.Pairwise _).and hdistinct
  refine hboth.imp_of_mem fun {p q} hp hq hpq x hx y hy hxs hys rx tx ry ty hrx hry => ?_
  have h1 : (rx, tx) = p.2 := hheader p hp x hx hxs _ hrx
  have h2 : (ry, ty) = q.2 := hheader q hq y hy hys _ hry
  refine takenBefore_strict ?_ hpq.2
  rw [h1, h2]
  exact hpq.1

/-! ## The addresses of the link's accesses -/

/-- Offsets inside the job area have addresses of their own where the area ends below the top. -/
theorem jobAddr_inj {s : State} (htop : s.link.area.toNat + 0x50000 ≤ 2 ^ 64) {a b : Nat} (ha : a < 0x50000) (hb : b < 0x50000)
    (h : jobAddr s a = jobAddr s b) : a = b := by
  unfold jobAddr busAddr at h
  rw [if_pos (by omega), if_pos (by omega)] at h
  have := congrArg BitVec.toNat h
  rw [BitVec.toNat_ofNat, BitVec.toNat_ofNat, Nat.mod_eq_of_lt (by omega), Nat.mod_eq_of_lt (by omega)] at this
  omega

/-- Every status block field lies below 0x1000 (1.2.2). -/
theorem statusField_low {s : State} {x : StatusField} (hx : x ∈ statusFields s) : x.offset < 0x1000 := by
  simp only [statusFields, List.mem_append, List.mem_flatMap, List.mem_range'_1] at hx
  obtain ((((((hx | hx) | hx) | hx) | ⟨b, hb, hx⟩) | hx) | hx) | hx := hx
  case inl.inl.inl.inr =>
    simp only [binFields, List.mem_cons, List.not_mem_nil, or_false] at hx
    rcases hx with rfl | rfl | rfl | rfl | rfl | rfl | rfl | rfl | rfl <;> dsimp only <;> omega
  all_goals
    revert x
    simp [magazineFields, rejectFields, counterFields]

/-- The write-through puts out writes of the status block alone (R6). -/
theorem mem_publish_out {b s : State} {o : Output} (h : o ∈ (publish b s).out) :
    o ∈ s.out ∨ ∃ x ∈ statusFields s, o = .write (jobAddr s x.offset) x.size x.value := by
  unfold publish at h
  dsimp only at h
  split at h
  · rw [foldl_writeField] at h
    dsimp only at h
    rcases List.mem_append.1 h with h | h
    · exact .inl h
    · split at h
      · obtain ⟨x, hx, rfl⟩ := List.mem_map.1 h
        obtain ⟨p, hp, rfl⟩ := List.mem_map.1 hx
        exact .inr ⟨_, (List.of_mem_zip (List.mem_of_mem_filter hp)).1, rfl⟩
      · cases h
  · exact .inl h

/-! ## The obligation -/

/-- Whatever waits after step 3 waited before, or is a LOST write of a slot that step 1 read. -/
theorem foldl_checkSlot_waiting (l : List SlotScan) {s : State} {y : SlotWrite} (h : y ∈ (l.foldl checkSlot s).link.waiting) :
    y ∈ s.link.waiting ∨ ∃ x ∈ l, y ∈ lostWrites x.slot := by
  induction l generalizing s with
  | nil => exact .inl h
  | cons x r ih =>
    rcases ih h with h | ⟨z, hz, h⟩
    · exact (checkSlot_waiting h).imp_right fun h => ⟨x, by simp, h.1⟩
    · exact .inr ⟨z, by simp [hz], h⟩

theorem foldl_checkSlot_stays (l : List SlotScan) {s : State} {i : Nat} {o : Order} (ho : getOrder s i = some o)
    (h : ∀ x ∈ l, o.detached = true ∨ (x.slot = o.slot → x.token = 2)) : getOrder (l.foldl checkSlot s) i = some o := by
  induction l generalizing s with
  | nil => exact ho
  | cons x r ih => exact ih (checkSlot_stays ho (h x (by simp))) fun y hy => h y (by simp [hy])

/-- Where the area ends below the top, a slot's addresses are its own among the 64 slots and the status block. -/
theorem wroteSlot_ne {s : State} (htop : s.link.area.toNat + 0x50000 ≤ 2 ^ 64) {w : SlotWrite} {slot k n v : Nat}
    (hw : w.slot < 64) (hwo : w.offset < 0x1000) (hslot : slot < 64) (hk : k < 0x1000) (hne : w.slot ≠ slot) :
    Output.write (jobAddr s (0x10000 + slot * 0x1000 + k)) n v ≠ wroteSlot s w := by
  intro h
  have := jobAddr_inj htop (by omega) (by omega) (Output.write.inj h).1
  omega

/-- With nothing to answer and nothing waiting, what step 3 leaves waiting all goes out, and frees nothing. -/
theorem stepTwo_goes_out {s : State} {w : Sweep} (hq : Quiet s) (hw : s.intake.sweep = some w) {B : State}
    (hB : B = { clearOut s with intake.sweep := some { w with step := .three, requests := [] } }) (l : List SlotScan) :
    let e := l.foldl checkSlot B
    (progress none e).plan.table = e.plan.table ∧ (progress none e).intake = e.intake
      ∧ (progress none e).out = (if s.link.areaSet then e.link.waiting.map (wroteSlot s) else [])
      ∧ (progress none e).link.area = s.link.area := by
  intro e
  have hsw : e.intake.sweep = some { w with step := .three, requests := [] } :=
    foldl_checkSlot_keeps (P := fun u => u.intake.sweep = some { w with step := .three, requests := [] })
      (fun u x h => by simpa using h) l (by rw [hB])
  have hout : e.out = [] :=
    foldl_checkSlot_keeps (P := fun u => u.out = []) (fun u x h => by simpa using h) l (by rw [hB]; rfl)
  have harea : e.link.area = s.link.area ∧ e.link.areaSet = s.link.areaSet :=
    foldl_checkSlot_keeps (P := fun u => u.link.area = s.link.area ∧ u.link.areaSet = s.link.areaSet)
      (fun u x h => by simpa using h) l (by rw [hB]; exact ⟨rfl, rfl⟩)
  have hnone : NoneOfOrders e :=
    foldl_checkSlot_keeps (P := NoneOfOrders) (fun _ x h => noneOfOrders_checkSlot h x) l (by
      intro y hy
      rw [hB] at hy
      rw [show (clearOut s).link.waiting = [] from hq.waiting] at hy
      cases hy)
  obtain ⟨h1, h2, h3⟩ := progress_noneOfOrders (fun v hv => by
    rw [hsw] at hv
    obtain rfl := Option.some.inj hv
    exact hq.taken w hw) hnone
  refine ⟨h1, h2, ?_, by simp [harea.1]⟩
  rw [h3, hout, harea.2, List.nil_append]
  split
  · exact List.map_congr_left fun y _ => wroteSlot_congr harea.1 y
  · rfl

/-- Step 4 begins with its candidates, or with none (R9, R10). -/
theorem sweepStep_three {s : State} {w : Sweep} (reads : List SlotRead) (hw : s.intake.sweep = some w) (hst : w.step = .three)
    (hwait : s.link.waiting = []) :
    sweepStep reads s = nextTake { s with
      intake.lostPending := false
      intake.sweep := some { w with
        step := .four, candidates := if s.eng.state = .running ∧ w.barred = false then candidates s w.scans else [] } } := by
  unfold sweepStep
  rw [if_pos (by rw [hw]; rfl), issueWaiting_nil none hwait, beginStep, hw]
  dsimp only
  rw [hst]
  rfl

/-- Settles O18, by what step 3 does for one slot (`checkSlot_cases`) and over all of them, and by the order of candidates. -/
theorem candidatesOrderedAndLostSlotsReturned : Obligations.CandidatesOrderedAndLostSlotsReturned := by
  unfold Obligations.CandidatesOrderedAndLostSlotsReturned
  refine ⟨fun s scans hnd => ⟨candidates_mem s scans, candidates_sorted s scans hnd⟩, fun reads room s w hl hq hw hst => ?_,
    fun reads s w x hl ha hq hw hst hreq hlost hx ht hh hno => ?_,
    fun reads s w hl hq hw hst hreq hnd h64 => ?_⟩
  · intro begun
    have he := sweepStep_three reads (s := clearOut s) hw hst hq.waiting
    refine ⟨fun hrun hbar => ?_, fun h => ?_⟩
    · rw [if_pos ⟨hrun, hbar⟩] at he
      exact answers_act (f := sweepStep reads) hl rfl he
    · rw [if_neg fun hh => h.elim (· hh.1) fun hb => by rw [hb] at hh; cases hh.2] at he
      exact answers_act (f := sweepStep reads) hl rfl (he.trans (nextTake_none (s := begun []) rfl rfl))
  · obtain ⟨B, hB⟩ : ∃ B : State, B = { clearOut s with intake.sweep := some { w with step := .three, requests := [] } } :=
      ⟨_, rfl⟩
    have he : sweepStep reads (clearOut s) = w.scans.foldl checkSlot B := by
      rw [hB]; exact sweepStep_two reads (s := clearOut s) hw hst hreq hq.waiting
    obtain ⟨-, -, hout, -⟩ := stepTwo_goes_out hq hw hB w.scans
    have hBwait : B.link.waiting = [] := by rw [hB]; exact hq.waiting
    have hlosing : Losing x.slot B := by
      refine ⟨?_, ?_, ?_, .inl (by rw [hBwait]; rfl)⟩
      · rw [hB]; exact hno
      · rw [hB]; exact hlost
      · intro v hv
        rw [hB] at hv
        obtain rfl := Option.some.inj hv
        exact hq.taken w hw
    have hwrites := losing_foldl hlosing hx ht hh
    refine ⟨_, answers_act (f := sweepStep reads) hl rfl he, publish_out_sub ?_⟩
    rw [hout, if_pos ha]
    have hsub : (lostWrites x.slot).Sublist (w.scans.foldl checkSlot B).link.waiting := by
      rw [← hwrites]; exact List.filter_sublist
    exact hsub.map (wroteSlot s)
  · obtain ⟨B, hB⟩ : ∃ B : State, B = { clearOut s with intake.sweep := some { w with step := .three, requests := [] } } :=
      ⟨_, rfl⟩
    have he : sweepStep reads (clearOut s) = w.scans.foldl checkSlot B := by
      rw [hB]; exact sweepStep_two reads (s := clearOut s) hw hst hreq hq.waiting
    obtain ⟨htab, hint, hout, harea⟩ := stepTwo_goes_out hq hw hB w.scans
    have hBget : ∀ i, getOrder B i = getOrder s i := fun i => getOrder_congr (by rw [hB]; rfl) i
    have hBslot : ∀ k, orderOfSlot B k = orderOfSlot s k := fun k => orderOfSlot_congr (by rw [hB]; rfl) k
    have hget : ∀ i, getOrder (publish s (progress none (w.scans.foldl checkSlot B))) i =
        getOrder (w.scans.foldl checkSlot B) i := fun i => by
      rw [getOrder_congr (s := progress none (w.scans.foldl checkSlot B)) (by rw [publish_plan]), getOrder_congr htab]
    refine ⟨_, answers_act (f := sweepStep reads) hl rfl he, ?_, fun x hx ht i o hi ho hd => ⟨?_, fun htop k n v hk hmem => ?_⟩,
      fun i o ho h => ?_⟩
    · rw [publish_intake, hint, foldl_checkSlot_detached _ hnd]
      have hdet : detaches B = detaches s := by
        funext x
        have : getOrder B = getOrder s := funext hBget
        unfold detaches
        rw [hBslot, this]
      rw [hdet, show B.intake.detached = s.intake.detached by rw [hB]; rfl]
      rfl
    · rw [hget]
      exact (foldl_checkSlot_detaches hnd hx ht ((hBslot _).trans hi) ((hBget i).trans ho) hd).1
    · have hnot := (foldl_checkSlot_detaches hnd hx ht ((hBslot _).trans hi) ((hBget i).trans ho) hd).2
      have hlost : ∀ y ∈ (w.scans.foldl checkSlot B).link.waiting, y.slot < 64 ∧ y.offset < 0x1000 := by
        intro y hy
        rcases foldl_checkSlot_waiting w.scans hy with hy | ⟨z, hz, hy⟩
        · rw [hB, show (clearOut s).link.waiting = [] from hq.waiting] at hy
          cases hy
        · have := mem_lostWrites hy
          exact ⟨this.1 ▸ h64 z hz, by omega⟩
      rcases mem_publish_out hmem with hm | ⟨f, hf, heq⟩
      · rw [hout] at hm
        split at hm
        · obtain ⟨y, hy, hyw⟩ := List.mem_map.1 hm
          exact wroteSlot_ne htop (hlost y hy).1 (hlost y hy).2 (h64 x hx) hk (hnot y hy) hyw.symm
        · cases hm
      · have hlow := statusField_low hf
        have haddr := (Output.write.inj heq).1
        rw [show jobAddr (progress none (w.scans.foldl checkSlot B)) f.offset = jobAddr s f.offset by
          rw [jobAddr, harea]; rfl] at haddr
        have := h64 x hx
        have := jobAddr_inj htop (by omega) (by omega) haddr
        omega
    · rw [hget]
      exact foldl_checkSlot_stays w.scans ((hBget i).trans ho) fun x hx =>
        h.imp_right fun h hs => h x hx hs

end Sys2Proof.Machine
end

section
/-! The steps of a sweep in their order, and what step 1 keeps (R9, R10, R16, R186). -/

open Sys2Proof Sys2Proof.Machine

namespace Sys2Proof.Machine

set_option Elab.async false

/-! ## Outputs only join those already made -/

theorem issueWrite_out (w : SlotWrite) (s : State) : s.out <+: (issueWrite w s).out := by
  have he : s.out <+: (emitWrite (slotOffset w.slot w.offset) w.size w.value s).out := by
    rw [emitWrite, emitAccess_out]; exact List.prefix_append _ _
  unfold issueWrite
  dsimp only
  split
  · rw [(countReturn_frame _).2.2.2.2.2.2.2.2.2.2.2.2.2.2.2.2.1]
    simpa using he
  · exact he

theorem issueList_prefix (l : List SlotWrite) (n : Nat) (s : State) : s.out <+: (issueList l n s).out := by
  induction l generalizing n s with
  | nil => exact List.prefix_refl _
  | cons w r ih =>
    cases n with
    | zero => exact List.prefix_refl _
    | succ n => exact (issueWrite_out w s).trans (ih n _)

theorem issueWaiting_prefix (room : Option Nat) (s : State) : s.out <+: (issueWaiting room s).out := by
  unfold issueWaiting
  split
  · exact issueList_prefix _ _ s
  · exact issueList_prefix _ _ s

theorem nextTake_prefix (s : State) : s.out <+: (nextTake s).out := by
  obtain ⟨l, hl⟩ := nextTake_out s
  rw [hl]; exact List.prefix_append _ _

theorem finishTake_prefix (slot : Nat) (d : TakeData) (s : State) : s.out <+: (finishTake slot d s).out := by
  have h : ∀ u : State, u.out = s.out → s.out <+: (nextTake u).out := fun u hu => hu ▸ nextTake_prefix u
  unfold finishTake
  dsimp only
  split
  · exact h _ (by simp)
  · split
    · exact h _ (by simp)
    · exact h _ (by simp)

theorem progress_prefix (room : Option Nat) (s : State) : s.out <+: (progress room s).out := by
  refine List.IsPrefix.trans ?_ (issueWaiting_prefix room (resumeTake room s))
  unfold resumeTake
  split
  · exact List.prefix_refl _
  · split
    · split
      · exact List.prefix_refl _
      · exact finishTake_prefix _ _ s
    · exact List.prefix_refl _

theorem publish_prefix (b s : State) : s.out <+: (publish b s).out := by
  obtain ⟨l, hl⟩ := publish_out b s
  rw [hl]; exact List.prefix_append _ _

/-- The reads of step 1 that follow the tokens, as they go out (R9). -/
theorem emitStepOne_eq (reads : List SlotRead) (s : State) :
    emitStepOne reads s = { s with out := s.out ++ (if s.link.areaSet then reads.zipIdx.flatMap (fun x =>
      (stepOneReads s x.2 x.1).map (fun y => .read (jobAddr s (0x10000 + x.2 * 0x1000 + y.1)) y.2)) else []) } := by
  unfold emitStepOne
  have h : ∀ (l : List (SlotRead × Nat)) (o : List Output),
      l.foldl (fun t x => emitReads x.2 (stepOneReads s x.2 x.1) t) { s with out := o } =
        { s with out := o ++ (if s.link.areaSet then l.flatMap (fun x =>
          (stepOneReads s x.2 x.1).map (fun y => .read (jobAddr s (0x10000 + x.2 * 0x1000 + y.1)) y.2)) else []) } := by
    intro l
    induction l with
    | nil => intro o; simp
    | cons x r ih =>
      intro o
      rw [List.foldl_cons, emitReads_out]
      refine (ih _).trans ?_
      dsimp only
      split <;> simp [jobAddr]
  exact h reads.zipIdx s.out

theorem endStepTwo_prefix (w : Sweep) (s : State) : s.out <+: (endStepTwo w s).out := by
  have h1 : (answerAll w.requests s).out = s.out := by simp
  have h2 : (endStepTwo w s).out = (issueWaiting none (answerAll w.requests s)).out := by
    unfold endStepTwo
    rw [foldl_keep State.out checkSlot (fun b x => by simp)]
    simp
  have h := issueWaiting_prefix none (answerAll w.requests s)
  rwa [h1, ← h2] at h

theorem beginStep_prefix (reads : List SlotRead) (s : State) : s.out <+: (beginStep reads s).out := by
  unfold beginStep
  split
  · exact List.prefix_refl _
  · split
    · unfold endStepOne
      have hr : ∀ r u, (recordReads r u).out = u.out := fun r u => by simp
      dsimp only
      rw [hr, emitStepOne_eq]
      exact List.prefix_append _ _
    · exact endStepTwo_prefix _ s
    · unfold endStepThree
      refine List.IsPrefix.trans ?_ (nextTake_prefix _)
      exact List.prefix_refl _
    · split
      · unfold readCell
        split
        · simp
        · rw [emitRead, emitAccess_out]; simp
      · exact List.prefix_refl _
    · simp

/-! ## What step 2 keeps of the sweep -/

/-- The step of the running sweep and its take past TAKEN. -/
def sweepPlace (s : State) : Option (SweepStep × Option (Nat × TakeData)) := s.intake.sweep.map (fun w => (w.step, w.taken))

theorem sweepPlace_dropRequest (slot : Nat) (s : State) : sweepPlace (dropRequest slot s) = sweepPlace s := by
  unfold sweepPlace
  rw [dropRequest_eq]
  dsimp only
  rw [Option.map_map]
  rfl

theorem sweepPlace_congr {s t : State} (h : t.intake = s.intake) : sweepPlace t = sweepPlace s := by unfold sweepPlace; rw [h]

theorem answerRequest_place (r : Request) (slot : Nat) (code number : Byte) (s : State) :
    sweepPlace (answerRequest r slot code number s) = sweepPlace s := by
  unfold answerRequest
  split
  · rfl
  · split
    · rfl
    · split
      · rfl
      · dsimp only
        rename_i i hi _ o ho hc
        refine Eq.trans (sweepPlace_congr (s := putOrder i (some { o with answered := number }) (dropRequest slot s)) ?_)
          (sweepPlace_dropRequest slot s)
        split <;> split <;> simp [writeAnswer]

theorem answerAll_place (qs : List SlotRequest) (s : State) : sweepPlace (answerAll qs s) = sweepPlace s :=
  foldl_keep sweepPlace _ (fun b _ => answerRequest_place _ _ _ _ b) qs s

theorem setStep_place {st : SweepStep} {s : State} {p : SweepStep × Option (Nat × TakeData)} (h : sweepPlace s = some p) :
    sweepPlace (setStep st s) = some (st, p.2) := by
  obtain ⟨w, hw, rfl⟩ := Option.map_eq_some_iff.1 h
  unfold setStep
  rw [hw]
  rfl

/-- Step 2 ends in step 3, with its take as it was. -/
theorem endStepTwo_place {w : Sweep} {s : State} {p : SweepStep × Option (Nat × TakeData)} (h : sweepPlace s = some p) :
    sweepPlace (endStepTwo w s) = some (.three, p.2) := by
  unfold endStepTwo
  rw [foldl_keep sweepPlace checkSlot (fun b x => by unfold sweepPlace; simp) w.scans]
  refine setStep_place (p := p) ?_
  rw [sweepPlace_congr (s := answerAll w.requests s) (by simp), answerAll_place, h]

theorem issueWaiting_empty {s : State} (h : s.setup.state ≠ .loading) : (issueWaiting none s).link.waiting = [] := by
  rw [issueWaiting_due none h, issueList_all _ _ (by simp)]

/-- With no load running, what waits after step 2 is of LOST returns alone (R9, R19). -/
theorem endStepTwo_waiting {w : Sweep} {s : State} (h : s.setup.state ≠ .loading) :
    ∀ x ∈ (endStepTwo w s).link.waiting, (x.offset = 0x020 ∧ x.value = 6) ∨ (x.offset = 0 ∧ x.value = 3) := by
  intro x hx
  rcases foldl_checkSlot_waiting w.scans hx with hx | ⟨z, -, hx⟩
  · have hnil : (setStep .three (issueWaiting none (answerAll w.requests s))).link.waiting = [] := by
      rw [show (setStep .three (issueWaiting none (answerAll w.requests s))).link =
        (issueWaiting none (answerAll w.requests s)).link by simp]
      exact issueWaiting_empty (by simpa using h)
    rw [hnil] at hx
    cases hx
  · exact (mem_lostWrites hx).2

theorem issueList_waiting (l : List SlotWrite) (n : Nat) (s : State) : ∀ x ∈ (issueList l n s).link.waiting, x ∈ l := by
  induction l generalizing n s with
  | nil => exact fun x hx => hx
  | cons w r ih =>
    cases n with
    | zero => exact fun x hx => hx
    | succ n => exact fun x hx => List.mem_cons_of_mem _ (ih n _ x hx)

/-- The link leaves none waiting that did not wait. -/
theorem progress_waiting {room : Option Nat} {s : State} (ht : ∀ w, s.intake.sweep = some w → w.taken = none) :
    ∀ x ∈ (progress room s).link.waiting, x ∈ s.link.waiting := by
  intro x hx
  rw [progress, resumeTake_none ht] at hx
  unfold issueWaiting at hx
  split at hx
  · rcases List.mem_append.1 hx with hx | hx
    · exact List.mem_of_mem_filter (issueList_waiting _ _ _ x hx)
    · exact List.mem_of_mem_filter hx
  · exact issueList_waiting _ _ _ x hx

end Sys2Proof.Machine
end

section
/-! What step 1 keeps of the slots, and the obligation of the five steps (R9, R10, R16, R186). -/

open Sys2Proof Sys2Proof.Machine

namespace Sys2Proof.Machine

set_option Elab.async false

/-! ## What step 1 keeps -/

/-- A slot read without error is kept with its token, and a slot not held with its header where that was read (R9). -/
theorem scanOf_iff {s : State} {k : Nat} {r : SlotRead} {x : SlotScan} : scanOf s k r = some x ↔
    x.slot = k ∧ r.token = some x.token ∧ x.held = holdsSlot s x.slot
      ∧ x.header = (if holdsSlot s x.slot = true then none else match r.ticket, r.classByte with
        | some t, some c => some (c == 1, t)
        | _, _ => none) := by
  unfold scanOf
  constructor
  · intro h
    obtain ⟨t, ht, rfl⟩ := Option.map_eq_some_iff.1 h
    exact ⟨rfl, ht, rfl, rfl⟩
  · rintro ⟨rfl, ht, hheld, hhead⟩
    rw [ht, Option.map_some]
    congr 1
    obtain ⟨slot, held, token, header⟩ := x
    simp only at hheld hhead ⊢
    subst hheld
    rw [hhead]
    rfl

/-- A request is new where the held slot reads TAKEN, its order is not detached and the number not the last answered (R16). -/
theorem newRequest_iff {s : State} {k : Nat} {r : SlotRead} {q : SlotRequest} : newRequest s k r = some q ↔
    q.slot = k ∧ ∃ i o, r.token = some 2 ∧ r.request = some (q.code, q.number) ∧ orderOfSlot s q.slot = some i
      ∧ getOrder s i = some o ∧ o.detached = false ∧ q.number ≠ o.answered := by
  unfold newRequest
  constructor
  · intro h
    split at h
    · rename_i t p o ht hr hb
      split at h
      · rename_i hc
        obtain ⟨rfl, hd, hn⟩ := hc
        obtain rfl := Option.some.inj h
        obtain ⟨i, hi, ho⟩ := Option.bind_eq_some_iff.1 hb
        exact ⟨rfl, i, o, ht, hr, hi, ho, hd, hn⟩
      · cases h
    · cases h
  · rintro ⟨rfl, i, o, ht, hr, hi, ho, hd, hn⟩
    rw [ht, hr, hi, Option.bind_some, ho]
    exact if_pos ⟨rfl, hd, hn⟩

/-- The reads that follow a slot's token, with the offset of the first that failed (R186, log entries 12 and 44). -/
theorem readFailure_eq (s : State) (k : Nat) (r : SlotRead) : readFailure s k r = (match r.token with
    | none => some 0x000
    | some tok =>
      if holdsSlot s k = true then (if r.request = none then some 0x010 else none)
      else if tok = 1 then (if r.ticket = none then some 0x004 else if r.classByte = none then some 0x008 else none)
      else none) := by
  unfold readFailure
  cases r.token <;> rfl

/-- A fault is recorded by the record and the causes as they stand. -/
theorem recordFault_same {kind : FaultKind} {slot : Nat} {addr : Long} {u v : State} (he : u.eng = v.eng)
    (hc : u.link.causes = v.link.causes) :
    (recordFault kind slot addr u).eng = (recordFault kind slot addr v).eng
      ∧ (recordFault kind slot addr u).link.causes = (recordFault kind slot addr v).link.causes := by
  unfold recordFault
  rw [hc]
  split
  · exact ⟨by rw [show (markFields _ _ : State).eng = _ from rfl, he]; rfl, hc⟩
  · exact ⟨by rw [show (markFields _ _ : State).eng = _ from rfl, he]; rfl, by simp [markFields, hc]⟩

theorem foldl_recordFault_same {α : Type} (f : State → α → State) (h : ∀ u v x, u.eng = v.eng → u.link.causes = v.link.causes →
    (f u x).eng = (f v x).eng ∧ (f u x).link.causes = (f v x).link.causes) (l : List α) {u v : State} (he : u.eng = v.eng)
    (hc : u.link.causes = v.link.causes) :
    (l.foldl f u).eng = (l.foldl f v).eng ∧ (l.foldl f u).link.causes = (l.foldl f v).link.causes := by
  induction l generalizing u v with
  | nil => exact ⟨he, hc⟩
  | cons x r ih =>
    obtain ⟨h1, h2⟩ := h u v x he hc
    exact ih h1 h2

/-- The sweep as step 1 leaves it: each slot's token and header, and the new requests (R9). -/
def stepOneKept (reads : List SlotRead) (w : Sweep) (s : State) : Sweep :=
  { w with
    step := .two, scans := reads.zipIdx.filterMap (fun x => scanOf s x.2 x.1)
    requests := reads.zipIdx.filterMap (fun x => newRequest s x.2 x.1) }

/-- Step 1 over all 64 slots: the reads that follow, what is kept, and the faults (R9). -/
theorem endStepOne_full {reads : List SlotRead} (w : Sweep) (s : State) (h : reads.length = 64) :
    endStepOne reads w s = recordReads reads { emitStepOne reads s with intake.sweep := some (stepOneKept reads w s) } := by
  unfold endStepOne stepOneKept
  rw [List.take_of_length_le (by rw [h]; exact le_refl _)]

/-- A slot is held on the strength of the table, the writes that wait and the take past TAKEN (R5). -/
theorem holdsSlot_congr {s t : State} (hplan : t.plan = s.plan) (hlink : t.link = s.link)
    (hplace : (sweepPlace t).bind Prod.snd = (sweepPlace s).bind Prod.snd) (slot : Nat) : holdsSlot t slot = holdsSlot s slot := by
  have hsw : ∀ u : State, (match u.intake.sweep with
      | some w => (match w.taken with
        | some (n, _) => n == slot
        | none => false)
      | none => false) = ((sweepPlace u).bind Prod.snd).any (fun p => p.1 == slot) := by
    intro u
    unfold sweepPlace
    cases u.intake.sweep with
    | none => rfl
    | some w =>
      simp only [Option.map_some, Option.bind_some]
      cases w.taken <;> rfl
  have h1 : orderOfSlot t slot = orderOfSlot s slot := orderOfSlot_congr (by rw [hplan]) slot
  have h2 : returnWaiting t slot = returnWaiting s slot := by unfold returnWaiting; rw [hlink]
  unfold holdsSlot
  rw [h1, h2]
  refine congrArg _ ((hsw t).trans (Eq.trans ?_ (hsw s).symm))
  rw [hplace]

/-- The faults of step 1, over the slots that were read: those of a fold over all of them (R186, log entry 36). -/
theorem recordReads_faults {reads : List SlotRead} (h : reads.length = 64) (X s : State) (he : X.eng = s.eng)
    (hc : X.link.causes = s.link.causes) (harea : X.link.area = s.link.area) {failed : Nat → Option Nat}
    (hf : ∀ k r, reads[k]? = some r → readFailure X k r = failed k) :
    let faulted := (List.range 64).foldl (fun u k => match failed k with
      | some off => recordFault .slotRead k (jobAddr s (0x10000 + k * 0x1000 + off)) u
      | none => u) s
    (recordReads reads X).eng = faulted.eng ∧ (recordReads reads X).link.causes = faulted.link.causes := by
  intro faulted
  have hrange : List.range 64 = reads.zipIdx.map Prod.snd := by rw [List.zipIdx_map_snd, h, List.range_eq_range']
  have hfold : recordReads reads X = reads.zipIdx.foldl (fun u x => match failed x.2 with
      | some off => recordFault .slotRead x.2 (jobAddr s (0x10000 + x.2 * 0x1000 + off)) u
      | none => u) X := by
    unfold recordReads
    refine List.foldl_ext _ _ X fun u x hx => ?_
    rw [hf x.2 x.1 (List.mem_zipIdx_iff_getElem?.1 hx)]
    cases failed x.2 with
    | none => rfl
    | some off =>
      dsimp only
      rw [jobAddr, harea]
      rfl
  have hfaulted : faulted = reads.zipIdx.foldl (fun u x => match failed x.2 with
      | some off => recordFault .slotRead x.2 (jobAddr s (0x10000 + x.2 * 0x1000 + off)) u
      | none => u) s := by
    simp only [faulted]
    rw [hrange, List.foldl_map]
  rw [hfold, hfaulted]
  refine foldl_recordFault_same _ (fun u v x hu hv => ?_) _ he hc
  cases failed x.2 with
  | none => exact ⟨hu, hv⟩
  | some off => exact recordFault_same hu hv

/-- Of a held slot step 1 reads the request field (R9). -/
theorem stepOneReads_held {s : State} {k : Nat} {r : SlotRead} {tok : Word} (h : holdsSlot s k = true) (ht : r.token = some tok) :
    stepOneReads s k r = [(0x010, 1), (0x011, 1)] := by
  unfold stepOneReads
  rw [ht]
  exact if_pos h

/-- Of a slot not held that reads POSTED step 1 reads the ticket, and the class behind it (R9). -/
theorem stepOneReads_posted {s : State} {k : Nat} {r : SlotRead} (h : holdsSlot s k = false) (ht : r.token = some 1) :
    stepOneReads s k r = (0x004, 4) :: (if r.ticket = none then [] else [(0x008, 1)]) := by
  unfold stepOneReads
  rw [ht]
  exact (if_neg (by simp [h])).trans (if_pos rfl)

/-- A read that follows a slot's token goes out (R9). -/
theorem mem_emitStepOne {reads : List SlotRead} {s : State} {k : Nat} {r : SlotRead} {y : Nat × Nat} (ha : s.link.areaSet = true)
    (hr : reads[k]? = some r) (hy : y ∈ stepOneReads s k r) :
    Output.read (jobAddr s (0x10000 + k * 0x1000 + y.1)) y.2 ∈ (emitStepOne reads s).out := by
  rw [emitStepOne_eq, if_pos ha]
  refine List.mem_append_right _ (List.mem_flatMap.2 ⟨(r, k), List.mem_zipIdx_iff_getElem?.2 hr, ?_⟩)
  exact List.mem_map.2 ⟨y, hy, rfl⟩

/-! ## Each step begins the next -/

section
variable {s : State} {w : Sweep} (reads : List SlotRead)

theorem beginStep_some (hw : s.intake.sweep = some w) : beginStep reads s = match w.step with
    | .one => endStepOne reads w s
    | .two => endStepTwo w s
    | .three => endStepThree w s
    | .four => if w.taking = none ∧ w.taken = none then readCell (setStep .five s) else s
    | .five => endSweep s := by
  unfold beginStep
  rw [hw] <;> rfl

theorem beginStep_one (hw : s.intake.sweep = some w) (h : w.step = .one) :
    (beginStep reads s).intake.sweep.map Sweep.step = some .two := by
  rw [beginStep_some reads hw, h]
  unfold endStepOne
  simp

theorem beginStep_two (hw : s.intake.sweep = some w) (h : w.step = .two) :
    sweepPlace (beginStep reads s) = some (.three, w.taken) := by
  rw [beginStep_some reads hw, h]
  exact endStepTwo_place (p := (w.step, w.taken)) (by unfold sweepPlace; rw [hw]; rfl)

theorem beginStep_three (hw : s.intake.sweep = some w) (h : w.step = .three) :
    (beginStep reads s).intake.sweep.map Sweep.step = some .four ∧ (beginStep reads s).intake.lostPending = false := by
  rw [beginStep_some reads hw, h]
  unfold endStepThree
  refine ⟨?_, ?_⟩
  · rw [nextTake_step]; rfl
  · rw [(nextTake_cell _).2.2]

/-- With no take under way step 4 gives way to step 5, which reads the cell where no access of it is left (R9). -/
theorem beginStep_four (hw : s.intake.sweep = some w) (h : w.step = .four) (hnone : w.taking = none ∧ w.taken = none) :
    (beginStep reads s).intake.sweep.map Sweep.step = some .five
      ∧ (beginStep reads s).intake.cellRead = (s.intake.cellRead || !s.intake.cellOwed) := by
  rw [beginStep_some reads hw, h]
  dsimp only
  rw [if_pos hnone, setStep, hw]
  unfold readCell
  dsimp only
  split
  · rename_i hc
    refine ⟨rfl, ?_⟩
    change s.intake.cellRead = _
    cases hr : s.intake.cellRead with
    | true => rfl
    | false => rw [hr, Bool.false_or] at hc; rw [hc]; rfl
  · rename_i hc
    rw [Bool.not_eq_true, Bool.or_eq_false_iff] at hc
    simp [hc.1, hc.2]

theorem beginStep_four_busy (hw : s.intake.sweep = some w) (h : w.step = .four) (hbusy : w.taking ≠ none ∨ w.taken ≠ none) :
    beginStep reads s = s := by
  rw [beginStep_some reads hw, h]
  exact if_neg fun hn => hbusy.elim (· hn.1) (· hn.2)

theorem beginStep_five (hw : s.intake.sweep = some w) (h : w.step = .five) :
    beginStep reads s = { s with intake.sweep :=
      if s.intake.cellRead = false ∧ s.intake.cellOwed = false then none else some w } := by
  rw [beginStep_some reads hw, h]
  dsimp only
  rw [endSweep_eq, sweepEnded, hw]
  simp [h]

end

/-- The step and the cell's marks that a completion leaves are those its effect leaves: the link moves none of them. -/
theorem published_step (b : State) (room : Option Nat) (e : State) :
    (publish b (progress room e)).intake.sweep.map Sweep.step = e.intake.sweep.map Sweep.step
      ∧ (publish b (progress room e)).intake.cellRead = e.intake.cellRead
      ∧ (publish b (progress room e)).intake.lostPending = e.intake.lostPending := by
  rw [publish_intake]
  exact progress_sweep room e

/-- With no take past its TAKEN write, what waits after step 2's completion is of LOST returns alone (R9, R19). -/
theorem stepTwo_leaves_lost {reads : List SlotRead} {s : State} {w : Sweep} (hw : s.intake.sweep = some w) (h : w.step = .two)
    (ht : w.taken = none) (hs : s.setup.state ≠ .loading) (b : State) (room : Option Nat) :
    ∀ x ∈ (publish b (progress room (beginStep reads s))).link.waiting,
      (x.offset = 0x020 ∧ x.value = 6) ∨ (x.offset = 0 ∧ x.value = 3) := by
  intro x hx
  rw [publish_link] at hx
  have htaken : ∀ v, (beginStep reads s).intake.sweep = some v → v.taken = none := by
    intro v hv
    have hp := beginStep_two reads hw h
    unfold sweepPlace at hp
    rw [hv, ht] at hp
    exact congrArg Prod.snd (Option.some.inj hp)
  have hx2 := progress_waiting htaken x hx
  rw [beginStep_some reads hw, h] at hx2
  exact endStepTwo_waiting hs x hx2

/-- The writes that waited are the first accesses of the step (R9). -/
theorem waiting_go_first {reads : List SlotRead} {s : State} (ha : s.link.areaSet = true) (hs : s.setup.state ≠ .loading)
    (b : State) (room : Option Nat) :
    s.link.waiting.map (fun x => Output.write (jobAddr s (0x10000 + x.slot * 0x1000 + x.offset)) x.size x.value) <+:
      (publish b (progress room (beginStep reads (issueWaiting none (clearOut s))))).out := by
  have hout : (issueWaiting none (clearOut s)).out = s.link.waiting.map (fun x =>
      Output.write (jobAddr s (0x10000 + x.slot * 0x1000 + x.offset)) x.size x.value) := by
    rw [issueWaiting_out (s := clearOut s) hs]
    exact (List.nil_append _).trans (if_pos ha)
  rw [← hout]
  exact ((beginStep_prefix reads _).trans (progress_prefix room _)).trans (publish_prefix b _)

/-! ## The completion of step 1 -/

/-- With nothing waiting, a completion of step 1 keeps what the 64 slots read (R9). -/
theorem sweepStep_one {reads : List SlotRead} {s : State} {w : Sweep} (hq : Quiet s) (hw : s.intake.sweep = some w)
    (hst : w.step = .one) (h64 : reads.length = 64) :
    sweepStep reads (clearOut s) =
      recordReads reads { emitStepOne reads (clearOut s) with intake.sweep := some (stepOneKept reads w (clearOut s)) } := by
  have hwc : (clearOut s).intake.sweep = some w := hw
  unfold sweepStep
  rw [if_pos (by rw [hwc]; rfl), issueWaiting_nil (s := clearOut s) none hq.waiting, beginStep_some reads hwc, hst]
  exact endStepOne_full w _ h64

theorem mem_zipIdx_filterMap {α β : Type} {f : Nat → α → Option β} {l : List α} {y : β} :
    y ∈ l.zipIdx.filterMap (fun x => f x.2 x.1) ↔ ∃ k a, l[k]? = some a ∧ f k a = some y := by
  rw [List.mem_filterMap]
  constructor
  · rintro ⟨⟨a, k⟩, hm, hf⟩
    exact ⟨k, a, List.mem_zipIdx_iff_getElem?.1 hm, hf⟩
  · rintro ⟨k, a, hk, hf⟩
    exact ⟨(a, k), List.mem_zipIdx_iff_getElem?.2 hk, hf⟩

/-- Settles O17: the steps by `beginStep` case by case, which the link leaves alone (`published_step`), and step 1 by what
`sweepStep_one` keeps of each slot. -/
theorem sweepStepsFollowInOrder : Obligations.SweepStepsFollowInOrder := by
  unfold Obligations.SweepStepsFollowInOrder
  refine ⟨fun reads room s hl => ⟨fun hn => answers_act (f := sweepStep reads) hl rfl ?_, fun w hw => ?_⟩,
    fun reads room s w hl hq hw hst h64 => ?_⟩
  · exact if_neg (by rw [show (clearOut s).intake.sweep = none from hn]; simp)
  · have hI : (issueWaiting none (clearOut s)).intake = s.intake := by simp
    have hIsetup : (issueWaiting none (clearOut s)).setup = s.setup := by simp
    have hIw : (issueWaiting none (clearOut s)).intake.sweep = some w := by rw [hI, hw]
    have he : sweepStep reads (clearOut s) = beginStep reads (issueWaiting none (clearOut s)) :=
      if_pos (by rw [show (clearOut s).intake.sweep = some w from hw]; rfl)
    obtain ⟨hstep, hcell, hlost⟩ := published_step s room (beginStep reads (issueWaiting none (clearOut s)))
    refine ⟨_, answers_act (f := sweepStep reads) hl rfl he, fun h => ?_, fun h => ⟨?_, fun ht hs => ?_⟩, fun h => ⟨?_, ?_⟩,
      fun h h1 h2 => ⟨?_, ?_⟩, fun h hb => ?_, fun h h1 h2 => ?_, fun h hb => ?_, fun ha hs => waiting_go_first ha hs s room⟩
    · rw [hstep]; exact beginStep_one reads hIw h
    · rw [hstep]
      have hp := congrArg (Option.map Prod.fst) (beginStep_two reads hIw h)
      unfold sweepPlace at hp
      rw [Option.map_map] at hp
      exact hp
    · exact stepTwo_leaves_lost hIw h ht (by rw [hIsetup]; exact hs) s room
    · rw [hstep]; exact (beginStep_three reads hIw h).1
    · rw [hlost]; exact (beginStep_three reads hIw h).2
    · rw [hstep]; exact (beginStep_four reads hIw h ⟨h1, h2⟩).1
    · rw [hcell, (beginStep_four reads hIw h ⟨h1, h2⟩).2, hI]
    · rw [hstep, beginStep_four_busy reads hIw h hb, hIw, Option.map_some, h]
    · rw [← Option.map_eq_none_iff (f := Sweep.step), hstep, beginStep_five reads hIw h, hI, if_pos ⟨h1, h2⟩]
      rfl
    · rw [hstep, beginStep_five reads hIw h, hI, if_neg (fun hn => by
        rcases hb with hb | hb
        · rw [hn.1] at hb; cases hb
        · rw [hn.2] at hb; cases hb)]
      exact congrArg some h
  · obtain ⟨X, hX⟩ : ∃ X : State, X =
        { emitStepOne reads (clearOut s) with intake.sweep := some (stepOneKept reads w (clearOut s)) } := ⟨_, rfl⟩
    have he : sweepStep reads (clearOut s) = recordReads reads X := by rw [hX]; exact sweepStep_one hq hw hst h64
    have hsw : (recordReads reads X).intake.sweep = some (stepOneKept reads w (clearOut s)) := by
      rw [show (recordReads reads X).intake = X.intake by simp, hX]
    have hXplan : X.plan = s.plan := by rw [hX, emitStepOne_eq]; rfl
    have hXeng : X.eng = s.eng := by rw [hX, emitStepOne_eq]; rfl
    have hXlink : X.link = (clearOut s).link := by rw [hX, emitStepOne_eq]
    have hXplace : sweepPlace X = some (.two, w.taken) := by rw [hX]; rfl
    have hgo : progress room (recordReads reads X) = recordReads reads X := by
      refine progress_idle (fun v hv => ?_) ?_ room
      · rw [hsw] at hv
        obtain rfl := Option.some.inj hv
        exact hq.taken w hw
      · have hkeep : (recordReads reads X).link.waiting = X.link.waiting := by simp
        rw [hkeep, hXlink]
        exact hq.waiting
    have hans := answers_act (c := .sweepStepComplete reads room) (f := sweepStep reads) (room := room) hl rfl he
    rw [Answers, hgo] at hans
    refine ⟨_, _, hans, by rw [publish_intake]; exact hsw, fun ha k r tok hr htok => ?_, fun x => ?_, ?_, fun q => ?_⟩
    · intro read
      have hgoes : ∀ y ∈ stepOneReads (clearOut s) k r, read y.1 y.2 ∈ (publish s (recordReads reads X)).out := fun y hy => by
        refine publish_out_mem ?_
        rw [show (recordReads reads X).out = X.out by simp, hX]
        exact mem_emitStepOne (s := clearOut s) ha hr hy
      refine ⟨fun hh => ?_, fun hh htp => ?_⟩
      · rw [stepOneReads_held (s := clearOut s) hh htok] at hgoes
        exact ⟨hgoes (0x010, 1) (by simp), hgoes (0x011, 1) (by simp)⟩
      · rw [stepOneReads_posted (s := clearOut s) hh (htp ▸ htok)] at hgoes
        exact ⟨hgoes (0x004, 4) (by simp), fun hn => hgoes (0x008, 1) (by simp [hn])⟩
    · refine mem_zipIdx_filterMap.trans ⟨?_, ?_⟩
      · rintro ⟨k, r, hr, hs⟩
        obtain ⟨rfl, h⟩ := scanOf_iff.1 hs
        exact ⟨r, hr, h⟩
      · rintro ⟨r, hr, h⟩
        exact ⟨_, r, hr, scanOf_iff.2 ⟨rfl, h⟩⟩
    · intro failed faulted
      have hf : ∀ k r, reads[k]? = some r → readFailure X k r = failed k := by
        intro k r hr
        have hhold : holdsSlot X k = holdsSlot s k := (holdsSlot_congr (s := clearOut s) hXplan hXlink (by
          rw [hXplace]; unfold sweepPlace; rw [show (clearOut s).intake.sweep = some w from hw]; rfl) k)
        simp only [failed, hr]
        rw [readFailure_eq, hhold] <;> cases r.token <;> rfl
      obtain ⟨h1, h2⟩ := recordReads_faults h64 X s hXeng (by rw [hXlink]; rfl) (by rw [hXlink]; rfl) hf
      rw [publish_link, show (publish s (recordReads reads X)).eng = (recordReads reads X).eng by rw [publish_fields]]
      exact ⟨h1, h2⟩
    · refine mem_zipIdx_filterMap.trans ⟨?_, ?_⟩
      · rintro ⟨k, r, hr, hs⟩
        obtain ⟨rfl, i, o, ht, hrq, h⟩ := newRequest_iff.1 hs
        exact ⟨r, i, o, hr, ht, hrq, h⟩
      · rintro ⟨r, i, o, hr, ht, hrq, h⟩
        exact ⟨_, r, hr, newRequest_iff.2 ⟨rfl, i, o, ht, hrq, h⟩⟩

end Sys2Proof.Machine
end

section
/-! The setup store: what a step can do to it, and that its values stay in their ranges (R24 to R28, 2.2.2). -/

open Sys2Proof Sys2Proof.Machine

namespace Sys2Proof.Machine

set_option Elab.async false

/-! ## Values a field stores -/

theorem clampTo_mem {r : Nat × Nat} (h : r.1 ≤ r.2) (v : Nat) : r.1 ≤ clampTo r v ∧ clampTo r v ≤ r.2 :=
  ⟨Nat.le_max_left _ _, Nat.max_le.2 ⟨h, Nat.min_le_left _ _⟩⟩

theorem SetupField.range_le {f : SetupField} {r : Nat × Nat} (h : f.range = some r) : r.1 ≤ r.2 := by
  cases f with
  | param p => cases p <;> cases h <;> decide
  | _ => cases h <;> decide

/-- A field with a range stores a value in it (R26). -/
theorem fieldValue_mem {f : SetupField} {r : Nat × Nat} (h : f.range = some r) (raw : Nat) :
    r.1 ≤ (fieldValue f raw).1 ∧ (fieldValue f raw).1 ≤ r.2 := by
  simp only [fieldValue, h]
  exact clampTo_mem (SetupField.range_le h) raw

theorem getParam_setParam (p q : Param) (v : Nat) (x : Params) :
    getParam q (setParam p v x) = if q = p then v else getParam q x := by
  cases p <;> cases q <;> rfl

/-! ## Updates of one product -/

theorem forall_onProduct {P : Product → Prop} {x : Setup} (hx : ∀ r ∈ x.products, P r) (p : Nat) {f : Product → Product}
    (hf : ∀ r, P r → P (f r)) : ∀ r ∈ (onProduct p f x).products, P r := by
  intro r hr
  obtain ⟨i, hi⟩ := List.mem_iff_getElem?.1 hr
  simp only [onProduct, List.getElem?_modify] at hi
  obtain ⟨q, hq, rfl⟩ := Option.map_eq_some_iff.1 hi
  have hP := hx q (List.mem_of_getElem? hq)
  split
  · exact hf q hP
  · exact hP

theorem getProduct_onProduct {p : Nat} {x : Setup} (hp : p < x.products.length) (f : Product → Product) (q : Nat) :
    getProduct (onProduct p f x) q = if q = p then f (getProduct x p) else getProduct x q := by
  simp only [getProduct, onProduct, List.getD_eq_getElem?_getD, List.getElem?_modify]
  by_cases h : q = p
  · subst h; simp [hp]
  · simp [h, Ne.symm h]

theorem productSound_iff (r : Product) :
    productSound r = true ↔ r.breakCount ≤ 4 ∧ r.basePrice ≤ 99999 ∧ ∀ b ∈ r.breaks, breakSound b = true := by
  simp [productSound, and_assoc]

/-- A change of one break keeps a product sound where it keeps that break sound. -/
theorem productSound_modifyBreak {r : Product} (hr : productSound r = true) (k : Nat) {f : Break → Break}
    (hf : ∀ b, breakSound b = true → breakSound (f b) = true) :
    productSound { r with breaks := r.breaks.modify k f } = true := by
  obtain ⟨hcount, hprice, hbreaks⟩ := (productSound_iff r).1 hr
  refine (productSound_iff _).2 ⟨hcount, hprice, fun b hb => ?_⟩
  obtain ⟨i, hi⟩ := List.mem_iff_getElem?.1 hb
  rw [List.getElem?_modify] at hi
  obtain ⟨c, hc, rfl⟩ := Option.map_eq_some_iff.1 hi
  have hs := hbreaks c (List.mem_of_getElem? hc)
  split
  · exact hf c hs
  · exact hs

/-! ## The store stays sound -/

/-- Of what the store says of a load, `SetupSound` bounds the clamp count alone. -/
theorem SetupSound.recoded {x : Setup} (h : SetupSound x) (st : SetupState) (g : SetupGroup) {n : Nat} (hn : n ≤ 65535)
    (cur : Option SetupField) :
    SetupSound { x with state := st, firstRefused := g, clampCount := n, cursor := cur } :=
  { h with clamps := hn }

theorem SetupSound.onProduct {x : Setup} (h : SetupSound x) (p : Nat) {f : Product → Product}
    (hf : ∀ r, productSound r = true → productSound (f r) = true) : SetupSound (onProduct p f x) :=
  { h with products := forall_onProduct h.products p hf }

theorem SetupSound.setParam {x : Setup} (h : SetupSound x) {p : Param} {v : Nat} (hv : p.range.1 ≤ v ∧ v ≤ p.range.2) :
    SetupSound { x with params := setParam p v x.params } :=
  { h with
    params := fun q => by
      have hq := h.params q
      unfold paramSound at *
      rw [getParam_setParam]
      split
      · rename_i he; subst he; simp [hv.1, hv.2]
      · exact hq }

/-- A value that stands in its field's range keeps the store sound. -/
theorem setupSound_storeValue {x : Setup} (h : SetupSound x) {f : SetupField} {v : Nat}
    (hv : ∀ r, f.range = some r → r.1 ≤ v ∧ v ≤ r.2) : SetupSound (storeValue f v x) := by
  cases f with
  | param p => exact h.setParam (hv _ rfl)
  | discount c =>
    refine { h with discounts := fun d hd => ?_ }
    rcases List.mem_or_eq_of_mem_set hd with hd | rfl
    · exact h.discounts d hd
    · exact (hv _ rfl).2
  | handlingFee => exact { h with fee := (hv _ rfl).2 }
  | rushSurcharge => exact { h with rush := (hv _ rfl).2 }
  | taxRate => exact { h with tax := (hv _ rfl).2 }
  | productDefined p | productWidth p | productLength p => exact h.onProduct p fun _ hr => hr
  | productBreaks p =>
    refine h.onProduct p fun r hr => ?_
    obtain ⟨-, hprice, hbreaks⟩ := (productSound_iff r).1 hr
    exact (productSound_iff _).2 ⟨(hv _ rfl).2, hprice, hbreaks⟩
  | productPrice p =>
    refine h.onProduct p fun r hr => ?_
    obtain ⟨hcount, -, hbreaks⟩ := (productSound_iff r).1 hr
    exact (productSound_iff _).2 ⟨hcount, (hv _ rfl).2, hbreaks⟩
  | breakMinimum p k =>
    refine h.onProduct p fun r hr => productSound_modifyBreak hr k fun b hb => ?_
    have hm := hv _ rfl
    simp only [breakSound, Bool.and_eq_true] at hb ⊢
    exact ⟨by simp [hm.1, hm.2], hb.2⟩
  | breakPrice p k =>
    refine h.onProduct p fun r hr => productSound_modifyBreak hr k fun b hb => ?_
    simp only [breakSound, Bool.and_eq_true] at hb ⊢
    exact ⟨hb.1, decide_eq_true (hv _ rfl).2⟩
  | tone i =>
    obtain ⟨hwf, hle⟩ := h.tones
    refine { h with tones := ⟨tableSet_wf 0 _ 0 i v (Nat.zero_le i) hwf, fun k => ?_⟩ }
    rw [storeValue, tableGet_tableSet 0 _ 0 i k v hwf]
    split
    · exact (hv _ rfl).2
    · exact hle k
  | uniformity i =>
    obtain ⟨hwf, hle⟩ := h.uniformity
    refine { h with uniformity := ⟨tableSet_wf 1024 _ 0 i v (Nat.zero_le i) hwf, fun k => ?_⟩ }
    rw [storeValue, tableGet_tableSet 1024 _ 0 i k v hwf]
    split
    · exact hv _ rfl
    · exact hle k
  | revision => exact h
  | windowBase | windowLength | windowEnable | fullScale => exact { h with }

theorem setupSound_noteRefused {x : Setup} (h : SetupSound x) (g : SetupGroup) : SetupSound (noteRefused g x) := by
  unfold noteRefused; split
  · exact h.recoded x.state g h.clamps x.cursor
  · exact h

theorem setupSound_noteClamp {x : Setup} (h : SetupSound x) (f : SetupField) (clamped : Bool) :
    SetupSound (noteClamp f clamped x) := by
  unfold noteClamp; split
  · exact setupSound_noteRefused (h.recoded x.state x.firstRefused (Nat.min_le_right _ _) x.cursor) _
  · exact h

theorem setupSound_flagProduct {x : Setup} (h : SetupSound x) (p : Nat) : SetupSound (flagProduct p x) := by
  have hy := h.onProduct p (f := fun r => { r with usable := r.isDefined && !structuralError r }) fun _ hr => hr
  unfold flagProduct; dsimp only; split
  · exact setupSound_noteRefused hy _
  · exact hy

/-- Whatever a load reads, what it stores is in its range (R26, R27). -/
theorem setupSound_storeField {x : Setup} (h : SetupSound x) (f : SetupField) (raw : Nat) : SetupSound (storeField f raw x) := by
  have hv := setupSound_storeValue h (f := f) fun _ hr => fieldValue_mem hr (raw % 2 ^ (8 * f.size))
  have hy := setupSound_noteClamp hv f (fieldValue f (raw % 2 ^ (8 * f.size))).2
  unfold storeField; dsimp only; split
  · exact setupSound_flagProduct hy _
  · exact hy

theorem setupSound_reset : SetupSound Setup.reset where
  params p := by cases p <;> rfl
  discounts := by decide
  fee := by decide
  rush := by decide
  tax := by decide
  products := by decide
  tones := ⟨rfl, fun _ => Nat.zero_le _⟩
  uniformity := ⟨rfl, fun _ => by simp [Setup.reset, tableGet]⟩
  clamps := by decide

/-! ## What a step can do to the store -/

/-- What one step can do to the setup store x: change what it says of a load, take one value read into it as well, or set
it to its power-on values (R24 to R28, R189). -/
inductive SetupStep (x : Setup) : Setup → Prop where
  | recoded (st : SetupState) (g : SetupGroup) {n : Nat} (hn : n ≤ x.clampCount) (cur : Option SetupField) :
      SetupStep x { x with state := st, firstRefused := g, clampCount := n, cursor := cur }
  | stored (f : SetupField) (raw : Nat) (st : SetupState) (cur : Option SetupField) :
      SetupStep x { storeField f raw x with state := st, cursor := cur }
  | reset : SetupStep x Setup.reset

theorem SetupSound.step {x y : Setup} (h : SetupSound x) (hy : SetupStep x y) : SetupSound y := by
  cases hy with
  | recoded st g hn cur => exact h.recoded st g (hn.trans h.clamps) cur
  | stored f raw st cur =>
    have hs := setupSound_storeField h f raw
    exact hs.recoded st _ hs.clamps cur
  | reset => exact setupSound_reset

theorem SetupStep.kept {x y : Setup} (h : y = x) : SetupStep x y := by
  rw [h]; exact .recoded x.state x.firstRefused le_rfl x.cursor

theorem setupStep_cutLoad (x : Setup) : SetupStep x (cutLoad x) := by
  unfold cutLoad; split
  · exact .recoded .invalid x.firstRefused le_rfl none
  · exact .recoded x.state x.firstRefused le_rfl none

theorem setupStep_startLoad (s : State) : SetupStep s.setup (startLoad s).setup := by
  have he : (startLoad s).setup =
      { s.setup with state := .loading, firstRefused := .none, clampCount := 0, cursor := some .revision } := by
    simp [startLoad, issueSetupRead]
  exact he ▸ .recoded .loading .none (Nat.zero_le _) (some .revision)

/-- A read of a load that completes: the load ends with nothing stored, or the value is stored and the load goes on or
ends (R25, R28). -/
theorem setupStep_loadRead (f : SetupField) (result : Option (BitVec 64)) (s : State) :
    SetupStep s.setup (loadRead f result s).setup := by
  unfold loadRead; split
  · have he : (recordFault .setupRead 255 (jobAddr s (offSetup + f.offset)) (endLoad .invalid s)).setup =
        { s.setup with state := .invalid, cursor := none } := by simp [endLoad]
    exact he ▸ .recoded .invalid s.setup.firstRefused le_rfl none
  · rename_i v
    split
    · exact .recoded .invalid .header le_rfl none
    · dsimp only; split
      · rename_i g _
        have he : (issueSetupRead g { s with setup := storeField f v.toNat s.setup }).setup =
            { storeField f v.toNat s.setup with cursor := some g } := by simp [issueSetupRead]
        exact he ▸ .stored f v.toNat _ (some g)
      · exact .stored f v.toNat .valid none

theorem setupStep_setupRead (result : Option (BitVec 64)) (s : State) : SetupStep s.setup (setupRead result s).setup := by
  unfold setupRead; split
  · rename_i f _
    have he : (returnsAfterLoad (evalFetch (loadRead f result s))).setup = (loadRead f result s).setup := by simp
    exact he ▸ setupStep_loadRead f result s
  · exact .kept rfl

theorem setupStep_act {room : Option Nat} {f : State → State} {s : State}
    (h : SetupStep s.setup (f (clearOut s)).setup) : SetupStep s.setup (act room f s).setup := by
  unfold act perform; split
  · simpa using h
  · exact .kept (by simp)

theorem setupStep_actPin {level f : State → State} {s : State} (hl : ∀ u, (level u).setup = u.setup)
    (hf : ∀ u, (f u).setup = u.setup) : SetupStep s.setup (actPin level f s).setup := by
  unfold actPin perform; split <;> exact .kept (by simp [hl, hf])

theorem cellRequest_setup (a : CellAnswer) {f : State → State} (hf : ∀ u, (f u).setup = u.setup) (s : State) :
    (cellRequest a f s).setup = s.setup := by
  unfold cellRequest; split
  · split <;> simp [hf]
  · rfl

@[simp] theorem lineTiming_setup (paper : Bool) (s : State) : (lineTiming paper s).setup = s.setup := by
  have hready (p : Word) (u : State) : (readyLine p u).setup = u.setup := by
    unfold readyLine; split
    · simp
    · split <;> simp
  unfold lineTiming; split
  · simp
  · simp
  · simp only [readyStrobe]
    split <;> simp [hready]

@[simp] theorem strobe_setup (paper good : Bool) (s : State) : (strobe paper good s).setup = s.setup := by simp [strobe]

theorem enterHalted_setup (s : State) : (enterHalted s).setup = cutLoad s.setup := by simp [enterHalted]

theorem softReset_setup (s : State) : (softReset s).setup = cutLoad s.setup := by simp [softReset, softValues]

/-- Every command's effect on the store: nothing, but for the beginning, the reads and the end of a load, and a reset. -/
theorem setupStep_exec {s t : State} {c : Instr} (ht : exec c s = .next t) : SetupStep s.setup t.setup := by
  cases c
  all_goals obtain rfl := Host.Outcome.next.inj ht
  case statusRead =>
    split
    · split
      · exact .kept (by simp [perform])
      · exact .kept rfl
    · exact .kept rfl
  case softReset =>
    split
    · rw [softReset_setup]; exact setupStep_cutLoad _
    · exact .kept (by simp)
  case powerOnReset stable => exact .reset
  case pinReset => exact setupStep_cutLoad _
  case resetLineAsserted => exact setupStep_cutLoad _
  case presentSensorInactive m => refine setupStep_actPin (fun u => ?_) (fun u => ?_) <;> simp
  case presentSensorActive m => refine setupStep_actPin (fun u => ?_) (fun u => rfl); simp
  case webReadyRise | webReadyFall | jamSensorActive =>
    refine setupStep_actPin (fun u => ?_) (fun u => ?_)
    · rfl
    · split <;> simp
  case knifeHomeSensor active =>
    refine setupStep_actPin (fun u => ?_) (fun u => ?_)
    · rfl
    · simp
  all_goals refine setupStep_act ?_
  case loadSetup =>
    split
    · exact setupStep_startLoad (clearOut s)
    · exact .kept (by simp)
  case setupReadComplete result stale =>
    split
    · exact .kept (by simp)
    · exact setupStep_setupRead result (clearOut s)
  case statusBlockWriteError beforeReset =>
    split
    · exact .kept (by simp)
    · rw [enterHalted_setup]; exact setupStep_cutLoad _
  all_goals refine .kept ?_
  case loadPaper | clearPaper =>
    refine cellRequest_setup _ (fun u => ?_) _
    split <;> simp
  case resume | releaseBin | machineRequestNotApplicable => exact cellRequest_setup _ (fun u => by simp) _
  case changeoverNow => refine cellRequest_setup _ (fun u => ?_) _; rfl
  case areaWrite | go | nudge | sweepTimerExpiry | takeReadsComplete | machineRequestCellRead | changeDone
      | changeoverTimerExpiry | strobeSupervisionExpiry | ratePeriod | lampBlinkToggle => split <;> simp
  case cellPollExpiry =>
    split
    · split <;> simp
    · rfl
  case idleTimerExpiry =>
    split
    · dsimp only; split <;> rfl
    · rfl
  all_goals simp

theorem step_setup {s t : State} (ht : step s = .next t) : SetupStep s.setup t.setup := by
  unfold step at ht; split at ht
  · obtain rfl := Host.Outcome.next.inj ht
    refine setupStep_act (room := none) (f := tick) (.kept ?_)
    simp
  · rename_i c rest _
    exact setupStep_exec (s := { s with pending := rest }) ht

/-- Settles O57: the store is sound after whatever one step can do to it (`step_setup`). -/
theorem setupStoreStaysSound : Obligations.SetupStoreStaysSound := fun _ _ h ht => h.step (step_setup ht)

end Sys2Proof.Machine
end

section
/-! Setup loads: their beginning, their reads in offset order and their end, clamps and usable flags (R24 to R28). -/

open Sys2Proof Sys2Proof.Machine

namespace Sys2Proof.Machine

set_option Elab.async false

/-! ## The beginning of a load and of a sweep -/

theorem issueSetupRead_eq (f : SetupField) {s : State} (ha : s.link.areaSet = true) : issueSetupRead f s =
    { s with setup.cursor := some f, out := s.out ++ [.read (jobAddr s (0x1000 + f.offset)) f.size] } :=
  emitRead_set _ _ { s with setup.cursor := some f } ha

/-- Settles O14: both commands pass their guard, and put out the one read of `issueSetupRead_eq` and the tokens of
`startSweep_eq`. -/
theorem loadSetupAndNudgeTaken : Obligations.LoadSetupAndNudgeTaken := by
  refine ⟨fun s hl he ha hs => answers_act hl rfl ?_, fun s hl he => answers_act hl rfl ?_⟩
  · have ht : loadTaken (clearOut s) = true := by simp [loadTaken, he, ha, hs]
    rw [if_pos ht]
    exact issueSetupRead_eq .revision ha
  · rw [if_pos ((moving_iff (clearOut s)).2 he), startSweep_eq]
    rfl

/-! ## The order of a load's reads -/

theorem offset_lt_afterProduct {p n : Nat} (hp : p < 32) (hn : n < 0x130 + 48 * p) : n < (afterProduct p).offset := by
  unfold afterProduct; split <;> simp only [SetupField.offset] <;> omega

/-- The field read next lies behind (2.2.1, R25). -/
theorem nextField_offset {f g : SetupField} {x : Setup} (hf : f.inArea = true) (hg : nextField f x = some g) :
    f.offset < g.offset := by
  cases f with
  | param p => cases p <;> cases hg <;> decide
  | fullScale c => cases c <;> cases hg <;> decide
  | revision | handlingFee | rushSurcharge | taxRate => cases hg; decide
  | windowBase w | windowLength w | productDefined p | productWidth p | productLength p | productBreaks p
  | breakMinimum p k => cases hg; simp only [SetupField.offset]; omega
  | windowEnable w | discount c | tone i =>
    simp only [SetupField.inArea, decide_eq_true_eq] at hf
    cases hg
    split <;> simp only [SetupField.offset] <;> omega
  | uniformity i =>
    simp only [nextField, Option.ite_none_right_eq_some, Option.some.injEq] at hg
    obtain ⟨-, rfl⟩ := hg
    simp only [SetupField.offset]; omega
  | productPrice p =>
    simp only [SetupField.inArea, decide_eq_true_eq] at hf
    cases hg
    split
    · exact offset_lt_afterProduct hf (by simp only [SetupField.offset]; omega)
    · simp only [SetupField.offset]; omega
  | breakPrice p k =>
    simp only [SetupField.inArea, Bool.and_eq_true, decide_eq_true_eq] at hf
    cases hg
    split
    · exact offset_lt_afterProduct hf.1 (by simp only [SetupField.offset]; omega)
    · simp only [SetupField.offset]; omega

/-- Only the last uniformity entry has no field behind it (R25). -/
theorem nextField_none {f : SetupField} {x : Setup} (hf : f.inArea = true) (hg : nextField f x = none) :
    f = .uniformity 9215 := by
  cases f with
  | uniformity i =>
    simp only [SetupField.inArea, decide_eq_true_eq] at hf
    simp only [nextField, ite_eq_right_iff, reduceCtorEq, imp_false] at hg
    congr 1; omega
  | fullScale c => cases c <;> cases hg
  | _ => cases hg

/-! ## A read of a load that completes -/

/-- A value read is stored, and the load goes on with the next field (R25). -/
theorem loadRead_next {f g : SetupField} {v : BitVec 64} {s : State} (h : f = .revision → v.toNat % 2 ^ 32 = 1)
    (hg : nextField f (storeField f v.toNat s.setup) = some g) :
    loadRead f (some v) s = issueSetupRead g { s with setup := storeField f v.toNat s.setup } := by
  unfold loadRead; dsimp only
  rw [if_neg fun ⟨hf, hv⟩ => hv (h hf), hg]

/-- The value of the last field is stored, and the load ends VALID (R25). -/
theorem loadRead_end {f : SetupField} {v : BitVec 64} {s : State} (h : f ≠ .revision)
    (hg : nextField f (storeField f v.toNat s.setup) = none) :
    loadRead f (some v) s = endLoad .valid { s with setup := storeField f v.toNat s.setup } := by
  unfold loadRead; dsimp only
  rw [if_neg fun ⟨hf, _⟩ => h hf, hg]

/-- The completion of the read that is out answers with what `loadRead` comes to. -/
theorem answers_setupRead {s e : State} {f : SetupField} {r : Option (BitVec 64)} (hl : live s = true)
    (hc : s.setup.cursor = some f) (he : loadRead f r (clearOut s) = e) :
    Answers (.setupReadComplete r false) none s (returnsAfterLoad (evalFetch e)) := by
  refine answers_act (f := setupRead r) hl rfl ?_
  unfold setupRead
  rw [show (clearOut s).setup.cursor = some f from hc]
  dsimp only
  rw [he]

/-- Outside a load nothing waits for it, and while it runs nothing it holds up begins (R176). -/
theorem returnsAfterLoad_same {s : State}
    (h : s.setup.state = .loading ∨ ∀ o, some o ∈ s.plan.table → o.returnDue = false) : returnsAfterLoad s = s := by
  unfold returnsAfterLoad; split
  · rfl
  · rename_i hs
    exact foldl_returnDueOf_none _ fun _ _ p hp => h.resolve_left hs p (getOrder_mem hp)

/-- Settles O26, by what each read of a load comes to (`loadRead_badRevision`, `loadRead_next`, `loadRead_end`) and the order
of the fields (`nextField_offset`, `nextField_none`). -/
theorem setupReadsStoredInOrder : Obligations.SetupReadsStoredInOrder := by
  refine ⟨fun s hl => ⟨fun r => answers_act hl rfl rfl, fun hc r => ?_, fun hc v => ⟨fun hv => ?_, fun hv ha => ?_⟩,
    fun f hc => ?_⟩, fun f v s hl hc hf hin ha => ?_, fun s h => returnsAfterLoad_same h⟩
  · refine answers_act (f := setupRead r) hl rfl ?_
    unfold setupRead
    rw [show (clearOut s).setup.cursor = none from hc]
  · exact answers_setupRead hl hc (loadRead_badRevision hv _)
  · refine answers_setupRead hl hc ?_
    exact (loadRead_next (fun _ => hv) rfl).trans (issueSetupRead_eq _ ha)
  · exact answers_setupRead hl hc rfl
  · intro x
    split
    · rename_i g hg
      exact ⟨nextField_offset hin hg,
        answers_setupRead hl hc 
          ((loadRead_next (s := clearOut s) (absurd · hf) hg).trans (issueSetupRead_eq g ha))⟩
    · rename_i hg
      exact ⟨nextField_none hin hg, answers_setupRead hl hc (loadRead_end hf hg)⟩

/-! ## Clamps and usable flags -/

theorem clampTo_eq {r : Nat × Nat} (h : r.1 ≤ r.2) (v : Nat) :
    clampTo r v = if v < r.1 then r.1 else if r.2 < v then r.2 else v := by
  unfold clampTo
  split
  · omega
  · split <;> omega

theorem noteRefused_eq (g : SetupGroup) (x : Setup) :
    noteRefused g x = { x with firstRefused := if x.firstRefused = .none then g else x.firstRefused } := by
  unfold noteRefused; split <;> rfl

/-- A clamp counts once, and names its group where nothing is named yet (R26). -/
theorem noteClamp_eq (f : SetupField) (clamped : Bool) (x : Setup) : noteClamp f clamped x =
    { x with clampCount := if clamped then min (x.clampCount + 1) 65535 else x.clampCount
             firstRefused := if clamped ∧ x.firstRefused = .none then f.group else x.firstRefused } := by
  unfold noteClamp
  cases clamped
  · rfl
  · simp [noteRefused_eq]

theorem storeField_param (p : Param) (raw : Nat) (x : Setup) :
    let v := raw % 2 ^ (8 * p.size)
    let c := if v < p.range.1 then p.range.1 else if p.range.2 < v then p.range.2 else v
    storeField (.param p) raw x = noteClamp (.param p) (c != v) { x with params := setParam p c x.params } := by
  intro v c
  have hc : clampTo p.range v = c := clampTo_eq (SetupField.range_le (f := .param p) rfl) v
  rw [← hc]
  rfl

/-- The conditions of R27 on a defined record. -/
theorem structuralError_false (r : Product) : structuralError r = false ↔
    r.width ∈ [89, 102, 127, 152, 203, 254, 305] ∧ 890 ≤ r.length ∧ r.length ≤ 9000
      ∧ ((r.breaks.take r.breakCount).map Break.minimum).Pairwise (· < ·) := by
  rw [← ascending_iff, ← List.contains_iff_mem]
  simp only [structuralError, widthAccepted, Config.widths, Bool.or_eq_false_iff, Bool.not_eq_false', decide_eq_false_iff_not,
    not_lt, and_assoc]

/-- The record with its usable flag set (R27). -/
def flagged (r : Product) : Product := { r with usable := r.isDefined && !structuralError r }

/-- A record read to its end is flagged, and where it is defined and fails names PRODUCTS, with nothing named yet (R27). -/
theorem flagProduct_eq (p : Nat) (x : Setup) : flagProduct p x =
    { onProduct p flagged x with
      firstRefused := if (getProduct x p).isDefined = true ∧ structuralError (getProduct x p) = true ∧ x.firstRefused = .none
        then .products else x.firstRefused } := by
  change (if ((getProduct x p).isDefined && structuralError (getProduct x p)) = true then
    noteRefused .products (onProduct p flagged x) else onProduct p flagged x) = _
  split
  · rename_i hbad
    obtain ⟨hd, he⟩ := Bool.and_eq_true_iff.1 hbad
    simp [noteRefused_eq, hd, he, onProduct]
  · rename_i hbad
    rw [if_neg fun ⟨hd, he, _⟩ => hbad (Bool.and_eq_true_iff.2 ⟨hd, he⟩)]
    rfl

/-- Settles O27: a parameter's store is one `setParam` and one `noteClamp`, and the flag of a product is set on that record
alone (`flagProduct_eq`). -/
theorem clampsAndUsableFlags : Obligations.ClampsAndUsableFlags := by
  constructor
  · intro p raw x v c y
    have hy : y = _ := (storeField_param p raw x).trans (noteClamp_eq _ (c != v) _)
    rw [hy]
    refine ⟨(getParam_setParam p p c _).trans (if_pos rfl), fun q hq => (getParam_setParam p q c _).trans (if_neg hq), ?_, ?_, rfl⟩
    · by_cases h : c = v <;> simp [h]
    · simp [SetupField.group]
  · intro p x hp r y sound
    have hget (q : Nat) : getProduct y q = if q = p then flagged r else getProduct x q := by
      rw [show y = _ from flagProduct_eq p x]; exact getProduct_onProduct hp flagged q
    have hfirst : y.firstRefused = if r.isDefined = true ∧ structuralError r = true ∧ x.firstRefused = .none
        then .products else x.firstRefused := by rw [show y = _ from flagProduct_eq p x]
    have hsound : sound ↔ structuralError r = false := (structuralError_false r).symm
    refine ⟨?_, fun q hq => (hget q).trans (if_neg hq), ?_⟩
    · rw [hget p, if_pos rfl, hsound]
      simp [flagged]
    · rw [hsound, hfirst, Bool.not_eq_false]
      split
      · rename_i h
        exact iff_of_true rfl (.inr ⟨h.2.2, h.1, h.2.1⟩)
      · rename_i h
        exact (or_iff_left fun ⟨hn, hd, he⟩ => h ⟨hd, he, hn⟩).symm

end Sys2Proof.Machine
end

section
/-! The paper supply: a magazine's demand and LOW, and the orders that wait for paper (R34, R36, R44). -/

open Sys2Proof Sys2Proof.Machine

namespace Sys2Proof.Machine

set_option Elab.async false

/-! ## The demand of a magazine (R36) -/

/-- A running maximum is bounded exactly where its start and every value it takes up are. -/
theorem foldl_max_le_iff {α : Type} (f : Nat → α → Nat) (g : α → Option Nat)
    (hf : ∀ m a, f m a = (g a).elim m (max m)) (l : List α) (m n : Nat) :
    l.foldl f m ≤ n ↔ m ≤ n ∧ ∀ a ∈ l, ∀ k, g a = some k → k ≤ n := by
  induction l generalizing m with
  | nil => simp
  | cons a r ih =>
    rw [List.foldl_cons, ih, hf]
    cases hg : g a <;> simp [hg, and_assoc]

theorem demands_iff (o : Order) : demands o = true ↔ o.state ≠ .cancelling ∧ o.detached = false := by simp [demands]

theorem orderDemand_le_iff (w : Nat) (o : Order) (n : Nat) : orderDemand w o ≤ n ↔
    (o.state ≠ .cancelling → o.detached = false → ∀ e ∈ o.entries, e.width = w → 0 < e.t → e.length ≤ n) := by
  unfold orderDemand
  split
  · rename_i hd
    rw [foldl_max_le_iff _ (fun e => if e.width = w ∧ 0 < e.t then some e.length else none)]
    · obtain ⟨hs, ht⟩ := (demands_iff o).1 hd
      simp only [Option.ite_none_right_eq_some, Option.some.injEq, hs, ht, ne_eq, not_false_eq_true, forall_const]
      constructor
      · rintro ⟨-, h⟩ e he hw hp
        exact h e he _ ⟨⟨hw, hp⟩, rfl⟩
      · rintro h
        refine ⟨Nat.zero_le n, ?_⟩
        rintro e he _ ⟨⟨hw, hp⟩, rfl⟩
        exact h e he hw hp
    · intro m e
      split <;> rfl
  · rename_i hd
    exact iff_of_true (Nat.zero_le n) fun hs ht => absurd ((demands_iff o).2 ⟨hs, ht⟩) hd

theorem demand_le_iff (s : State) (r : Magazine) (n : Nat) :
    demand s r ≤ n ↔ 400 ≤ n ∧ ∀ o, some o ∈ s.plan.table → orderDemand r.width o ≤ n - 400 := by
  unfold demand
  have hsplit (d : Nat) : d + Config.spliceLen ≤ n ↔ 400 ≤ n ∧ d ≤ n - 400 := by
    rw [show Config.spliceLen = 400 from rfl]; omega
  rw [hsplit, foldl_max_le_iff _ (fun c => c.map (orderDemand r.width))]
  · simp only [Option.map_eq_some_iff]
    refine and_congr_right fun _ => ⟨fun ⟨_, h⟩ o ho => h _ ho _ ⟨o, rfl, rfl⟩, fun h => ⟨Nat.zero_le _, ?_⟩⟩
    rintro _ ho _ ⟨o, rfl, rfl⟩
    exact h o ho
  · intro d c
    cases c <;> rfl

/-! ## LOW (R36) -/

/-- LOW of a magazine as its record and the orders call for it. -/
def lowOf (s : State) (r : Magazine) : Bool := r.loaded && decide (r.remaining < demand s r)

theorem evalLowOf_eq (m : Mag) (s : State) : evalLowOf m s =
    { setMag m { getMag s m with low := lowOf s (getMag s m) } s with
      link.causes.attention := s.link.causes.attention || (lowOf s (getMag s m) && !(getMag s m).low)
      link.dirty := s.link.dirty ++ if lowOf s (getMag s m) = (getMag s m).low then [] else [lowField m] } := by
  change (if (lowOf s (getMag s m) && !(getMag s m).low) = true then raiseAttention _ else _) = _
  split
  · rename_i h
    rw [h, Bool.or_true]
    cases m <;> rfl
  · rename_i h
    rw [Bool.eq_false_of_not_eq_true h, Bool.or_false]
    cases m <;> rfl

/-- Settles O28: the demand is a maximum over the orders and their entries (`demand_le_iff`), and each magazine's LOW is
one `evalLowOf`, which the other's does not touch. -/
theorem demandAndLow : Obligations.DemandAndLow := by
  refine ⟨fun s r n => ?_, fun s => ?_⟩
  · rw [demand_le_iff]
    refine and_congr_right fun hn => forall_congr' fun o => forall_congr' fun ho => ?_
    rw [orderDemand_le_iff]
    simp only [Nat.le_sub_iff_add_le hn]
  · rw [evalLow, evalLowOf_eq .a, evalLowOf_eq .b]
    rfl

/-! ## Orders that wait for paper (R44) -/

theorem enterState_eq (i : Nat) (o : Order) (st : OrderState) (s : State) : enterState i o st s =
    { s with
      plan.table := s.plan.table.set i (some { o with state := st })
      link.waiting := if o.detached = true then s.link.waiting else waitingWith [mirrorWrite o.slot st] s } := by
  unfold enterState writeMirror
  dsimp only
  split <;> rfl

theorem lacksPaper_iff (s : State) (o : Order) : lacksPaper s o = true ↔
    ∃ e ∈ o.entries, 0 < e.t ∧ ¬(s.paper.magA.loaded = true ∧ s.paper.magA.width = e.width)
      ∧ ¬(s.paper.magB.loaded = true ∧ s.paper.magB.width = e.width) := by
  rw [lacks_iff]
  simp [widthLoaded, imp_iff_not_or]

theorem evalWaitOf_none {s : State} {i : Nat} (h : getOrder s i = none) : evalWaitOf s i = s := by
  unfold evalWaitOf; rw [h]

theorem evalWaitOf_queued {s : State} {i : Nat} {o : Order} (h : getOrder s i = some o) (hs : o.state = .queued) :
    evalWaitOf s i = if lacksPaper s o then raiseAttention (enterState i o .waitPaper s) else s := by
  unfold evalWaitOf; rw [h]; dsimp only; rw [hs]

theorem evalWaitOf_waitPaper {s : State} {i : Nat} {o : Order} (h : getOrder s i = some o) (hs : o.state = .waitPaper) :
    evalWaitOf s i = if lacksPaper s o then s else enterState i o .queued s := by
  unfold evalWaitOf; rw [h]; dsimp only; rw [hs]

theorem evalWaitOf_other {s : State} {i : Nat} {o : Order} (h : getOrder s i = some o) (hq : o.state ≠ .queued)
    (hw : o.state ≠ .waitPaper) : evalWaitOf s i = s := by
  unfold evalWaitOf; rw [h]; dsimp only
  split
  · exact absurd ‹_› hq
  · exact absurd ‹_› hw
  · rfl

/-- A line event that a live part takes answers with the effect on the level it brings. -/
theorem answers_actPin {c : Instr} {s e : State} {level f : State → State} (hl : live s = true)
    (hc : exec c s = .next (actPin level f s)) (he : f (level (clearOut s)) = e) : Answers c none s e := by
  rw [Answers, hc, actPin_live hl, he]

/-- A present sensor going inactive takes the record with its level, where the part is not held in reset (R34). -/
theorem clearRecord_senseEmpty {s : State} (m : Mag) (hl : live s = true) : clearRecord m (senseEmpty m (clearOut s)) =
    evalWait (evalLow (setMag m { clearedRecord (getMag s m) with present := false } (clearOut s))) := by
  have hh : (clearOut s).eng.hold = .released := by
    simp only [live, Bool.and_eq_true, beq_iff_eq] at hl
    exact hl.2
  unfold senseEmpty
  rw [if_pos hh]
  cases m <;> rfl

/-- Settles O29: the record is cleared with the level (`clearRecord_senseEmpty`), and each order is decided again by the
state it is in. -/
theorem presentSensorClearsRecord : Obligations.PresentSensorClearsRecord := by
  intro s hl cleared
  refine ⟨answers_actPin hl rfl (clearRecord_senseEmpty .a hl), answers_actPin hl rfl (clearRecord_senseEmpty .b hl),
    answers_actPin hl rfl rfl, answers_actPin hl rfl rfl, rfl, fun i => ⟨evalWaitOf_none, fun o ho => ?_⟩⟩
  intro lacks moved
  have hlacks : lacksPaper s o = true ↔ lacks := lacksPaper_iff s o
  have hmoved (st : OrderState) : enterState i o st s = moved st := enterState_eq i o st s
  refine ⟨fun hs hn => ?_, fun hs hn => ?_, fun hq hw => ?_⟩
  · rw [evalWaitOf_queued ho hs, if_pos (hlacks.2 hn), hmoved]
    rfl
  · rw [evalWaitOf_waitPaper ho hs, if_neg (hn ∘ hlacks.1), hmoved]
  · by_cases hsq : o.state = .queued
    · rw [evalWaitOf_queued ho hsq, if_neg (hq hsq ∘ hlacks.1)]
    · by_cases hsw : o.state = .waitPaper
      · rw [evalWaitOf_waitPaper ho hsw, if_pos (hlacks.2 (hw hsw))]
      · exact evalWaitOf_other ho hsq hsw

end Sys2Proof.Machine
end

section
/-! The changeover and its splice: when a request is taken, how it ends, and what the splice lays into the web map (R37 to
R39, R122). -/

open Sys2Proof Sys2Proof.Machine

namespace Sys2Proof.Machine

set_option Elab.async false

/-! ## The changeover (R37 to R39) -/

theorem requestChange_taken {s : State} (h : changeAccepted s = true) : requestChange s =
    { s with paper.target := some (otherOf s.paper.active), paper.timer := some (s.setup.params.changeTimeout * 1000) } :=
  if_pos h

theorem requestChange_left {s : State} (h : changeAccepted s = false) : requestChange s = s := if_neg (by simp [h])

theorem changeAccepted_iff (s : State) : changeAccepted s = true ↔
    s.paper.target = none ∧ moving s = true ∧ (otherMag s).loaded = true := by
  simp [changeAccepted, and_assoc]

/-! ## The web map (R115, R122) -/

theorem mapLastLength_append (f : Nat → Nat) (before : List MapEntry) (e : MapEntry) :
    mapLastLength f (before ++ [e]) = before ++ [{ e with length := f e.length }] := by
  induction before with
  | nil => rfl
  | cons x r ih =>
    cases r with
    | nil => rfl
    | cons y r => simpa [mapLastLength] using ih

theorem isGap_iff (e : MapEntry) : isGap e = true ↔ e.piece = .gap := by simp [isGap]

section
variable {s : State} {before : List MapEntry} {e : MapEntry} (hm : s.web.map = before ++ [e])
include hm

theorem mapEnd_append : mapEnd s = e.endPos := by simp [mapEnd, hm]

theorem endsInGap_append : endsInGap s = isGap e := by simp [endsInGap, hm]

/-- More gap behind a trailing GAP lengthens it (R115). -/
theorem layGap_grows (hg : e.piece = .gap) (n : Nat) :
    layGap n s = { s with web.map := before ++ [{ e with length := e.length + n }] } := by
  rw [layGap, if_pos ((endsInGap_append hm).trans ((isGap_iff e).2 hg)), growLast, hm, mapLastLength_append]

/-- Gap behind an entry that is no GAP is an entry of its own, while the map has room (R115, R116). -/
theorem layGap_appends (hg : e.piece ≠ .gap) (hlen : s.web.map.length < 256) (n : Nat) :
    layGap n s = appendEntry .gap e.endPos n s := by
  rw [layGap, if_neg (by rw [endsInGap_append hm, isGap_iff]; exact hg), if_pos (show _ < Config.mapEntries from hlen),
    mapEnd_append hm]

/-- An entry that is no GAP, or ends no further than z, stays (R122). -/
theorem trimGap_keeps {z : Word} (h : e.piece ≠ .gap ∨ signedDiff e.endPos z ≤ 0) : trimGap z s = s := by
  unfold trimGap
  rw [show s.web.map.getLast? = some e by simp [hm]]
  dsimp only
  refine if_neg fun hc => ?_
  obtain ⟨hg, hz⟩ := Bool.and_eq_true_iff.1 hc
  rcases h with h | h
  · exact h ((isGap_iff e).1 hg)
  · exact absurd (of_decide_eq_true hz) (by omega)

/-- A trailing GAP that begins ahead of z and ends past it is shortened (R122). -/
theorem trimGap_shortens {z : Word} (hg : e.piece = .gap) (he : 0 < signedDiff e.endPos z) (hs : 0 < signedDiff z e.start) :
    trimGap z s = { s with web.map := before ++ [{ e with length := (signedDiff z e.start).toNat }] } := by
  unfold trimGap
  rw [show s.web.map.getLast? = some e by simp [hm]]
  dsimp only
  rw [if_pos (by simp [(isGap_iff e).2 hg, he]), if_pos hs, hm, mapLastLength_append]

/-- A trailing GAP that lies past z altogether is removed (R122). -/
theorem trimGap_removes {z : Word} (hg : e.piece = .gap) (he : 0 < signedDiff e.endPos z) (hs : signedDiff z e.start ≤ 0) :
    trimGap z s = { s with web.map := before } := by
  unfold trimGap
  rw [show s.web.map.getLast? = some e by simp [hm]]
  dsimp only
  rw [if_pos (by simp [(isGap_iff e).2 hg, he]), if_neg (by omega), hm, List.dropLast_concat]

end

/-! ## The splice (R122) -/

/-- Step 1 of a splice at z: a map that ends behind z has gap laid up to z (R122). -/
def fillTo (z : Word) (s : State) : State :=
  if s.web.map ≠ [] ∧ signedDiff (mapEnd s) z < 0 then layGap (signedDiff z (mapEnd s)).toNat s else s

theorem laySplice_eq (s : State) : laySplice s =
    { appendSplice (splicePos s) (trimGap (splicePos s) (fillTo (splicePos s) s)) with
      web.hold := some (splicePos s + 400) } := rfl

/-- Step 3 with room for the splice's own entry: a SPLICE, or the 256th entry as a GAP (R122). -/
theorem appendSplice_room {z : Word} {s : State} (h : s.web.map.length ≤ 255) : appendSplice z s =
    appendEntry (if s.web.map.length ≤ 254 then .splice else .gap) z 400 s := by
  unfold appendSplice
  split
  · rfl
  · rw [if_pos (by omega)]; rfl

/-- Step 3 with the map full: the trailing GAP grows by the splice's length (R122). -/
theorem appendSplice_full {z : Word} {s : State} {before : List MapEntry} {g : MapEntry} (hm : s.web.map = before ++ [g])
    (hg : g.piece = .gap) (h : s.web.map.length = 256) : appendSplice z s =
    { s with web.map := before ++ [{ g with length := g.length + 400 }] } := by
  unfold appendSplice
  rw [if_neg (by omega), if_neg (by omega)]
  exact layGap_grows hm hg 400

theorem splicePos_all_gaps {s : State} (h : ∀ e ∈ s.web.map, e.piece = .gap) : splicePos s = s.line.w := by
  unfold splicePos
  rw [List.find?_eq_none.2 fun e he => by simp [isGap, h e (List.mem_reverse.1 he)]]

theorem splicePos_last {s : State} {before after : List MapEntry} {e : MapEntry} (hm : s.web.map = before ++ e :: after)
    (he : e.piece ≠ .gap) (ha : ∀ x ∈ after, x.piece = .gap) :
    splicePos s = if 0 < signedDiff e.endPos s.line.w then e.endPos else s.line.w := by
  have hfind : s.web.map.reverse.find? (fun e => !isGap e) = some e := by
    have hnone : after.reverse.find? (fun e => !isGap e) = none :=
      List.find?_eq_none.2 fun x hx => by simp [isGap, ha x (List.mem_reverse.1 hx)]
    have hlast : (!isGap e) = true := by simp [isGap, he]
    rw [hm, List.reverse_append, List.reverse_cons, List.append_assoc, List.find?_append, hnone, Option.none_or,
      List.singleton_append, List.find?_cons_of_pos (by exact hlast)]
  unfold splicePos
  rw [hfind]

/-- A position moved on by its distance from z ends no further than z. -/
theorem signedDiff_add_distance {a z : Word} (h : signedDiff a z < 0) :
    signedDiff (a + BitVec.ofNat 32 (signedDiff z a).toNat) z ≤ 0 := by
  rcases Int.lt_or_le (signedDiff z a) 0 with hz | hz
  · rw [Int.toNat_of_nonpos hz.le, show a + BitVec.ofNat 32 0 = a from BitVec.add_zero a]
    exact h.le
  · have hd : BitVec.ofNat 32 (signedDiff z a).toNat = z - a := by
      unfold signedDiff at *
      rw [← BitVec.ofInt_natCast, Int.toNat_of_nonneg hz, BitVec.ofInt_toInt]
    rw [hd]
    simp [signedDiff]

theorem endPos_grown (e : MapEntry) (n : Nat) :
    ({ e with length := e.length + n } : MapEntry).endPos = e.endPos + BitVec.ofNat 32 n := by
  simp only [MapEntry.endPos, BitVec.ofNat_add, BitVec.add_assoc]

/-- The map made ready for a splice at z, and the number the next entry gets (R122, steps 1 and 2). -/
def ReadyFor (z : Word) (s : State) (m : List MapEntry) (next : Word) : Prop :=
  trimGap z (fillTo z s) = { s with web.map := m, web.nextNumber := next }

theorem readyFor_empty {s : State} (z : Word) (h : s.web.map = []) : ReadyFor z s [] s.web.nextNumber := by
  unfold ReadyFor fillTo trimGap
  rw [if_neg fun ⟨hn, _⟩ => hn h, h]
  dsimp only [List.getLast?_nil]
  rw [← h]

section
variable {z : Word} {s : State} {before : List MapEntry} {e : MapEntry} (hm : s.web.map = before ++ [e])
include hm

theorem fillTo_reached (h : 0 ≤ signedDiff e.endPos z) : fillTo z s = s :=
  if_neg fun ⟨_, hn⟩ => by rw [mapEnd_append hm] at hn; omega

theorem fillTo_behind (h : signedDiff e.endPos z < 0) : fillTo z s = layGap (signedDiff z e.endPos).toNat s := by
  rw [← mapEnd_append hm] at h ⊢
  exact if_pos ⟨by simp [hm], h⟩

theorem readyFor_kept (h : 0 ≤ signedDiff e.endPos z) (hg : e.piece ≠ .gap ∨ signedDiff e.endPos z ≤ 0) :
    ReadyFor z s s.web.map s.web.nextNumber := by
  rw [ReadyFor, fillTo_reached hm h, trimGap_keeps hm hg]

theorem readyFor_appended (hg : e.piece ≠ .gap) (hlen : s.web.map.length < 256) (h : signedDiff e.endPos z < 0) :
    ReadyFor z s (s.web.map ++ [⟨s.web.nextNumber, .gap, e.endPos, (signedDiff z e.endPos).toNat, Flags.none⟩])
      (s.web.nextNumber + 1) := by
  have hend : signedDiff (MapEntry.endPos ⟨s.web.nextNumber, .gap, e.endPos, (signedDiff z e.endPos).toNat, Flags.none⟩) z
      ≤ 0 := signedDiff_add_distance h
  rw [ReadyFor, fillTo_behind hm h, layGap_appends hm hg hlen,
    trimGap_keeps (appendEntry_map _ _ _ _) (.inr hend)]
  rfl

theorem readyFor_grown (hg : e.piece = .gap) (h : signedDiff e.endPos z < 0) :
    ReadyFor z s (before ++ [{ e with length := e.length + (signedDiff z e.endPos).toNat }]) s.web.nextNumber := by
  rw [ReadyFor, fillTo_behind hm h, layGap_grows hm hg,
    trimGap_keeps rfl (.inr (by rw [endPos_grown]; exact signedDiff_add_distance h))]

theorem readyFor_shortened (hg : e.piece = .gap) (he : 0 < signedDiff e.endPos z) (hs : 0 < signedDiff z e.start) :
    ReadyFor z s (before ++ [{ e with length := (signedDiff z e.start).toNat }]) s.web.nextNumber := by
  rw [ReadyFor, fillTo_reached hm he.le, trimGap_shortens hm hg he hs]

theorem readyFor_removed (hg : e.piece = .gap) (he : 0 < signedDiff e.endPos z) (hs : signedDiff z e.start ≤ 0) :
    ReadyFor z s before s.web.nextNumber := by
  rw [ReadyFor, fillTo_reached hm he.le, trimGap_removes hm hg he hs]

end

/-- Behind at most 255 entries the splice is an entry of its own. -/
theorem laySplice_room {s : State} {m : List MapEntry} {next : Word} (hr : ReadyFor (splicePos s) s m next)
    (h : m.length ≤ 255) : laySplice s =
    { s with
      web.map := m ++ [{ number := next, piece := if m.length ≤ 254 then .splice else .gap, start := splicePos s,
                         length := 400, flags := Flags.none }]
      web.nextNumber := next + 1, web.hold := some (splicePos s + 400) } := by
  rw [laySplice_eq, hr, appendSplice_room h]
  rfl

/-- Behind 256 entries the splice's length joins the trailing GAP. -/
theorem laySplice_full {s : State} {before : List MapEntry} {g : MapEntry} {next : Word}
    (hr : ReadyFor (splicePos s) s (before ++ [g]) next) (hg : g.piece = .gap) (h : (before ++ [g]).length = 256) :
    laySplice s =
    { s with web.map := before ++ [{ g with length := g.length + 400 }], web.nextNumber := next
             web.hold := some (splicePos s + 400) } := by
  rw [laySplice_eq, hr, appendSplice_full rfl hg h]

/-! ## The obligation -/

/-- Settles O30: the request is `changeAccepted`, the two ends are the branches of their commands, and a splice is laid
behind the map made ready for it, by what that ends in (`ReadyFor`). -/
theorem changeoverRequestedDoneOrExpired : Obligations.ChangeoverRequestedDoneOrExpired := by
  refine ⟨fun s => ?_, fun s hl => ⟨fun hn c hc => ?_, fun m hm => ?_⟩, fun s => ?_⟩
  · intro other loaded
    have hother : otherOf s.paper.active = other := by unfold other; cases s.paper.active <;> rfl
    have hloaded : (otherMag s).loaded = loaded := by
      unfold loaded otherMag; cases s.paper.active <;> rfl
    have hacc : changeAccepted s = true ↔ s.paper.target = none ∧ moving s = true ∧ loaded = true := by
      rw [changeAccepted_iff, hloaded]
    refine ⟨fun ht hmv hld => ?_, fun h => requestChange_left (Bool.eq_false_iff.2 fun hc => ?_)⟩
    · rw [requestChange_taken (hacc.2 ⟨ht, hmv, hld⟩), hother]
    · obtain ⟨ht, hmv, hld⟩ := hacc.1 hc
      simp [ht, hmv, hld] at h
  · have hn' : (clearOut s).paper.target = none := hn
    simp only [List.mem_cons, List.not_mem_nil, or_false] at hc
    rcases hc with rfl | rfl
    · exact answers_act hl rfl (by rw [hn'])
    · exact answers_act hl rfl (if_neg (by simp [hn]))
  · intro ended
    have hm' : (clearOut s).paper.target = some m := hm
    refine ⟨answers_act hl rfl ?_, answers_act hl rfl (if_pos (by simp [hm]))⟩
    dsimp only
    rw [hm']
    rfl
  · intro z ended unflagged gap spliced grown
    refine ⟨splicePos_all_gaps, fun before e after hm he ha => splicePos_last hm he ha,
      fun hm => laySplice_room (readyFor_empty z hm) (Nat.zero_le _), fun before e hm he hlen => ⟨fun hz => ?_, fun hz => ?_⟩,
      fun before g hm hg hlen => ?_⟩
    · exact laySplice_room (readyFor_kept hm hz (.inl he)) hlen
    · intro n
      have hr : ReadyFor z s (s.web.map ++ [gap (ended e) n]) (s.web.nextNumber + 1) :=
        readyFor_appended hm he (by omega) hz
      exact ⟨fun h => laySplice_room hr (by simp; omega), fun h => laySplice_full hr rfl (by simp; omega)⟩
    · intro lies
      have hbefore : s.web.map.length = before.length + 1 := by simp [hm]
      have hlies (n : Nat) (hr : ReadyFor z s (before ++ [{ g with length := n }]) s.web.nextNumber) : lies n :=
        ⟨fun h => laySplice_room hr (by simp; omega), fun h => laySplice_full hr hg (by simp; omega)⟩
      refine ⟨fun hz => hlies _ (readyFor_grown hm hg hz), fun hz => hlies _ ?_,
        fun hz hs => hlies _ (readyFor_shortened hm hg hz hs), fun hz hs => ?_⟩
      · exact hm ▸ readyFor_kept hm hz.ge (.inr hz.le)
      · exact laySplice_room (readyFor_removed hm hg hz hs) (by omega)

end Sys2Proof.Machine
end


section
/-! What a step can do to one order, and that it leaves the order sound (R45 to R52, R54, R55, L2, L3). -/

open Sys2Proof Sys2Proof.Machine

namespace Sys2Proof.Machine

set_option Elab.async false

/-! ## Sums over the print entries -/

/-- One entry replaced: the sum loses what the old one counts and gains what the new one does. -/
theorem sumBy_set (f : Entry → Nat) {es : List Entry} {k : Nat} {e : Entry} (h : es[k]? = some e) (e' : Entry) :
    sumBy f (es.set k e') + f e = sumBy f es + f e' := by
  induction es generalizing k with
  | nil => cases h
  | cons x r ih =>
    cases k with
    | zero =>
      obtain rfl := Option.some.inj h
      simp [sumBy]; omega
    | succ k =>
      have hr := ih (k := k) h
      simp only [sumBy, List.set_cons_succ, List.map_cons, List.sum_cons] at hr ⊢
      omega

theorem le_sumBy (f : Entry → Nat) {es : List Entry} {e : Entry} (h : e ∈ es) : f e ≤ sumBy f es :=
  List.single_le_sum (fun _ _ => Nat.zero_le _) _ (List.mem_map_of_mem h)

theorem sumBy_eq_zero (f : Entry → Nat) (es : List Entry) : sumBy f es = 0 ↔ ∀ e ∈ es, f e = 0 := by
  simp [sumBy, List.sum_eq_zero_iff]

/-! ## The changes of one order -/

/-- The order in the state that its counts call for, freed where it so completes detached (R45, R47, R49). -/
def Order.byCounts (o : Order) : Option Order :=
  if stateOfCounts o = .complete ∧ o.state ≠ .complete ∧ o.detached = true then none
  else some { o with state := stateOfCounts o }

/-- p is o but for fields that say nothing of its counts and state. -/
structure Order.Noted (o p : Order) : Prop where
  slot : p.slot = o.slot
  state : p.state = o.state
  heldFrom : p.heldFrom = o.heldFrom
  entries : p.entries = o.entries
  remakes : p.remakes = o.remakes
  cancelled : p.cancelled = o.cancelled
  detached : p.detached = o.detached

/-- A copy of entry ei, which is e, may be committed: of the remakes that pend of it, or one that none of them is (R59, R60). -/
def Order.Offers (o : Order) (ei : Nat) (remake : Bool) (e : Entry) : Prop :=
  o.state = .active ∧ o.entries[ei]? = some e ∧ if remake then ei ∈ o.remakes else o.remakes.count ei < e.t

/-- What one operation of a step makes of order o, none where its context is freed; limit is the remake limit (chapter 3). -/
inductive OrderStep (limit : Nat) (o : Order) : Option Order → Prop where
  | freed : OrderStep limit o none
  | noted {p : Order} (h : o.Noted p) : OrderStep limit o (some p)
  | evaluated : OrderStep limit o o.byCounts
  | settled (how : Settle) {ei : Nat} {n : Word} (h : settles o ei n = true) :
      OrderStep limit o (settledOrder how limit ei n o).byCounts
  | faulted {ei : Nat} {n : Word} (h : settles o ei n = true) :
      OrderStep limit o (cancelledOrder { settledOrder .fault limit ei n o with faultMark := true }).byCounts
  | marked {ei : Nat} {n : Word} (h : settles o ei n = true) :
      OrderStep limit o (Order.byCounts { settledOrder .fault limit ei n o with faultMark := true })
  | cancelled : OrderStep limit o (cancelledOrder o).byCounts
  | detached : OrderStep limit o (detachedTo o)
  | held (h : o.state = .queued ∨ o.state = .waitPaper ∨ o.state = .active) :
      OrderStep limit o (some { o with heldFrom := some o.state, state := .held })
  | released (h : o.state = .held) :
      OrderStep limit o (some { o with heldFrom := none, state := o.heldFrom.getD .queued })
  | waited (h : o.state = .queued) : OrderStep limit o (some { o with state := .waitPaper })
  | supplied (h : o.state = .waitPaper) : OrderStep limit o (some { o with state := .queued })
  | started (h : o.state = .queued) (bins : List Nat) : OrderStep limit o (some { o with bins := bins, state := .active })
  | committed {ei : Nat} {remake : Bool} {e : Entry} (h : o.Offers ei remake e) (n : Word) :
      OrderStep limit o (committedOrder ei remake n o).byCounts

/-! ## The order whose frame is settled -/

theorem settles_iff {o : Order} {ei : Nat} {n : Word} :
    settles o ei n = true ↔ n ∈ o.unsettled ∧ ∃ e, o.entries[ei]? = some e ∧ 0 < e.f := by
  unfold settles
  cases o.entries[ei]? <;> simp

theorem settledOrder_eq (how : Settle) (limit : Nat) {ei : Nat} (n : Word) {o : Order} {e : Entry}
    (h : o.entries[ei]? = some e) :
    settledOrder how limit ei n o =
      { o with
        entries := o.entries.set ei (settleEntry how limit o.cancelled e).1
        unsettled := o.unsettled.filter (fun m => m != n)
        remakes := if (settleEntry how limit o.cancelled e).2 then o.remakes ++ [ei] else o.remakes } := by
  unfold settledOrder
  rw [h]
  rfl

/-- A settled copy moves from f to one of g, t and a (R52 to R55). -/
theorem settleEntry_counts (how : Settle) (limit : Nat) (cancelled : Bool) {e : Entry} (h : 0 < e.f) :
    let e' := (settleEntry how limit cancelled e).1
    e'.copies = e.copies ∧ e'.f = e.f - 1 ∧ e'.g + e'.f + e'.t + e'.a = e.g + e.f + e.t + e.a := by
  cases how with
  | bad mis => simp only [settleEntry]; split <;> (simp; omega)
  | good unv => simp [settleEntry]; omega
  | fault => simp [settleEntry]; omega
  | jam => simp only [settleEntry]; split <;> (simp; omega)

/-- The copies still to expose grow by the remake, where there is one (R52, R55). -/
theorem settleEntry_t (how : Settle) (limit : Nat) (cancelled : Bool) (e : Entry) :
    (settleEntry how limit cancelled e).1.t = e.t + (if (settleEntry how limit cancelled e).2 then 1 else 0) := by
  cases how with
  | bad mis => simp only [settleEntry]; split <;> simp
  | good unv => simp [settleEntry]
  | fault => simp [settleEntry]
  | jam => simp only [settleEntry]; split <;> simp

/-- A remake out of the budget keeps to it (R52). -/
theorem settleEntry_used (how : Settle) {limit : Nat} (hl : limit ≤ 3) (cancelled : Bool) {e : Entry}
    (h : e.used ≤ 3 * e.copies) : (settleEntry how limit cancelled e).1.used ≤ 3 * e.copies := by
  cases how with
  | bad mis =>
    simp only [settleEntry]; split
    · rename_i hb
      have hu : e.used < limit * e.copies := by simp [budgetLeft] at hb; exact hb.2
      have hm : limit * e.copies ≤ 3 * e.copies := Nat.mul_le_mul_right _ hl
      dsimp only; omega
    · exact h
  | good unv => exact h
  | fault => exact h
  | jam => simp only [settleEntry]; split <;> exact h

/-- No frame of a cancelled order is remade (R52, R55). -/
theorem settleEntry_cancelled (how : Settle) (limit : Nat) (e : Entry) : (settleEntry how limit true e).2 = false := by
  cases how <;> simp [settleEntry, budgetLeft]

/-! ## Counts -/

/-- One entry of an order replaced by one of as many copies, and the remake list by one it agrees with. -/
theorem Order.Counted.replace {o p : Order} (h : o.Counted) {k : Nat} {e e' : Entry} (he : o.entries[k]? = some e)
    (entries : p.entries = o.entries.set k e') (conserved : e'.copies = e'.g + e'.f + e'.t + e'.a)
    (budget : e'.used ≤ 3 * e'.copies) (count : p.remakes.count k ≤ e'.t)
    (others : ∀ j, j ≠ k → p.remakes.count j ≤ o.remakes.count j) (remakes : ∀ j ∈ p.remakes, j = k ∨ j ∈ o.remakes) :
    p.Counted := by
  have hk : k < o.entries.length := (List.getElem?_eq_some_iff.1 he).1
  have hmem : ∀ x ∈ p.entries, x ∈ o.entries ∨ x = e' := fun x hx => List.mem_or_eq_of_mem_set (entries ▸ hx)
  refine ⟨fun x hx => ?_, fun x hx => ?_, fun j x hx => ?_, fun j hj => ?_⟩
  · rcases hmem x hx with hx | rfl
    · exact h.conserved x hx
    · exact conserved
  · rcases hmem x hx with hx | rfl
    · exact h.budget x hx
    · exact budget
  · rw [entries, List.getElem?_set] at hx
    split at hx
    · rename_i hkj
      subst hkj
      exact Option.some.inj hx ▸ count
    · rename_i hkj
      exact (others j (Ne.symm hkj)).trans (h.pending j x hx)
  · rw [entries, List.length_set]
    rcases remakes j hj with rfl | hj
    · exact hk
    · exact h.remakes j hj

theorem settledOrder_counted {o : Order} (h : o.Counted) (how : Settle) {limit : Nat} (hl : limit ≤ 3) {ei : Nat} (n : Word)
    {e : Entry} (he : o.entries[ei]? = some e) (hf : 0 < e.f) : (settledOrder how limit ei n o).Counted := by
  have hmem := List.mem_of_getElem? he
  obtain ⟨hcopies, -, hsum⟩ := settleEntry_counts how limit o.cancelled hf
  have ht := settleEntry_t how limit o.cancelled e
  have hcons := h.conserved e hmem
  have hcount := h.pending ei e he
  have hremakes : (settledOrder how limit ei n o).remakes =
      if (settleEntry how limit o.cancelled e).2 then o.remakes ++ [ei] else o.remakes := by rw [settledOrder_eq how limit n he]
  refine h.replace he (e' := (settleEntry how limit o.cancelled e).1) (by rw [settledOrder_eq how limit n he]) (by omega)
    (hcopies ▸ settleEntry_used how hl _ (h.budget e hmem)) ?_ (fun j hj => ?_) (fun j hj => ?_)
  · rw [hremakes, ht]
    split
    · simpa using hcount
    · simpa using hcount
  · rw [hremakes]
    split
    · simp [List.count_append, Ne.symm hj]
    · exact le_rfl
  · rw [hremakes] at hj
    split at hj
    · simpa [or_comm] using hj
    · exact .inr hj

theorem cancelledOrder_counted {o : Order} (h : o.Counted) : (cancelledOrder o).Counted := by
  refine ⟨fun x hx => ?_, fun x hx => ?_, fun j x _ => Nat.zero_le _, fun j hj => by cases hj⟩
  all_goals obtain ⟨e, he, rfl⟩ := List.mem_map.1 hx
  · have := h.conserved e he
    dsimp only; omega
  · exact h.budget e he

theorem committedOrder_eq {ei : Nat} (remake : Bool) (n : Word) {o : Order} {e : Entry} (h : o.entries[ei]? = some e) :
    committedOrder ei remake n o =
      { o with
        entries := o.entries.set ei { e with t := e.t - 1, f := e.f + 1 }
        remakes := if remake then o.remakes.erase ei else o.remakes
        unsettled := o.unsettled ++ [n] } := by
  unfold committedOrder
  rw [List.modify_eq_set_getElem?, h]
  rfl

theorem committedOrder_counted {o : Order} (h : o.Counted) {ei : Nat} {remake : Bool} {e : Entry} (ho : o.Offers ei remake e)
    (n : Word) : (committedOrder ei remake n o).Counted := by
  obtain ⟨-, he, hoffer⟩ := ho
  have hcons := h.conserved e (List.mem_of_getElem? he)
  have hcount := h.pending ei e he
  have hremakes : (committedOrder ei remake n o).remakes = if remake then o.remakes.erase ei else o.remakes := rfl
  have hpos : 0 < e.t := by
    cases remake with
    | true => have := List.count_pos_iff.2 hoffer; omega
    | false => simp at hoffer; omega
  refine h.replace he (e' := { e with t := e.t - 1, f := e.f + 1 }) (by rw [committedOrder_eq remake n he])
    (by dsimp only; omega) (h.budget e (List.mem_of_getElem? he)) ?_ (fun j hj => ?_) (fun j hj => .inr ?_)
  all_goals rw [hremakes] at *
  · cases remake with
    | true => simp only [if_true, List.count_erase_self]; omega
    | false => simp at hoffer ⊢; omega
  · cases remake with
    | true => exact (List.count_erase_of_ne hj).le
    | false => exact le_rfl
  · cases remake with
    | true => exact List.mem_of_mem_erase hj
    | false => exact hj

/-! ## Soundness -/

/-- What the counts of an order are before its state is set by them (R45, R47). -/
def Order.balanced (o : Order) : Bool :=
  match o.state with
  | .queued | .waitPaper | .held => decide (0 < stillToExpose o)
  | .active | .draining => true
  | .cancelling => decide (stillToExpose o = 0)
  | .complete => decide (stillToExpose o = 0) && decide (inFlight o = 0)

/-- A sound order but for its state, which its counts have still to set. -/
structure Order.Unevaluated (o : Order) : Prop where
  counted : o.Counted
  balanced : o.balanced = true
  heldSound : o.heldSound = true
  cancelSound : o.cancelSound = true

theorem Order.Sound.unevaluated {o : Order} (h : o.Sound) : o.Unevaluated := by
  refine ⟨h.counted, ?_, h.heldSound, h.cancelSound⟩
  have := h.agrees
  unfold Order.agrees at this
  unfold Order.balanced
  cases hs : o.state <;> simp_all

/-- An order whose state its counts have set is sound (R45, R47, R49). -/
theorem Order.Unevaluated.byCounts {o p : Order} (h : o.Unevaluated) (hp : o.byCounts = some p) : p.Sound := by
  have hb := h.balanced
  have hh := h.heldSound
  have hc := h.cancelSound
  unfold Order.byCounts at hp
  split at hp
  · cases hp
  · rename_i hfree
    obtain rfl := Option.some.inj hp
    have hcounts : ∀ st, stillToExpose { o with state := st } = stillToExpose o ∧ inFlight { o with state := st } = inFlight o :=
      fun _ => ⟨rfl, rfl⟩
    have hcounted : ∀ st, Order.Counted { o with state := st } := fun _ =>
      ⟨h.counted.conserved, h.counted.budget, h.counted.pending, h.counted.remakes⟩
    unfold Order.balanced at hb
    unfold Order.heldSound at hh
    unfold Order.cancelSound at hc
    unfold stateOfCounts at hfree ⊢
    refine ⟨hcounted _, ?_, ?_, ?_⟩
    · unfold Order.agrees
      cases hs : o.state <;> simp only [hs] at hb ⊢ <;> grind
    · unfold Order.heldSound
      cases hs : o.state <;> simp only [hs] at hh ⊢ <;> grind
    · unfold Order.cancelSound
      cases hs : o.state <;> simp only [hs] at hc hfree ⊢ <;> grind

/-- Fields of an order that its laws do not read may change. -/
theorem Order.Sound.noted {o p : Order} (h : o.Sound) (hp : o.Noted p) : p.Sound := by
  obtain ⟨-, state, heldFrom, entries, remakes, cancelled, detached⟩ := hp
  obtain ⟨⟨conserved, budget, pending, bounded⟩, agrees, heldSound, cancelSound⟩ := h
  refine ⟨⟨?_, ?_, ?_, ?_⟩, ?_, ?_, ?_⟩
  · rw [entries]; exact conserved
  · rw [entries]; exact budget
  · rw [entries, remakes]; exact pending
  · rw [entries, remakes]; exact bounded
  · unfold Order.agrees at agrees ⊢
    rw [stillToExpose, inFlight, state, entries]; exact agrees
  · unfold Order.heldSound at heldSound ⊢
    rw [state, heldFrom]; exact heldSound
  · unfold Order.cancelSound at cancelSound ⊢
    rw [state, cancelled, detached]; exact cancelSound

/-- An order is in one of the states before its last copy is committed. -/
def Order.Open (o : Order) : Prop := o.state = .queued ∨ o.state = .waitPaper ∨ o.state = .active ∨ o.state = .held

theorem Order.Open.agrees_iff {o : Order} (h : o.Open) : o.agrees = true ↔ 0 < stillToExpose o := by
  unfold Order.agrees
  rcases h with h | h | h | h <;> simp [h]

theorem Order.Open.cancelSound_iff {o : Order} (h : o.Open) : o.cancelSound = true ↔ o.cancelled = false ∧ o.detached = false := by
  unfold Order.cancelSound
  rcases h with h | h | h | h <;> simp [h]

/-- An order goes from one state before its last copy to another. -/
theorem Order.Sound.moved {o p : Order} (h : o.Sound) (entries : p.entries = o.entries) (remakes : p.remakes = o.remakes)
    (cancelled : p.cancelled = o.cancelled) (detached : p.detached = o.detached) (before : o.Open) (after : p.Open)
    (held : p.heldSound = true) : p.Sound := by
  obtain ⟨⟨conserved, budget, pending, bounded⟩, agrees, -, cancelSound⟩ := h
  refine ⟨⟨?_, ?_, ?_, ?_⟩, ?_, held, ?_⟩
  · rw [entries]; exact conserved
  · rw [entries]; exact budget
  · rw [entries, remakes]; exact pending
  · rw [entries, remakes]; exact bounded
  · rw [after.agrees_iff, stillToExpose, entries]
    exact before.agrees_iff.1 agrees
  · rw [after.cancelSound_iff, cancelled, detached]
    exact before.cancelSound_iff.1 cancelSound

theorem settledOrder_unevaluated {o : Order} (h : o.Sound) (how : Settle) {limit : Nat} (hl : limit ≤ 3) {ei : Nat} {n : Word}
    (hs : settles o ei n = true) : (settledOrder how limit ei n o).Unevaluated := by
  obtain ⟨-, e, he, hf⟩ := settles_iff.1 hs
  have heq := settledOrder_eq how limit n he
  obtain ⟨-, hef, -⟩ := settleEntry_counts how limit o.cancelled hf
  have het := settleEntry_t how limit o.cancelled e
  have ht := sumBy_set Entry.t he (settleEntry how limit o.cancelled e).1
  have hfl := sumBy_set Entry.f he (settleEntry how limit o.cancelled e).1
  refine ⟨settledOrder_counted h.counted how hl n he hf, ?_, ?_, ?_⟩
  · have ha := h.agrees
    have hc := h.cancelSound
    have hstate : (settledOrder how limit ei n o).state = o.state := by rw [heq]
    have hstill : stillToExpose (settledOrder how limit ei n o) + e.t =
        stillToExpose o + (settleEntry how limit o.cancelled e).1.t := by rw [heq]; exact ht
    unfold Order.balanced
    unfold Order.agrees at ha
    unfold inFlight at ha
    rw [hstate]
    cases hst : o.state <;> simp only [hst] at ha ⊢
    case cancelling =>
      have hk : o.cancelled = true := by by_contra hk; simp [Order.cancelSound, hst, hk] at hc
      rw [hk, settleEntry_cancelled] at het
      simp at ha ⊢
      rw [hk] at hstill
      simp at het
      omega
    case complete => simp at ha; omega
    case queued | waitPaper | held => simp at ha ⊢; omega
  · rw [heq]; exact h.heldSound
  · rw [heq]; exact h.cancelSound

theorem cancelledOrder_unevaluated {o : Order} (h : o.Counted) : (cancelledOrder o).Unevaluated := by
  refine ⟨cancelledOrder_counted h, ?_, rfl, ?_⟩
  · have h0 : stillToExpose (cancelledOrder o) = 0 :=
      (sumBy_eq_zero _ _).2 fun x hx => by obtain ⟨e, -, rfl⟩ := List.mem_map.1 hx; rfl
    exact decide_eq_true h0
  · simp [Order.cancelSound, cancelledOrder]

theorem detachedTo_sound {o p : Order} (h : o.Sound) (hp : detachedTo o = some p) : p.Sound := by
  unfold detachedTo at hp
  split at hp
  · cases hp
  · split at hp
    · rename_i hs
      obtain rfl := Option.some.inj hp
      have hc := h.cancelSound
      refine ⟨⟨h.counted.conserved, h.counted.budget, h.counted.pending, h.counted.remakes⟩, h.agrees, h.heldSound, ?_⟩
      simp only [Order.cancelSound, hs] at hc ⊢
      simp at hc ⊢
      exact hc
    · split at hp
      · cases hp
      · rename_i hf
        obtain rfl := Option.some.inj hp
        have hd : Order.Counted { o with detached := true } :=
          ⟨h.counted.conserved, h.counted.budget, h.counted.pending, h.counted.remakes⟩
        refine (cancelledOrder_unevaluated hd).byCounts ?_
        have hin : inFlight (cancelledOrder { o with detached := true }) = inFlight o := by
          simp [inFlight, cancelledOrder, sumBy, Function.comp_def]
        have hst : stateOfCounts (cancelledOrder { o with detached := true }) = .cancelling := if_neg (hin ▸ hf)
        rw [Order.byCounts, hst]
        rfl

theorem Order.Sound.not_held {o : Order} (h : o.Sound) (hs : o.state ≠ .held) : o.heldFrom = none := by
  have hh := h.heldSound
  unfold Order.heldSound at hh
  split at hh <;> simp_all

/-- Whatever an operation of a step makes of a sound order is sound (L2, L3). -/
theorem Order.Sound.step {limit : Nat} {o p : Order} (h : o.Sound) (hl : limit ≤ 3) {x : Option Order}
    (hx : OrderStep limit o x) (hp : x = some p) : p.Sound := by
  have hmarked {q : Order} (hq : q.Unevaluated) : Order.Unevaluated { q with faultMark := true } :=
    ⟨⟨hq.counted.conserved, hq.counted.budget, hq.counted.pending, hq.counted.remakes⟩, hq.balanced, hq.heldSound,
      hq.cancelSound⟩
  cases hx with
  | freed => cases hp
  | noted hn => exact Option.some.inj hp ▸ h.noted hn
  | evaluated => exact h.unevaluated.byCounts hp
  | settled how hs => exact (settledOrder_unevaluated h how hl hs).byCounts hp
  | faulted hs => exact (cancelledOrder_unevaluated (hmarked (settledOrder_unevaluated h .fault hl hs)).counted).byCounts hp
  | marked hs => exact (hmarked (settledOrder_unevaluated h .fault hl hs)).byCounts hp
  | cancelled => exact (cancelledOrder_unevaluated h.counted).byCounts hp
  | detached => exact detachedTo_sound h hp
  | held hs =>
    obtain rfl := Option.some.inj hp
    refine h.moved rfl rfl rfl rfl (by unfold Order.Open; tauto) (by simp [Order.Open]) ?_
    rcases hs with hs | hs | hs <;> simp [Order.heldSound, hs]
  | released hs =>
    obtain rfl := Option.some.inj hp
    have hfrom : o.heldFrom = some .queued ∨ o.heldFrom = some .waitPaper ∨ o.heldFrom = some .active := by
      have hh := h.heldSound
      unfold Order.heldSound at hh
      rw [hs] at hh
      split at hh <;> simp_all
    refine h.moved rfl rfl rfl rfl (by simp [Order.Open, hs]) ?_ ?_
    · rcases hfrom with hf | hf | hf <;> simp [Order.Open, hf]
    · rcases hfrom with hf | hf | hf <;> simp [Order.heldSound, hf]
  | waited hs =>
    obtain rfl := Option.some.inj hp
    exact h.moved rfl rfl rfl rfl (by simp [Order.Open, hs]) (by simp [Order.Open])
      (by simp [Order.heldSound, h.not_held (by simp [hs])])
  | supplied hs =>
    obtain rfl := Option.some.inj hp
    exact h.moved rfl rfl rfl rfl (by simp [Order.Open, hs]) (by simp [Order.Open])
      (by simp [Order.heldSound, h.not_held (by simp [hs])])
  | started hs bins =>
    obtain rfl := Option.some.inj hp
    exact h.moved rfl rfl rfl rfl (by simp [Order.Open, hs]) (by simp [Order.Open])
      (by simp [Order.heldSound, h.not_held (by simp [hs])])
  | committed ho n =>
    have hs := ho.1
    refine Order.Unevaluated.byCounts ⟨committedOrder_counted h.counted ho n, ?_, h.heldSound, h.cancelSound⟩ hp
    simp [Order.balanced, committedOrder, hs]

/-- An operation leaves an order its slot. -/
theorem OrderStep.slot {limit : Nat} {o p : Order} {x : Option Order} (hx : OrderStep limit o x) (hp : x = some p) :
    p.slot = o.slot := by
  have hcounts {q : Order} (hq : q.byCounts = some p) : p.slot = q.slot := by
    unfold Order.byCounts at hq
    split at hq
    · cases hq
    · exact Option.some.inj hq ▸ rfl
  have hsettled (how : Settle) (ei : Nat) (n : Word) : (settledOrder how limit ei n o).slot = o.slot := by
    unfold settledOrder; dsimp only; split <;> rfl
  cases hx with
  | freed => cases hp
  | noted hn => exact Option.some.inj hp ▸ hn.slot
  | evaluated => exact hcounts hp
  | settled how hs => exact (hcounts hp).trans (hsettled _ _ _)
  | faulted hs => exact (hcounts hp).trans (hsettled _ _ _)
  | marked hs => exact (hcounts hp).trans (hsettled _ _ _)
  | cancelled => exact hcounts (q := cancelledOrder o) hp
  | detached => exact detachedTo_slot hp
  | held | released | waited | supplied | started => exact Option.some.inj hp ▸ rfl
  | committed ho n => exact hcounts (q := committedOrder _ _ n o) hp

end Sys2Proof.Machine
end


section
/-! What a step can do to the order table and to the takes of the sweep, and that it keeps L2, L3 and L7. -/

open Sys2Proof Sys2Proof.Machine

namespace Sys2Proof.Machine

set_option Elab.async false

/-! ## The changes of the running sweep -/

/-- The take in progress is over, and the next candidate's begins or no further one does (R10, R11, R12). -/
inductive Sweep.Next (w : Sweep) : Sweep → Prop where
  | begins {c : Nat} {rest : List Nat} (h : w.candidates = c :: rest) :
      Next w { w with taking := some c, taken := none, candidates := rest }
  | stops : Next w { w with taking := none, taken := none, candidates := [] }

/-- The takes of v are those of w, and so are its step and the slots it has read. -/
structure Sweep.SameTakes (w v : Sweep) : Prop where
  step : v.step = w.step
  scans : v.scans = w.scans
  taking : v.taking = w.taking
  taken : v.taken = w.taken
  candidates : v.candidates = w.candidates

/-- What one operation of a step makes of the running sweep w, none where it ends (R9 to R12); ok says what is known of the
values that the reads of a take bring. -/
inductive SweepChange (ok : TakeData → Prop) (s : State) (w : Sweep) : Option Sweep → Prop where
  | ended : SweepChange ok s w none
  | noted {v : Sweep} (h : w.SameTakes v) : SweepChange ok s w (some v)
  | dropped : SweepChange ok s w (some { w with candidates := [], barred := true })
  | scanned (h : w.step = .one) {scans : List SlotScan} (hs : (scans.map SlotScan.slot).Nodup) (requests : List SlotRequest) :
      SweepChange ok s w (some { w with step := .two, scans := scans, requests := requests })
  | stepped {st : SweepStep} (hst : st ≠ .four) (h : w.step = .four → w.taking = none ∧ w.taken = none) :
      SweepChange ok s w (some { w with step := st, requests := [] })
  | noneListed (h : w.step = .three) : SweepChange ok s w (some { w with step := .four, candidates := [] })
  | listed (h : w.step = .three) {c : Nat} {rest : List Nat} (hcs : (w.scans.map SlotScan.slot).Nodup → (c :: rest).Nodup)
      (hfree : ∀ k ∈ c :: rest, k ∉ heldSlots s) :
      SweepChange ok s w (some { w with step := .four, taking := some c, candidates := rest })
  | read {slot : Nat} (h : w.taking = some slot) {d : TakeData} (hd : ok d) :
      SweepChange ok s w (some { w with taking := none, taken := some (slot, d) })
  | passed {v : Sweep} (hv : w.Next v) : SweepChange ok s w (some v)

/-! ## The changes of a step -/

/-- One operation of a step, as far as the order table, the sweep, the remake limit and the queue of commands show it. -/
inductive Move (ok : TakeData → Prop) (s : State) : State → Prop where
  | other {t : State} (table : t.plan.table = s.plan.table) (sweep : t.intake.sweep = s.intake.sweep)
      (limit : s.setup.params.remakeLimit ≤ 3 → t.setup.params.remakeLimit ≤ 3) (pending : t.pending = s.pending) : Move ok s t
  | order {i : Nat} {o : Order} (ho : getOrder s i = some o) {x : Option Order}
      (hx : OrderStep s.setup.params.remakeLimit o x) : Move ok s { s with plan.table := s.plan.table.set i x }
  | noted {f : Order → Order} (hf : ∀ o : Order, o.Noted (f o)) :
      Move ok s { s with plan.table := s.plan.table.map (Option.map f) }
  | sweep {w : Sweep} (hw : s.intake.sweep = some w) {x : Option Sweep} (hx : SweepChange ok s w x) :
      Move ok s { s with intake.sweep := x }
  | begun (hw : s.intake.sweep = none) : Move ok s { s with intake.sweep := some Sweep.begun }
  | admitted {w v : Sweep} (hw : s.intake.sweep = some w) {slot : Nat} {d : TakeData} (ht : w.taken = some (slot, d))
      (hd : validate s.setup d = none) {i : Nat} (hi : freeContext s = some i) (seq : Word) (hv : w.Next v) :
      Move ok s { s with
        plan.table := s.plan.table.set i (some (orderOf s.setup slot seq d)), intake.sweep := some v }
  | reset : Move ok s { s with plan.table := List.replicate 16 none, intake.sweep := none }

/-- What a step can do, one operation behind the other. -/
abbrev Moves (ok : TakeData → Prop) : State → State → Prop := Relation.ReflTransGen (Move ok)

/-! ## What a change keeps of the orders (L2, L3) -/

/-- An order formed from values that pass their checks is sound (R13, R15). -/
theorem orderOf_sound (x : Setup) (slot : Nat) (seq : Word) {d : TakeData} (hv : validate x d = none)
    (hd : (TakeResult.data d).wellFormed = true) : (orderOf x slot seq d).Sound := by
  have hbad : badCount d = false := by
    unfold validate at hv
    split at hv
    · cases hv
    · rename_i h; simpa using h
  simp only [badCount, Bool.or_eq_false_iff, List.any_eq_false] at hbad
  obtain ⟨⟨hcount, -⟩, hcopies⟩ := hbad
  have hlen : d.entries.length = min d.count.toNat 64 := by simpa [TakeResult.wellFormed] using hd
  obtain ⟨r, hr⟩ : ∃ r, r ∈ d.entries := by
    refine List.exists_mem_of_length_pos ?_
    have : d.count.toNat ≠ 0 := fun h0 => by simp [BitVec.eq_of_toNat_eq (y := (0 : Byte)) h0] at hcount
    omega
  refine ⟨⟨fun e he => ?_, fun e he => ?_, fun i e he => Nat.zero_le _, fun i hi => by cases hi⟩, ?_, rfl, rfl⟩
  · obtain ⟨r, -, rfl⟩ := List.mem_map.1 he
    simp [entryOf]
  · obtain ⟨r, -, rfl⟩ := List.mem_map.1 he
    simp [entryOf]
  · have hpos : r.copies.toNat ≠ 0 := fun h0 => by
      have := hcopies r hr
      simp [BitVec.eq_of_toNat_eq (y := (0 : Byte)) h0] at this
    have hle := le_sumBy Entry.t (List.mem_map_of_mem (f := fun r => entryOf x.products[r.product.toNat]? r) hr)
    have ht : (entryOf x.products[r.product.toNat]? r).t = r.copies.toNat := rfl
    have hopen : (orderOf x slot seq d).Open := .inl rfl
    rw [hopen.agrees_iff]
    exact Nat.lt_of_lt_of_le (by omega) hle

/-- The take past its TAKEN write that a change leaves is the one that stood, or one whose values have just been read. -/
theorem SweepChange.taken {ok : TakeData → Prop} {s : State} {w v : Sweep} {x : Option Sweep} (h : SweepChange ok s w x)
    (hx : x = some v) {slot : Nat} {d : TakeData} (ht : v.taken = some (slot, d)) : w.taken = some (slot, d) ∨ ok d := by
  have hnext {u : Sweep} (hv : u.Next v) : v.taken = none := by cases hv <;> rfl
  cases h with
  | ended => cases hx
  | noted hn => exact .inl (by obtain rfl := Option.some.inj hx; rw [← hn.taken]; exact ht)
  | dropped | scanned | stepped | noneListed | listed => obtain rfl := Option.some.inj hx; exact .inl ht
  | read _ hd => obtain rfl := Option.some.inj hx; cases ht; exact .inr hd
  | passed hv => obtain rfl := Option.some.inj hx; rw [hnext hv] at ht; cases ht

theorem OrdersSound.move {s t : State} (h : OrdersSound s) (hm : Move (fun d => (TakeResult.data d).wellFormed = true) s t) :
    OrdersSound t := by
  have hset {i : Nat} {x : Option Order} (hx : ∀ p, x = some p → p.Sound) : ∀ p, some p ∈ s.plan.table.set i x → p.Sound := by
    intro p hp
    rcases List.mem_or_eq_of_mem_set hp with hp | hp
    · exact h.sound p hp
    · exact hx p hp.symm
  have hnext {w v : Sweep} (hv : w.Next v) : v.taken = none := by cases hv <;> rfl
  cases hm with
  | other table sweep limit pending =>
    exact ⟨by rw [table]; exact h.sound, limit h.limit, by rw [pending]; exact h.commands.pending,
      by rw [sweep]; exact h.commands.taken⟩
  | order ho hx =>
    exact ⟨hset fun p hp => (h.sound _ (getOrder_mem ho)).step h.limit hx hp, h.limit, h.commands.pending, h.commands.taken⟩
  | noted hf =>
    refine ⟨fun o ho => ?_, h.limit, h.commands.pending, h.commands.taken⟩
    obtain ⟨c, hc, hm⟩ := List.mem_map.1 ho
    obtain ⟨p, rfl, rfl⟩ := Option.map_eq_some_iff.1 hm
    exact (h.sound p hc).noted (hf p)
  | sweep hw hx =>
    refine ⟨h.sound, h.limit, h.commands.pending, fun v slot d hv hd => ?_⟩
    rcases hx.taken hv hd with hd | hd
    · exact h.commands.taken _ slot d hw hd
    · exact hd
  | begun =>
    refine ⟨h.sound, h.limit, h.commands.pending, fun v slot d hv hd => ?_⟩
    obtain rfl := Option.some.inj hv
    cases hd
  | admitted hw ht hd hi seq hv =>
    refine ⟨hset fun p hp => ?_, h.limit, h.commands.pending, fun v slot d hv' hd' => ?_⟩
    · exact Option.some.inj hp ▸ orderOf_sound _ _ seq hd (h.commands.taken _ _ _ hw ht)
    · obtain rfl := Option.some.inj hv'
      rw [hnext hv] at hd'; cases hd'
  | reset => exact ⟨by simp, h.limit, h.commands.pending, by simp⟩

/-! ## What a change keeps of the slots (L7) -/

theorem heldSlots_congr {s t : State} (h : t.plan.table = s.plan.table) : heldSlots t = heldSlots s := by
  unfold heldSlots; rw [h]

theorem takeSlots_congr {s t : State} (h : t.intake.sweep = s.intake.sweep) : takeSlots t = takeSlots s := by
  unfold takeSlots; rw [h]

/-- The slots that sweep w has a take for. -/
def Sweep.slots (w : Sweep) : List Nat := w.taking.toList ++ (w.taken.map (·.1)).toList ++ w.candidates

theorem takeSlots_some {s : State} {w : Sweep} (h : s.intake.sweep = some w) : takeSlots s = w.slots := by
  unfold takeSlots; rw [h]; rfl

theorem takeSlots_none {s : State} (h : s.intake.sweep = none) : takeSlots s = [] := by
  unfold takeSlots; rw [h]

/-- What L7 says of the sweep alone. -/
structure Sweep.OneTake (w : Sweep) : Prop where
  scans : (w.scans.map SlotScan.slot).Nodup
  four : w.step ≠ .four → w.taking = none ∧ w.taken = none ∧ w.candidates = []
  idle : w.step = .four → w.taking = none → w.taken = none → w.candidates = []
  one : w.taking.isSome = true → w.taken = none

theorem slotsDistinct_iff (s : State) : SlotsDistinct s ↔ s.plan.table.length = Config.contexts
    ∧ (heldSlots s ++ takeSlots s).Nodup ∧ ∀ w, s.intake.sweep = some w → w.OneTake :=
  ⟨fun h => ⟨h.contexts, h.distinct, fun w hw => ⟨h.scans w hw, h.four w hw, h.idle w hw, h.one w hw⟩⟩,
    fun ⟨hc, hd, hw⟩ => ⟨hc, hd, fun w h => (hw w h).scans, fun w h => (hw w h).four, fun w h => (hw w h).idle,
      fun w h => (hw w h).one⟩⟩

/-- The held slots lose the one of an order that is freed, and keep it of one that changes. -/
theorem heldSlots_set {s : State} {i : Nat} {o : Order} (h : getOrder s i = some o) {x : Option Order}
    (hx : ∀ p, x = some p → p.slot = o.slot) :
    ((s.plan.table.set i x).filterMap (Option.map Order.slot)).Sublist (heldSlots s) := by
  have hg := getElem?_of_getOrder h
  unfold heldSlots
  clear h
  generalize s.plan.table = l at hg
  induction l generalizing i with
  | nil => exact List.Sublist.refl _
  | cons y r ih =>
    cases i with
    | zero =>
      obtain rfl := Option.some.inj hg
      cases x with
      | none => exact List.sublist_cons_self _ _
      | some p => simp [hx p rfl]
    | succ i =>
      have hr := ih (i := i) hg
      cases y with
      | none => exact hr
      | some q => exact hr.cons_cons q.slot

/-- The held slots gain the one of an order that a free context takes. -/
theorem heldSlots_admit {s : State} {i : Nat} (h : freeContext s = some i) (p : Order) :
    ((s.plan.table.set i (some p)).filterMap (Option.map Order.slot)).Perm (p.slot :: heldSlots s) := by
  obtain ⟨-, hg⟩ := findFree_spec _ _ _ h
  unfold heldSlots
  clear h
  generalize s.plan.table = l at hg
  rw [Nat.sub_zero] at hg
  induction l generalizing i with
  | nil => cases hg
  | cons y r ih =>
    cases i with
    | zero =>
      obtain rfl := Option.some.inj hg
      exact .refl _
    | succ i =>
      have hr := ih (i := i) hg
      cases y with
      | none => exact hr
      | some q => exact (hr.cons q.slot).trans (.swap ..)

theorem Sweep.OneTake.noTaken {w : Sweep} (h : w.OneTake) (hs : w.step ≠ .four) : w.taken = none := by
  obtain ⟨-, taken, -⟩ := h.four hs
  exact taken

theorem Sweep.OneTake.noCandidates {w : Sweep} (h : w.OneTake) (hs : w.step ≠ .four) : w.candidates = [] := by
  obtain ⟨-, -, candidates⟩ := h.four hs
  exact candidates

theorem Sweep.Next.slots {w v : Sweep} (h : w.Next v) : v.slots.Sublist w.candidates := by
  cases h with
  | begins h => rw [h]; exact .refl _
  | stops => exact List.nil_sublist _

theorem Sweep.Next.oneTake {w v : Sweep} (h : w.Next v) (scans : (w.scans.map SlotScan.slot).Nodup)
    (four : w.step ≠ .four → w.candidates = []) : v.OneTake := by
  cases h with
  | begins h =>
    exact ⟨scans, fun hs => (by rw [four hs] at h; cases h), fun _ ht => (by cases ht), fun _ => rfl⟩
  | stops => exact ⟨scans, fun _ => ⟨rfl, rfl, rfl⟩, fun _ _ _ => rfl, fun _ => rfl⟩

theorem SweepChange.oneTake {ok : TakeData → Prop} {s : State} {w v : Sweep} {x : Option Sweep} (h : SweepChange ok s w x)
    (hx : x = some v) (hw : w.OneTake) : v.OneTake := by
  cases h with
  | ended => cases hx
  | noted hn =>
    obtain rfl := Option.some.inj hx
    obtain ⟨step, scans, taking, taken, candidates⟩ := hn
    exact ⟨by rw [scans]; exact hw.scans, by rw [step, taking, taken, candidates]; exact hw.four,
      by rw [step, taking, taken, candidates]; exact hw.idle, by rw [taking, taken]; exact hw.one⟩
  | dropped =>
    obtain rfl := Option.some.inj hx
    exact ⟨hw.scans, fun hs => ⟨(hw.four hs).1, hw.noTaken hs, rfl⟩, fun _ _ _ => rfl, hw.one⟩
  | scanned hs hscans requests =>
    obtain rfl := Option.some.inj hx
    exact ⟨hscans, fun _ => hw.four (by rw [hs]; decide), fun h => (by cases h), hw.one⟩
  | @stepped st hst hfour =>
    obtain rfl := Option.some.inj hx
    refine ⟨hw.scans, fun _ => ?_, fun h => absurd h hst, hw.one⟩
    by_cases h4 : w.step = .four
    · obtain ⟨h1, h2⟩ := hfour h4
      exact ⟨h1, h2, hw.idle h4 h1 h2⟩
    · exact hw.four h4
  | noneListed hs =>
    obtain rfl := Option.some.inj hx
    exact ⟨hw.scans, fun h => absurd rfl h, fun _ _ _ => rfl, hw.one⟩
  | listed hs hcs hfree =>
    obtain rfl := Option.some.inj hx
    exact ⟨hw.scans, fun h => absurd rfl h, fun _ h => (by cases h), fun _ => hw.noTaken (by rw [hs]; decide)⟩
  | read ht hd =>
    obtain rfl := Option.some.inj hx
    refine ⟨hw.scans, fun hs => ?_, fun _ _ h => (by cases h), fun h => (by cases h)⟩
    rw [(hw.four hs).1] at ht; cases ht
  | passed hv =>
    obtain rfl := Option.some.inj hx
    exact hv.oneTake hw.scans fun hs => hw.noCandidates hs

/-- The slots that a change leaves takes for are ones that had one, or candidates that no order stands for. -/
theorem SweepChange.slots {ok : TakeData → Prop} {s : State} {w v : Sweep} {x : Option Sweep} (h : SweepChange ok s w x)
    (hx : x = some v) (hw : w.OneTake) (hnd : (heldSlots s ++ w.slots).Nodup) : (heldSlots s ++ v.slots).Nodup := by
  have hsub {u : Sweep} (hu : u.slots.Sublist w.slots) : (heldSlots s ++ u.slots).Nodup :=
    hnd.sublist (hu.append_left _)
  cases h with
  | ended => cases hx
  | noted hn =>
    obtain rfl := Option.some.inj hx
    obtain ⟨-, -, taking, taken, candidates⟩ := hn
    unfold Sweep.slots
    rw [taking, taken, candidates]; exact hnd
  | dropped =>
    obtain rfl := Option.some.inj hx
    exact hsub (List.Sublist.append_left (List.nil_sublist _) _)
  | scanned => obtain rfl := Option.some.inj hx; exact hnd
  | stepped => obtain rfl := Option.some.inj hx; exact hnd
  | noneListed hs =>
    obtain rfl := Option.some.inj hx
    exact hsub (List.Sublist.append_left (List.nil_sublist _) _)
  | @listed hs c rest hcs hfree =>
    obtain rfl := Option.some.inj hx
    have hslots : Sweep.slots { w with step := .four, taking := some c, candidates := rest } = c :: rest := by
      simp [Sweep.slots, hw.noTaken (by rw [hs]; decide)]
    rw [hslots]
    refine List.nodup_append.2 ⟨(List.nodup_append.1 hnd).1, hcs hw.scans, ?_⟩
    exact fun a ha b hb hab => hfree b hb (hab ▸ ha)
  | read ht hd =>
    obtain rfl := Option.some.inj hx
    have hn : w.taken = none := hw.one (by rw [ht]; rfl)
    simpa [Sweep.slots, ht, hn] using hnd
  | passed hv =>
    obtain rfl := Option.some.inj hx
    exact hsub (hv.slots.trans (List.sublist_append_right _ _))

theorem SlotsDistinct.move {ok : TakeData → Prop} {s t : State} (h : SlotsDistinct s) (hm : Move ok s t) : SlotsDistinct t := by
  obtain ⟨hlen, hnd, hw⟩ := (slotsDistinct_iff s).1 h
  rw [slotsDistinct_iff]
  cases hm with
  | other table sweep limit pending =>
    rw [table, sweep, heldSlots_congr table, takeSlots_congr sweep]; exact ⟨hlen, hnd, hw⟩
  | order ho hx =>
    exact ⟨by simpa using hlen, hnd.sublist ((heldSlots_set ho fun p hp => hx.slot hp).append_right _), hw⟩
  | noted hf =>
    refine ⟨by simpa using hlen, ?_, hw⟩
    have hheld : (s.plan.table.map (Option.map ‹Order → Order›)).filterMap (Option.map Order.slot) = heldSlots s := by
      rw [List.filterMap_map]
      refine List.filterMap_congr fun c _ => ?_
      cases c with
      | none => rfl
      | some o => simp [(hf o).slot]
    unfold heldSlots
    rw [hheld]; exact hnd
  | @sweep w hsome x hx =>
    have hone := hw w hsome
    refine ⟨hlen, ?_, fun v hv => hx.oneTake hv hone⟩
    rw [takeSlots_some hsome] at hnd
    cases x with
    | none => rw [takeSlots_none rfl]; exact hnd.sublist ((List.nil_sublist _).append_left _)
    | some v => rw [takeSlots_some (w := v) rfl]; exact hx.slots rfl hone hnd
  | begun hnone =>
    rw [takeSlots_none hnone] at hnd
    refine ⟨hlen, hnd, fun v hv => ?_⟩
    obtain rfl := Option.some.inj hv
    exact ⟨List.nodup_nil, fun _ => ⟨rfl, rfl, rfl⟩, fun h => (by cases h), fun h => (by cases h)⟩
  | @admitted w v hsome slot d ht hd i hi seq hv =>
    have hone := hw w hsome
    refine ⟨by simpa using hlen, ?_, fun u hu => ?_⟩
    · rw [takeSlots_some (w := v) rfl]
      rw [takeSlots_some hsome] at hnd
      have hperm := (heldSlots_admit hi (orderOf s.setup slot seq d)).append_right v.slots
      refine hperm.nodup_iff.2 ?_
      have hsub : (slot :: v.slots).Sublist w.slots := by
        have hw : w.slots = w.taking.toList ++ (slot :: w.candidates) := by simp [Sweep.slots, ht]
        rw [hw]
        exact (hv.slots.cons_cons slot).trans (List.sublist_append_right _ _)
      exact List.perm_middle.nodup_iff.1 (hnd.sublist (hsub.append_left _))
    · obtain rfl := Option.some.inj hu
      exact hv.oneTake hone.scans fun hs => hone.noCandidates hs
  | reset => exact ⟨by simp [Config.contexts], by rw [takeSlots_none rfl]; simp [heldSlots], by simp⟩

/-! ## Chains of changes -/

theorem Moves.keeps {ok : TakeData → Prop} {P : State → Prop} (hP : ∀ s t, P s → Move ok s t → P t) {s t : State}
    (h : Moves ok s t) (hs : P s) : P t := by
  induction h with
  | refl => exact hs
  | tail _ hm ih => exact hP _ _ ih hm

end Sys2Proof.Machine
end


section
/-! Every operation of a step as a chain of changes to the order table and the sweep: the orders, the web, the engine (R9 to
R12, R45 to R55, R58 to R62). -/

open Sys2Proof Sys2Proof.Machine

namespace Sys2Proof.Machine

set_option Elab.async false

variable {ok : TakeData → Prop} {s t u : State}

/-! ## One change more -/

/-- An operation that leaves the table, the sweep, the remake limit and the queue. -/
theorem Moves.same (h : Moves ok s t) (table : u.plan.table = t.plan.table := by simp)
    (sweep : u.intake.sweep = t.intake.sweep := by simp)
    (limit : u.setup.params.remakeLimit = t.setup.params.remakeLimit := by simp)
    (pending : u.pending = t.pending := by simp) : Moves ok s u :=
  h.tail (.other table sweep (fun hl => limit ▸ hl) pending)

/-- An operation that changes one order. -/
theorem Moves.order (h : Moves ok s t) {i : Nat} {o : Order} (ho : getOrder t i = some o) {x : Option Order}
    (hx : OrderStep t.setup.params.remakeLimit o x) (table : u.plan.table = t.plan.table.set i x := by simp)
    (sweep : u.intake.sweep = t.intake.sweep := by simp)
    (limit : u.setup.params.remakeLimit = t.setup.params.remakeLimit := by simp)
    (pending : u.pending = t.pending := by simp) : Moves ok s u :=
  Moves.same (h.tail (.order ho hx)) table sweep limit pending

/-- An operation that changes the sweep. -/
theorem Moves.sweep (h : Moves ok s t) {w : Sweep} (hw : t.intake.sweep = some w) {x : Option Sweep}
    (hx : SweepChange ok t w x) (sweep : u.intake.sweep = x := by simp) (table : u.plan.table = t.plan.table := by simp)
    (limit : u.setup.params.remakeLimit = t.setup.params.remakeLimit := by simp)
    (pending : u.pending = t.pending := by simp) : Moves ok s u :=
  Moves.same (h.tail (.sweep hw hx)) table sweep limit pending

theorem Moves.foldl {α : Type} (h : Moves ok s t) (f : State → α → State) (l : List α)
    (hf : ∀ u, ∀ a ∈ l, Moves ok s u → Moves ok s (f u a)) : Moves ok s (l.foldl f t) := by
  induction l generalizing t with
  | nil => exact h
  | cons a r ih => exact ih (hf t a (by simp) h) (fun u b hb => hf u b (by simp [hb]))

/-! ## Orders -/

theorem moves_putNoted (h : Moves ok s t) {i : Nat} {o p : Order} (ho : getOrder t i = some o) (hp : o.Noted p) :
    Moves ok s (putOrder i (some p) t) := h.order ho (.noted hp)

theorem moves_freeOrder (h : Moves ok s t) {i : Nat} {o : Order} (ho : getOrder t i = some o) : Moves ok s (freeOrder i t) :=
  h.order ho .freed

theorem moves_evalOrder (h : Moves ok s t) (i : Nat) : Moves ok s (evalOrder i t) := by
  cases ho : getOrder t i with
  | none => rw [evalOrder_table_none i t ho]; exact h
  | some o => exact h.order ho .evaluated (table := evalOrder_table i t o ho)

/-- An order changed and then evaluated. -/
theorem evalOrder_table_of {i : Nat} {o p : Order} (ho : getOrder t i = some o)
    (hu : u.plan.table = t.plan.table.set i (some p)) : (evalOrder i u).plan.table = t.plan.table.set i p.byCounts := by
  rw [evalOrder_table i u p (getOrder_set ho _ _ hu), hu, List.set_set]
  rfl

theorem cancelOrder_table_of {i : Nat} {o p : Order} (ho : getOrder t i = some o)
    (hu : u.plan.table = t.plan.table.set i (some p)) :
    (cancelOrder i u).plan.table = t.plan.table.set i (cancelledOrder p).byCounts := by
  have hp := getOrder_set ho _ _ hu
  unfold cancelOrder
  rw [hp]
  exact evalOrder_table_of ho (by simp [hu])

theorem moves_evalWaitOf (h : Moves ok s t) (i : Nat) : Moves ok s (evalWaitOf t i) := by
  unfold evalWaitOf; split
  · exact h
  · rename_i o ho
    split
    · split
      · exact h.order ho (.waited ‹_›)
      · exact h
    · split
      · exact h
      · exact h.order ho (.supplied ‹_›)
    · exact h

theorem moves_evalWait (h : Moves ok s t) : Moves ok s (evalWait t) := h.foldl _ _ fun _ i _ hu => moves_evalWaitOf hu i

theorem moves_settleFrame (h : Moves ok s t) (how : Settle) (i ei : Nat) (n : Word) : Moves ok s (settleFrame how i ei n t) := by
  have hframe : (settleFrame how i ei n t).intake = t.intake ∧ (settleFrame how i ei n t).setup = t.setup
      ∧ (settleFrame how i ei n t).pending = t.pending := by simp
  obtain ⟨hintake, hsetup, hpending⟩ := hframe
  cases ho : getOrder t i with
  | none => unfold settleFrame; rw [ho]; exact h
  | some o =>
    by_cases hs : settles o ei n = true
    · refine h.order ho (.settled how hs) ?_ (by rw [hintake]) (by rw [hsetup]) hpending
      unfold settleFrame
      rw [ho]; dsimp only
      rw [if_pos hs]
      refine evalOrder_table_of ho ?_
      split <;> simp
    · unfold settleFrame; rw [ho]; dsimp only; rw [if_neg hs]; exact h

theorem moves_cancelOrder (h : Moves ok s t) (i : Nat) : Moves ok s (cancelOrder i t) := by
  cases ho : getOrder t i with
  | none => unfold cancelOrder; rw [ho]; exact h
  | some o =>
    refine h.order ho .cancelled ?_
    unfold cancelOrder
    rw [ho]
    exact evalOrder_table_of ho (by simp)

theorem moves_detachOrder (h : Moves ok s t) (i : Nat) : Moves ok s (detachOrder i t) := by
  cases ho : getOrder t i with
  | none => unfold detachOrder; rw [ho]; exact h
  | some o =>
    cases hd : o.detached with
    | true => rw [detachOrder_detached ho hd]; exact h
    | false => exact h.order ho .detached (detachOrder_spec ho hd).1

theorem moves_faultFrame (h : Moves ok s t) (i ei : Nat) (n : Word) : Moves ok s (faultFrame i ei n t) := by
  unfold faultFrame; split
  · exact h
  · rename_i o ho
    split
    · rename_i hs
      dsimp only
      split
      · refine h.order ho (.faulted hs) (cancelOrder_table_of ho ?_)
        simp
      · refine h.order ho (.marked hs) (evalOrder_table_of ho ?_)
        simp
    · exact h

theorem moves_holdOrder (h : Moves ok s t) {i : Nat} {o : Order} (ho : getOrder t i = some o)
    (hs : o.state = .queued ∨ o.state = .waitPaper ∨ o.state = .active) : Moves ok s (holdOrder i o t) :=
  h.order ho (.held hs) (by simp [holdOrder])

theorem moves_releaseOrder (h : Moves ok s t) {i : Nat} {o : Order} (ho : getOrder t i = some o) (hs : o.state = .held) :
    Moves ok s (releaseOrder i o t) := by
  refine moves_evalOrder ?_ i
  have h1 : Moves ok s (enterState i { o with heldFrom := none } (o.heldFrom.getD .queued) t) := h.order ho (.released hs)
  unfold evalReleased; split
  · exact h1.same
  · exact moves_evalWaitOf h1 i

/-! ## The sorter and the web map -/

theorem moves_divert (h : Moves ok s t) (o e : Nat) (n : Word) (reject : Bool) : Moves ok s (divert o e n reject t) := by
  unfold divert; split
  · exact h
  · exact moves_settleFrame h _ _ _ _

theorem moves_offerPrint (h : Moves ok s t) (o e : Nat) (n : Word) (reject unverified : Bool) :
    Moves ok s (offerPrint o e n reject unverified t) := by
  unfold offerPrint; split
  · split
    · exact h.same
    · exact moves_divert h _ _ _ _
  · exact moves_divert h _ _ _ _

theorem moves_expireLane (k : Nat) (h : Moves ok s t) : Moves ok s (expireLane k t) := by
  induction k generalizing t with
  | zero => exact h
  | succ k ih =>
    unfold expireLane; split
    · refine ih ?_
      unfold loseOldest; split
      · exact h
      · exact moves_divert h.same _ _ _ _
    · exact h

theorem moves_confirm (h : Moves ok s t) (b : Nat) : Moves ok s (confirm b t) := by
  unfold confirm; split
  · exact h.same
  · refine moves_expireLane _ ?_
    split
    · unfold deliver; dsimp only; split
      · split <;> exact h.same
      · refine moves_settleFrame ?_ _ _ _ _
        split <;> exact h.same
    · unfold misroute; dsimp only; split
      · exact h.same
      · exact moves_settleFrame h.same _ _ _ _

theorem moves_exposureEnd (h : Moves ok s t) (n : Word) : Moves ok s (exposureEnd n t) := by
  unfold exposureEnd; split
  · exact h
  · split
    · dsimp only; split
      · exact h.same
      · split
        · exact moves_settleFrame h.same _ _ _ _
        · exact h.same
    · exact h

theorem moves_miscutEntry (h : Moves ok s t) (e : MapEntry) : Moves ok s (miscutEntry e t) := by
  unfold miscutEntry; dsimp only; split
  · split
    · exact h.same
    · exact moves_settleFrame h.same _ _ _ _
  · exact h.same

theorem moves_leaveMap (h : Moves ok s t) : Moves ok s (leaveMap t) := by
  unfold leaveMap; split
  · exact h
  · dsimp only; split
    · exact moves_offerPrint h.same _ _ _ _ _
    · exact h.same

theorem moves_cutReport (h : Moves ok s t) (b : Word) (late : Bool) : Moves ok s (cutReport b late t) := by
  unfold cutReport; split
  · exact h
  · split
    · refine moves_leaveMap ?_
      split
      · split
        · exact moves_miscutEntry h _
        · exact moves_miscutEntry (moves_miscutEntry h _) _
      · exact h
    · exact h

theorem moves_spoilMap (h : Moves ok s t) : Moves ok s (spoilMap t) := by
  have h1 : Moves ok s { t with web.map := t.web.map.map (fun (e : MapEntry) => { e with flags.spoiled := true }) } := h.same
  have h2 := h1.foldl spoilReport (t.web.map.map (fun (e : MapEntry) => { e with flags.spoiled := true })) fun u e _ hu => by
    unfold spoilReport; split
    · split
      · exact hu
      · exact moves_settleFrame hu _ _ _ _
    · exact hu
  unfold spoilMap
  exact h2.same

/-! ## The fetch unit -/

theorem moves_accessFault (h : Moves ok s t) (n : Word) (addr : Long) : Moves ok s (accessFault n addr t) := by
  unfold accessFault; split
  · exact h
  · rename_i x hx
    extract_lets s1 f1 s2 f2 s3 s4 s5
    have h3 : Moves ok s s3 := by
      unfold s3; split
      · split <;> exact h.same rfl rfl rfl rfl
      · exact h.same rfl rfl rfl rfl
    have h4 : Moves ok s s4 := h3.same (by simp [s4]) (by simp [s4]) (by simp [s4]) (by simp [s4])
    refine Moves.same (t := s5) ?_
    unfold s5; split
    · split
      · exact moves_faultFrame h4 _ _ _
      · exact h4
    · exact h4

theorem moves_issueRead (h : Moves ok s t) : Moves ok s (issueRead t) := by
  unfold issueRead; split
  · split
    · exact h
    · split
      · exact h
      · unfold issueLine; dsimp only
        split
        · exact h.same
        · split
          · exact h.same
          · exact moves_accessFault h _ _
  · exact h

theorem moves_leaveRead (h : Moves ok s t) (r : LineRead) (how : ReadEnd) : Moves ok s (leaveRead r how t) := by
  unfold leaveRead; split
  · exact h.same
  · split
    · exact h.same
    · exact moves_accessFault h _ _

theorem moves_drainReads (n : Nat) (h : Moves ok s t) : Moves ok s (drainReads n t) := by
  induction n generalizing t with
  | zero => exact h
  | succ n ih =>
    unfold drainReads; split
    · exact h
    · split
      · exact h
      · exact ih (moves_leaveRead h.same _ _)

/-! ## The engine and the cutter -/

theorem moves_dropCandidates (h : Moves ok s t) : Moves ok s (dropCandidates t) := by
  cases hw : t.intake.sweep with
  | none => exact h.same (by simp) (by simp [hw]) (by simp) (by simp)
  | some w => exact h.sweep hw .dropped (by simp [hw])

theorem moves_dropRun (h : Moves ok s t) : Moves ok s (dropRun t) := h.same rfl rfl rfl rfl

theorem moves_enterPaused (h : Moves ok s t) : Moves ok s (enterPaused t) := by
  have h0 : Moves ok s (setEngine .paused t) := h.same
  have h1 := moves_dropRun (moves_spoilMap (moves_dropCandidates h0))
  unfold enterPaused
  exact h1.same

theorem moves_stoppage (h : Moves ok s t) (kind : FaultKind) : Moves ok s (stoppage kind t) := by
  unfold stoppage; split
  · exact moves_enterPaused h.same
  · exact moves_enterPaused h.same
  · exact h.same
  · exact h.same
  · exact h

theorem moves_enterStopped (h : Moves ok s t) : Moves ok s (enterStopped t) := by
  have h0 : Moves ok s { emptyMap (wasteBehind (setEngine .stopped t)) with cut.cursor := none, plan.switchFlag := false } :=
    h.same
  have h1 := moves_dropRun h0
  unfold enterStopped
  exact h1.same

theorem moves_clearReport (h : Moves ok s t) : Moves ok s (clearReport t) := by
  unfold clearReport; split
  · exact moves_enterStopped h
  · exact h

theorem moves_cutTest (h : Moves ok s t) : Moves ok s (cutTest t) := by
  unfold cutTest; split
  · exact h
  · split
    · exact moves_clearReport (moves_cutReport h.same _ _)
    · exact h
    · exact moves_stoppage h _

theorem moves_homeChange (h : Moves ok s t) (active : Bool) : Moves ok s (homeChange active t) := by
  unfold homeChange; split
  · exact h
  · split
    · split
      · exact moves_cutTest h.same
      · exact h
    · split
      · exact h
      · exact h.same
  · split
    · exact h.same
    · exact h

theorem moves_strokeExpiry (h : Moves ok s t) : Moves ok s (strokeExpiry t) := by
  unfold strokeExpiry; split
  · exact moves_stoppage h.same _
  · exact h

theorem moves_takeMark (h : Moves ok s t) : Moves ok s (takeMark t) := by
  unfold takeMark; split
  · split
    · exact h
    · split
      · exact moves_cutTest h.same
      · exact h
  · exact h

end Sys2Proof.Machine
end


section
/-! Every operation of a step as a chain of changes to the order table and the sweep: the choice, the strobe, the link and
the intake unit, and the obligations on the orders and on the slots (L2, L3, L7). -/

open Sys2Proof Sys2Proof.Machine

namespace Sys2Proof.Machine

set_option Elab.async false

variable {ok : TakeData → Prop} {s t u : State}

/-! ## What the choice offers -/

theorem mem_ordersIn {st : OrderState} {x : Nat × Order} (h : x ∈ ordersIn st s) :
    getOrder s x.1 = some x.2 ∧ x.2.state = st := by
  obtain ⟨hq, hs⟩ := List.mem_filter.1 h
  exact ⟨mem_queueOrders hq, by simpa using hs⟩

theorem fittingRemake_some {m : Magazine} {o : Order} {ei : Nat} (h : fittingRemake m o = some ei) :
    ei ∈ o.remakes ∧ ∃ e, o.entries[ei]? = some e ∧ fits m e = true := by
  unfold fittingRemake at h
  refine ⟨List.mem_of_find?_eq_some h, ?_⟩
  have hp := List.find?_some h
  cases he : o.entries[ei]? with
  | none => rw [he] at hp; cases hp
  | some e => rw [he] at hp; exact ⟨e, rfl, hp⟩

theorem unstarted_pos {o : Order} {ei : Nat} {e : Entry} (h : o.entries[ei]? = some e) :
    0 < unstarted o ei ↔ o.remakes.count ei < e.t := by
  unfold unstarted
  rw [h]
  exact Nat.sub_pos_iff_lt

theorem fittingCopy_some {x : Setup} {m : Magazine} {o : Order} {ei : Nat} (h : fittingCopy x m o = some ei) :
    ∃ e, o.entries[ei]? = some e ∧ o.remakes.count ei < e.t ∧ fits m e = true ∧ startable x e = true := by
  have hp := List.find?_some h
  simp only [Bool.and_eq_true, decide_eq_true_eq] at hp
  obtain ⟨hu, hp⟩ := hp
  cases he : o.entries[ei]? with
  | none => rw [he] at hp; cases hp
  | some e =>
    rw [he] at hp
    simp only [Bool.and_eq_true] at hp
    exact ⟨e, rfl, (unstarted_pos he).1 hu, hp⟩

theorem chooseRemake_offers {i ei : Nat} (h : chooseRemake s = some (i, ei)) :
    ∃ o e, getOrder s i = some o ∧ o.Offers ei true e := by
  obtain ⟨x, hx, hm⟩ := List.exists_of_findSome?_eq_some h
  obtain ⟨_, hr, he⟩ := Option.map_eq_some_iff.1 hm
  cases he
  obtain ⟨ho, hs⟩ := mem_ordersIn hx
  obtain ⟨hmem, e, he, -⟩ := fittingRemake_some hr
  exact ⟨x.2, e, ho, hs, he, hmem⟩

theorem chooseCopy_offers {i ei : Nat} (h : chooseCopy s = some (i, ei)) :
    ∃ o e, getOrder s i = some o ∧ o.Offers ei false e := by
  obtain ⟨x, hx, hm⟩ := List.exists_of_findSome?_eq_some h
  obtain ⟨_, hc, he⟩ := Option.map_eq_some_iff.1 hm
  cases he
  obtain ⟨ho, hs⟩ := mem_ordersIn hx
  obtain ⟨e, he, hcount, -⟩ := fittingCopy_some hc
  exact ⟨x.2, e, ho, hs, he, hcount⟩

theorem chooseStart_offers {i ei : Nat} {o : Order} (h : chooseStart s = some (i, o, ei)) (bins : List Nat) :
    getOrder s i = some o ∧ o.state = .queued ∧ ∃ e, Order.Offers { o with bins := bins, state := .active } ei false e := by
  obtain ⟨x, hx, hm⟩ := List.exists_of_findSome?_eq_some h
  split at hm
  · obtain ⟨_, hc, he⟩ := Option.map_eq_some_iff.1 hm
    cases he
    obtain ⟨ho, hs⟩ := mem_ordersIn hx
    obtain ⟨e, he, hcount, -⟩ := fittingCopy_some hc
    exact ⟨ho, hs, e, rfl, he, hcount⟩
  · cases hm

/-- A started order is ACTIVE with its bins listed, and no other context changes (R60, R64). -/
theorem startOrder_spec {i : Nat} {o : Order} (h : startOrder i o s = some t) :
    ∃ bins, t.plan.table = s.plan.table.set i (some { o with bins := bins, state := .active })
      ∧ t.intake = s.intake ∧ t.setup = s.setup ∧ t.pending = s.pending := by
  unfold startOrder at h
  split at h
  · cases h
  · rename_i s1 bins hr
    obtain rfl := Option.some.inj h
    obtain ⟨-, intake, setup, -, plan, -, -, -, -, -, -, -, -, -, -, -, -, -, -, -, -, pending⟩ :=
      reserveBins_frame _ _ _ _ _ _ hr
    exact ⟨bins, by simp [plan], by simp [intake], by simp [setup], by simp [pending]⟩

/-! ## The choice -/

theorem moves_commitFrame (h : Moves ok s t) {i ei : Nat} {remake : Bool} {o : Order} {e : Entry}
    (ho : getOrder t i = some o) (hoffer : o.Offers ei remake e) : Moves ok s (commitFrame i ei remake t) := by
  refine h.order ho (.committed hoffer t.web.nextNumber) ?_
  unfold commitFrame
  rw [ho]; dsimp only
  obtain ⟨-, he, -⟩ := hoffer
  rw [he]; dsimp only
  exact evalOrder_table_of ho (by simp)

theorem moves_choose (h : Moves ok s t) : Moves ok s (choose t) := by
  unfold choose; split
  · exact h.same
  · split
    · exact h.same
    · split
      · rename_i i ei hc
        obtain ⟨o, e, ho, hoffer⟩ := chooseRemake_offers hc
        exact moves_commitFrame h ho hoffer
      · split
        · rename_i i ei hc
          obtain ⟨o, e, ho, hoffer⟩ := chooseCopy_offers hc
          exact moves_commitFrame h ho hoffer
        · split
          · rename_i i o ei hc
            split
            · rename_i s1 hs
              obtain ⟨bins, table, intake, setup, pending⟩ := startOrder_spec hs
              obtain ⟨ho, hq, e, hoffer⟩ := chooseStart_offers hc bins
              have h1 : Moves ok s s1 := h.order ho (.started hq bins) table (by rw [intake]) (by rw [setup]) pending
              exact moves_commitFrame h1 (getOrder_set ho _ _ table) hoffer
            · exact h.same
          · exact h.same

theorem moves_commitPoint (h : Moves ok s t) : Moves ok s (commitPoint t) := by
  unfold commitPoint; split
  · have h1 : Moves ok s (stampAll t) := by
      refine h.tail (.noted fun o => ?_)
      unfold stampWaiting; split <;> exact ⟨rfl, rfl, rfl, rfl, rfl, rfl, rfl⟩
    exact moves_choose h1
  · exact h.same
  · exact h

/-! ## The strobe -/

theorem moves_lineTiming (h : Moves ok s t) (paper : Bool) : Moves ok s (lineTiming paper t) := by
  unfold lineTiming; split
  · exact h.same
  · unfold rampStrobe; dsimp only; split
    · exact moves_stoppage h.same _
    · exact h.same
  · have h1 : Moves ok s (endFrame t.line.w (advanceW (truncateLine t))) := by
      have h0 : Moves ok s (advanceW (truncateLine t)) := h.same
      unfold endFrame; split
      · rename_i n _
        exact (moves_exposureEnd h0 n).same
      · exact h0
    have h2 : Moves ok s (countBreak paper (endFrame t.line.w (advanceW (truncateLine t)))).1 := h1.same
    unfold readyStrobe; dsimp only; split
    · exact moves_stoppage h2.same _
    · refine Moves.same (t := readyLine t.line.w (countBreak paper (endFrame t.line.w (advanceW (truncateLine t)))).1) ?_
      unfold readyLine; split
      · exact h2.same
      · split
        · exact h2.same
        · exact h2.same

theorem moves_strobe (h : Moves ok s t) (paper good : Bool) : Moves ok s (strobe paper good t) := by
  have h1 : Moves ok s (reportCutterPos (runHigh t) (lineTiming paper t)) := (moves_lineTiming h paper).same
  have h2 : Moves ok s (runningStrobe good t.line.w (reportCutterPos (runHigh t) (lineTiming paper t))) := by
    unfold runningStrobe; split
    · exact moves_cutTest h1.same
    · exact h1
  have h3 : Moves ok s (paperStrobe (handlesPaperOut t)
      (runningStrobe good t.line.w (reportCutterPos (runHigh t) (lineTiming paper t)))) := by
    unfold paperStrobe; dsimp only; split
    · split
      · exact h2.same
      · exact moves_stoppage h2.same _
    · exact h2.same
  unfold strobe strobeCommit; split
  · exact moves_commitPoint h3
  · exact h3

theorem moves_webReady (h : Moves ok s t) : Moves ok s (webReady t) := by
  unfold webReady readyCommit; split
  · exact moves_commitPoint h.same
  · exact h.same

theorem moves_startSweep (h : Moves ok s t) : Moves ok s (startSweep t) := by
  unfold startSweep; split
  · exact h
  · rename_i hw
    exact Moves.foldl (h.tail (.begun (by simpa using hw))) _ _ fun u i _ hu => hu.same

theorem moves_enterRunning (h : Moves ok s t) (jam : Bool) : Moves ok s (enterRunning jam t) := by
  have h0 : Moves ok s (raiseRun (setEngine .running { t with cut.jam := jam })) := h.same
  unfold enterRunning
  extract_lets c1 s1 s2 s3
  have h1 : Moves ok s (startSweep s1) := moves_startSweep h0
  have h2 : Moves ok s s2 := by unfold s2 releaseKnife; split <;> exact h1.same
  have h3 : Moves ok s s3 := by
    unfold s3; split
    · exact moves_stoppage h2 _
    · exact h2
  split
  · exact moves_webReady h3
  · exact h3

/-! ## Slot writes as they go out -/

theorem moves_issueWrite (h : Moves ok s t) (w : SlotWrite) : Moves ok s (issueWrite w t) := by
  have h1 : Moves ok s (emitWrite (slotOffset w.slot w.offset) w.size w.value t) := h.same
  unfold issueWrite; dsimp only; split
  · refine Moves.same (t := freeReturned w.slot (emitWrite (slotOffset w.slot w.offset) w.size w.value t)) ?_
    rcases freeReturned_cases w.slot (emitWrite (slotOffset w.slot w.offset) w.size w.value t) with he | ⟨j, p, -, hp, -, -, he⟩
    · rw [he]; exact h1
    · rw [he]; exact moves_freeOrder h1 hp
  · exact h1

theorem moves_issueList (l : List SlotWrite) (n : Nat) (h : Moves ok s t) : Moves ok s (issueList l n t) := by
  induction l generalizing n t with
  | nil => exact h.same rfl rfl rfl rfl
  | cons w r ih =>
    cases n with
    | zero => exact h.same rfl rfl rfl rfl
    | succ n => exact ih n (moves_issueWrite h w)

theorem moves_issueWaiting (h : Moves ok s t) (room : Option Nat) : Moves ok s (issueWaiting room t) := by
  unfold issueWaiting; split
  · exact Moves.same (moves_issueList _ _ h) rfl rfl rfl rfl
  · exact moves_issueList _ _ h

/-! ## Takes -/

theorem clearTake_sweep {w : Sweep} (hw : t.intake.sweep = some w) :
    (clearTake t).intake.sweep = some { w with taking := none, taken := none } := by
  unfold clearTake; rw [hw]

/-- What the end of a take leaves of the sweep, whatever was done in between (R11, R12). -/
theorem nextTake_next {w : Sweep} (hw : t.intake.sweep = some { w with taking := none, taken := none }) :
    ∃ v, w.Next v ∧ (nextTake t).intake.sweep = some v := by
  cases hc : w.candidates with
  | nil =>
    refine ⟨_, .stops, ?_⟩
    rw [nextTake_none hw hc, hw, ← hc]
  | cons c rest =>
    by_cases hb : t.eng.state = .running ∧ none ∈ t.plan.table
    · exact ⟨_, .begins hc, by rw [nextTake_begins hw hc hb]; simp⟩
    · exact ⟨_, .stops, by rw [nextTake_stops hw hc (by tauto)]⟩

/-- A take that is over with no order formed. -/
theorem moves_passTake (h : Moves ok s t) {w : Sweep} (hw : t.intake.sweep = some w)
    (sweep : u.intake.sweep = some { w with taking := none, taken := none } := by simp)
    (table : u.plan.table = t.plan.table := by simp)
    (limit : u.setup.params.remakeLimit = t.setup.params.remakeLimit := by simp)
    (pending : u.pending = t.pending := by simp) : Moves ok s (nextTake u) := by
  obtain ⟨v, hv, hn⟩ := nextTake_next sweep
  exact h.sweep hw (.passed hv) hn (by simpa using table) (by simpa using limit) (by simpa using pending)

theorem moves_admitOrder (h : Moves ok s t) {w : Sweep} (hw : t.intake.sweep = some w) {slot : Nat} {d : TakeData}
    (ht : w.taken = some (slot, d)) (hd : validate t.setup d = none) {i : Nat} (hi : freeContext (clearTake t) = some i) :
    Moves ok s (nextTake (admitOrder i slot d (clearTake t))) := by
  have hi' : freeContext t = some i := by unfold freeContext at hi ⊢; rwa [clearTake_plan] at hi
  have hlt : i < t.plan.table.length := (List.getElem?_eq_some_iff.1 (findFree_spec _ _ _ hi').2).1
  obtain ⟨v, hv, hn⟩ := nextTake_next (t := admitOrder i slot d (clearTake t)) (w := w) (by simp [clearTake_sweep hw])
  obtain ⟨o, ho⟩ : ∃ o, o = orderOf t.setup slot t.intake.takeSeq d := ⟨_, rfl⟩
  let x : State := { t with plan.table := t.plan.table.set i (some o), intake.sweep := some v }
  have hx : Moves ok s x := by
    have := h.tail (.admitted hw ht hd hi' t.intake.takeSeq hv)
    rwa [← ho] at this
  have hxo : getOrder x i = some o := by simp [x, getOrder, hlt]
  obtain ⟨y, hy⟩ : ∃ y, y = evalLow (pushPrice slot offEstimate (estimate t.setup o)
      (admissionWrites o (enterTable i o (clearTake t)))) := ⟨_, rfl⟩
  have hyt : y.plan.table = x.plan.table := by rw [hy]; simp [x, enterTable]
  have hadmit : admitOrder i slot d (clearTake t) = evalWaitOf y i := by
    rw [hy, ho]
    unfold admitOrder
    rw [clearTake_setup, clearTake_takeSeq]
  have hq : o.state = .queued := by rw [ho]; rfl
  have hyo : getOrder y i = some o := (getOrder_congr hyt i).trans hxo
  have hpending : (nextTake (admitOrder i slot d (clearTake t))).pending = x.pending := by simp [x]
  have hlimit : (nextTake (admitOrder i slot d (clearTake t))).setup.params.remakeLimit = x.setup.params.remakeLimit := by simp [x]
  by_cases hl : lacksPaper y o = true
  · refine hx.order hxo (.waited hq) ?_ hn hlimit hpending
    rw [nextTake_plan, hadmit, evalWaitOf_queued hyo hq, if_pos hl]
    simp [hyt]
  · refine hx.same ?_ hn hlimit hpending
    rw [nextTake_plan, hadmit, evalWaitOf_queued hyo hq, if_neg hl, hyt]

theorem moves_finishTake (h : Moves ok s t) {w : Sweep} (hw : t.intake.sweep = some w) {slot : Nat} {d : TakeData}
    (ht : w.taken = some (slot, d)) : Moves ok s (finishTake slot d t) := by
  have hc := clearTake_sweep hw
  unfold finishTake; dsimp only
  split
  · exact moves_passTake h hw (by simpa using hc)
  · rename_i hd
    split
    · exact moves_admitOrder h hw ht hd ‹_›
    · exact moves_passTake h hw hc

theorem moves_progress (h : Moves ok s t) (room : Option Nat) : Moves ok s (progress room t) := by
  refine moves_issueWaiting ?_ room
  unfold resumeTake; split
  · exact h
  · rename_i w hw
    split
    · rename_i slot d ht
      split
      · exact h
      · exact moves_finishTake h hw ht
    · exact h

theorem moves_takeReads (h : Moves ok s t) {result : TakeResult} (hr : ∀ d, result = .data d → ok d) :
    Moves ok s (takeReads result t) := by
  unfold takeReads; split
  · exact h
  · rename_i w hw
    split
    · exact h
    · rename_i slot hk
      dsimp only; split
      · rename_i d
        exact h.sweep hw (.read hk (hr d rfl)) (by simp [markTaken]) (by simp [markTaken]) (by simp [markTaken])
          (by simp [markTaken])
      · exact moves_passTake h hw (clearTake_sweep (by simpa using hw))

/-! ## Requests -/

theorem moves_dropRequest (h : Moves ok s t) (slot : Nat) : Moves ok s (dropRequest slot t) := by
  unfold dropRequest; split
  · exact h
  · rename_i w hw
    exact h.sweep hw (.noted (v := { w with requests := w.requests.filter (fun q => q.slot != slot) })
      ⟨rfl, rfl, rfl, rfl, rfl⟩)

/-- A request answered DONE is one that its order's state lets the planner take (R17). -/
theorem moves_handRequest (h : Moves ok s t) {r : Request} {i : Nat} {o : Order} (ho : getOrder t i = some o)
    (hd : answerOf r o.state = .done) : Moves ok s (handRequest r i o t) := by
  cases r with
  | hold =>
    refine moves_holdOrder h ho ?_
    revert hd; cases o.state <;> simp [answerOf]
  | release =>
    refine moves_releaseOrder h ho ?_
    revert hd; cases o.state <;> simp [answerOf]
  | cancel => exact moves_cancelOrder h i
  | other => exact h

theorem moves_answerRequest (h : Moves ok s t) (r : Request) (slot : Nat) (code number : Byte) :
    Moves ok s (answerRequest r slot code number t) := by
  unfold answerRequest; split
  · exact h
  · rename_i i _
    split
    · exact h
    · rename_i o ho
      split
      · exact h
      · extract_lets a o1 s1 s2
        have ho' : getOrder (dropRequest slot t) i = some o := (getOrder_congr (by simp) i).trans ho
        have h1 : Moves ok s s1 := moves_putNoted (moves_dropRequest h slot) ho' ⟨rfl, rfl, rfl, rfl, rfl, rfl, rfl⟩
        have h2 : Moves ok s s2 := by
          unfold s2; split
          · rename_i hd
            exact (moves_handRequest (o := o1) h1 (getOrder_set ho' _ s1 rfl) hd).same
          · exact h1.same
        split
        · exact h2.same
        · exact h2

/-! ## Sweep steps -/

/-- What step 1 keeps of the slots, one scan of each at most (R9). -/
theorem scans_nodup (s : State) (reads : List SlotRead) :
    ((reads.zipIdx.filterMap (fun x => scanOf s x.2 x.1)).map SlotScan.slot).Nodup := by
  have hsub : ((reads.zipIdx.filterMap (fun x => scanOf s x.2 x.1)).map SlotScan.slot).Sublist (reads.zipIdx.map Prod.snd) := by
    generalize reads.zipIdx = l
    induction l with
    | nil => exact List.Sublist.refl _
    | cons x r ih =>
      cases hx : scanOf s x.2 x.1 with
      | none => simpa [hx] using ih.cons x.2
      | some y =>
        have hy : y.slot = x.2 := by
          obtain ⟨_, -, rfl⟩ := Option.map_eq_some_iff.1 hx
          rfl
        simpa [hx, hy] using ih.cons_cons x.2
  refine hsub.nodup ?_
  rw [List.zipIdx_map_snd]
  exact List.nodup_range'

theorem moves_endStepOne (h : Moves ok s t) (reads : List SlotRead) {w : Sweep} (hw : t.intake.sweep = some w)
    (h1 : w.step = .one) : Moves ok s (endStepOne reads w t) := by
  exact h.sweep hw (.scanned h1 (scans_nodup t (reads.take Config.slots))
      ((reads.take Config.slots).zipIdx.filterMap (fun x => newRequest t x.2 x.1)))
    (by simp [endStepOne]) (by simp [endStepOne]) (by simp [endStepOne]) (by simp [endStepOne])

theorem moves_checkSlot (h : Moves ok s t) (x : SlotScan) : Moves ok s (checkSlot t x) := by
  unfold checkSlot; split
  · split
    · exact moves_detachOrder h _
    · exact h
  · split
    · exact h.same
    · exact h

theorem moves_setStep (h : Moves ok s t) {st : SweepStep} (hst : st ≠ .four)
    (hfour : ∀ w, t.intake.sweep = some w → w.step = .four → w.taking = none ∧ w.taken = none) :
    Moves ok s (setStep st t) := by
  unfold setStep; split
  · exact h
  · rename_i w hw
    exact h.sweep hw (.stepped hst (hfour w hw))

theorem moves_endStepTwo (h : Moves ok s t) {w : Sweep} (hw : t.intake.sweep = some w) (h2 : w.step = .two) :
    Moves ok s (endStepTwo w t) := by
  have h1 : Moves ok s (issueWaiting none (answerAll w.requests t)) :=
    moves_issueWaiting (h.foldl _ _ fun _ q _ hu => moves_answerRequest hu _ _ _ _) none
  refine Moves.foldl (moves_setStep h1 (by decide) fun v hv hfour => ?_) _ _ fun _ x _ hu => moves_checkSlot hu x
  have hplace : sweepPlace (issueWaiting none (answerAll w.requests t)) = sweepPlace t :=
    (sweepPlace_congr (s := answerAll w.requests t) (by simp)).trans (answerAll_place _ _)
  unfold sweepPlace at hplace
  rw [hv, hw, Option.map_some, Option.map_some, hfour, h2] at hplace
  cases hplace

/-- A slot that some order stands for is held (R5). -/
theorem holdsSlot_of_mem {k : Nat} (h : k ∈ heldSlots s) : holdsSlot s k = true := by
  have hfind : ∀ (l : List (Option Order)) (n : Nat), k ∈ l.filterMap (Option.map Order.slot) → (findSlot k l n).isSome = true := by
    intro l
    induction l with
    | nil => intro n h; cases h
    | cons x r ih =>
      intro n h
      cases x with
      | none => exact ih (n + 1) h
      | some o =>
        simp only [findSlot]
        split
        · rfl
        · rename_i hne
          exact ih (n + 1) ((List.mem_cons.1 h).resolve_left fun he => hne he.symm)
  simp [holdsSlot, orderOfSlot, hfind s.plan.table 0 h]

theorem moves_endStepThree (h : Moves ok s t) {w : Sweep} (hw : t.intake.sweep = some w) (h3 : w.step = .three) :
    Moves ok s (endStepThree w t) := by
  have hfree : ∀ k ∈ candidates t w.scans, k ∉ heldSlots t := fun k hk hh => by
    obtain ⟨-, -, -, -, hhold, -⟩ := (candidates_mem t w.scans k).1 hk
    rw [holdsSlot_of_mem hh] at hhold
    cases hhold
  have hnd (hs : (w.scans.map SlotScan.slot).Nodup) : (candidates t w.scans).Nodup := by
    rw [candidates_eq]
    exact ((insertedCandidates_perm _).map Prod.fst).nodup_iff.2 (candidateSlots_nodup hs)
  obtain ⟨cs, hcs, u, hu, htable, he⟩ : ∃ cs, (cs = [] ∨ cs = candidates t w.scans) ∧ ∃ u : State,
      u.intake.sweep = some { w with step := .four, candidates := cs }
      ∧ (u.plan = t.plan ∧ u.setup = t.setup ∧ u.pending = t.pending) ∧ endStepThree w t = nextTake u := by
    refine ⟨if t.eng.state = .running ∧ w.barred = false then candidates t w.scans else [], ?_,
      { t with
        intake.lostPending := false
        intake.sweep := some { w with
          step := .four
          candidates := if t.eng.state = .running ∧ w.barred = false then candidates t w.scans else [] } },
      rfl, ⟨rfl, rfl, rfl⟩, rfl⟩
    split
    · exact .inr rfl
    · exact .inl rfl
  obtain ⟨hplan, hsetup, hpending⟩ := htable
  rw [he]
  cases cs with
  | nil =>
    rw [nextTake_none hu rfl]
    exact h.sweep hw (.noneListed h3) hu (by rw [hplan]) (by rw [hsetup]) hpending
  | cons c rest =>
    have hc : candidates t w.scans = c :: rest := (hcs.resolve_left (List.cons_ne_nil _ _)).symm
    rw [hc] at hfree hnd
    by_cases hb : u.eng.state = .running ∧ none ∈ u.plan.table
    · rw [nextTake_begins hu rfl hb]
      exact h.sweep hw (.listed h3 hnd hfree) (by simp) (by simp [hplan]) (by simp [hsetup]) (by simp [hpending])
    · rw [nextTake_stops hu rfl (by tauto)]
      exact h.sweep hw (.noneListed h3) rfl (by simp [hplan]) (by simp [hsetup]) (by simp [hpending])

theorem moves_endSweep (h : Moves ok s t) : Moves ok s (endSweep t) := by
  unfold endSweep; split
  · exact h
  · split
    · exact h.sweep ‹_› .ended
    · exact h

theorem moves_sweepStep (h : Moves ok s t) (reads : List SlotRead) : Moves ok s (sweepStep reads t) := by
  unfold sweepStep; split
  · have h1 := moves_issueWaiting h none
    unfold beginStep; split
    · exact h1
    · rename_i w hw
      split
      · exact moves_endStepOne h1 reads hw ‹_›
      · exact moves_endStepTwo h1 hw ‹_›
      · exact moves_endStepThree h1 hw ‹_›
      · split
        · rename_i htakes
          have h5 := moves_setStep h1 (st := .five) (by decide) fun v hv _ => by
            obtain rfl := Option.some.inj (hw.symm.trans hv)
            exact htakes
          unfold readCell; split
          · exact h5
          · exact h5.same
        · exact h1
      · exact moves_endSweep h1
  · exact h

/-! ## The cell, returns and write faults -/

theorem moves_cellReadDone (h : Moves ok s t) (r : CellResult) : Moves ok s (cellReadDone r t) := by
  unfold cellReadDone; split
  · split
    · exact moves_endSweep h.same
    · exact h
  · split
    · dsimp only; split
      · exact h.same
      · exact moves_endSweep h.same
    · exact h

theorem moves_cellRequest (h : Moves ok s t) (a : CellAnswer) (effect : State → State)
    (he : Moves ok s t → Moves ok s (effect t)) : Moves ok s (cellRequest a effect t) := by
  unfold cellRequest; split
  · refine moves_endSweep ?_
    split
    · exact (he h).same
    · exact h.same
  · exact h

theorem moves_beginReturn (h : Moves ok s t) {i : Nat} {o p : Order} (ho : getOrder t i = some o) (hp : o.Noted p) :
    Moves ok s (beginReturn i p t) := by
  refine Moves.same (t := oweAnswer p.slot i p t) ?_ (by simp [beginReturn]) (by simp [beginReturn]) (by simp [beginReturn])
    (by simp [beginReturn])
  unfold oweAnswer; split
  · exact h
  · split
    · rename_i q _
      have ho' : getOrder (dropRequest p.slot t) i = some o := (getOrder_congr (by simp) i).trans ho
      have hn : o.Noted { p with answered := q.number } :=
        ⟨hp.slot, hp.state, hp.heldFrom, hp.entries, hp.remakes, hp.cancelled, hp.detached⟩
      exact (moves_putNoted (moves_dropRequest h _) ho' hn).same
    · exact h

theorem moves_slotReturn (h : Moves ok s t) (slot : Nat) : Moves ok s (slotReturn slot t) := by
  unfold slotReturn; split
  · exact h
  · split
    · exact h
    · rename_i o ho
      split
      · split
        · exact moves_putNoted h ho ⟨rfl, rfl, rfl, rfl, rfl, rfl, rfl⟩
        · exact moves_beginReturn h ho ⟨rfl, rfl, rfl, rfl, rfl, rfl, rfl⟩
      · exact h

theorem moves_returnsAfterLoad (h : Moves ok s t) : Moves ok s (returnsAfterLoad t) := by
  unfold returnsAfterLoad; split
  · exact h
  · refine h.foldl _ _ fun u i _ hu => ?_
    unfold returnDueOf; split
    · exact hu
    · rename_i o ho
      split
      · have h1 : Moves ok s (putOrder i (some { o with returnDue := false }) u) :=
          moves_putNoted hu ho ⟨rfl, rfl, rfl, rfl, rfl, rfl, rfl⟩
        exact moves_beginReturn h1 (getOrder_set ho _ _ rfl) ⟨rfl, rfl, rfl, rfl, rfl, rfl, rfl⟩
      · exact hu

theorem moves_slotWriteError (h : Moves ok s t) (slot offset : Nat) (standing : WriteStanding) :
    Moves ok s (slotWriteError slot offset standing t) := by
  have h1 : Moves ok s (recordFault .slotWrite slot (jobAddr t (slotOffset slot offset)) t) := h.same
  unfold slotWriteError; dsimp only; split
  · exact h
  · exact h1
  · unfold failWrite; split
    · split
      · unfold failTaken; split
        · exact h1
        · rename_i o ho
          split
          · exact moves_freeOrder h1.same (o := o) ((getOrder_congr (by simp) _).trans ho)
          · exact moves_detachOrder h1 _
      · exact moves_detachOrder h1 _
    · split
      · cases hw : (recordFault .slotWrite slot (jobAddr t (slotOffset slot offset)) t).intake.sweep with
        | none =>
          unfold nextTake clearTake
          rw [hw]; dsimp only
          rw [hw]; exact h1
        | some w => exact moves_passTake h1 hw (clearTake_sweep hw)
      · exact h1.same

/-! ## The setup store, register writes and resets -/

/-- Of what a read of a load stores, the parameters have the value alone, not the clamp or a product's flag. -/
theorem storeField_params (f : SetupField) (raw : Nat) (x : Setup) :
    (storeField f raw x).params = (storeValue f (fieldValue f (raw % 2 ^ (8 * f.size))).1 x).params := by
  have hrefused (g : SetupGroup) (y : Setup) : (noteRefused g y).params = y.params := by unfold noteRefused; split <;> rfl
  have hclamp (c : Bool) (y : Setup) : (noteClamp f c y).params = y.params := by
    unfold noteClamp; split
    · rw [hrefused]
    · rfl
  unfold storeField; dsimp only; split
  · unfold flagProduct; dsimp only; split
    · rw [hrefused]; exact hclamp _ _
    · exact hclamp _ _
  · exact hclamp _ _

/-- The remake limit stays at most 3 (2.2.2). -/
theorem SetupStep.limit {x y : Setup} (h : SetupStep x y) (hx : x.params.remakeLimit ≤ 3) : y.params.remakeLimit ≤ 3 := by
  cases h with
  | recoded => exact hx
  | stored f raw st cur =>
    change (storeField f raw x).params.remakeLimit ≤ 3
    rw [storeField_params]
    cases f with
    | param p =>
      have hv := (fieldValue_mem (f := .param p) (r := p.range) rfl (raw % 2 ^ (8 * (SetupField.param p).size))).2
      have hg := getParam_setParam p .remakeLimit (fieldValue (.param p) (raw % 2 ^ (8 * (SetupField.param p).size))).1 x.params
      refine (le_of_eq hg).trans ?_
      split
      · rename_i hp
        subst hp; exact hv
      · exact hx
    | _ => exact hx
  | reset => decide

theorem moves_setupRead (h : Moves ok s t) (result : Option (BitVec 64)) : Moves ok s (setupRead result t) := by
  unfold setupRead; split
  · rename_i f _
    refine moves_returnsAfterLoad (Moves.same (t := loadRead f result t) ?_)
    exact h.tail (.other (by simp) (by simp) (setupStep_loadRead f result t).limit (by simp))
  · exact h

theorem moves_enterHalted (h : Moves ok s t) : Moves ok s (enterHalted t) := by
  have hlimit : (enterHalted t).setup.params.remakeLimit = t.setup.params.remakeLimit := by
    rw [enterHalted_setup]; unfold cutLoad; split <;> rfl
  cases hw : t.intake.sweep with
  | none => exact h.same rfl (by rw [hw]; rfl) hlimit rfl
  | some w => exact h.sweep hw .ended rfl rfl hlimit rfl

theorem moves_takeArea (h : Moves ok s t) (base : Long) : Moves ok s (takeArea base t) := by
  unfold takeArea; split
  · cases hw : t.intake.sweep with
    | none => exact h.same rfl (by rw [hw]) rfl rfl
    | some w => exact h.sweep hw .ended rfl rfl rfl rfl
  · exact h.same

theorem moves_stopEngine (h : Moves ok s t) : Moves ok s (stopEngine t) := by
  unfold stopEngine; split
  · have h1 : Moves ok s (dropCandidates (setEngine .stopping t)) := moves_dropCandidates h.same
    exact moves_clearReport h1.same
  · exact moves_enterStopped h
  · exact h.same

/-- A reset leaves no order and no sweep, and the queue of commands as it is (R190, R191). -/
theorem moves_reset (h : Moves ok s t) (table : u.plan.table = List.replicate 16 none := by rfl)
    (sweep : u.intake.sweep = none := by rfl) (limit : t.setup.params.remakeLimit ≤ 3 → u.setup.params.remakeLimit ≤ 3)
    (pending : u.pending = t.pending := by rfl) : Moves ok s u :=
  Relation.ReflTransGen.tail (h.tail .reset) (.other table sweep limit pending)

theorem moves_softReset (h : Moves ok s t) : Moves ok s (softReset t) := by
  have h1 : Moves ok s (softValues t) := moves_reset h (limit := (setupStep_cutLoad t.setup).limit)
  exact h1.same (by simp [softReset]) (by simp [softReset]) (by simp [softReset]) (by simp [softReset])

/-! ## Every command -/

theorem moves_perform (h : Moves ok s t) {room : Option Nat} {f : State → State}
    (hf : ∀ u, Moves ok s u → Moves ok s (f u)) : Moves ok s (perform room f t) := by
  unfold perform
  exact (moves_progress (hf (clearOut t) h.same) room).same

theorem moves_act (h : Moves ok s t) {room : Option Nat} {f : State → State}
    (hf : ∀ u, Moves ok s u → Moves ok s (f u)) : Moves ok s (act room f t) := by
  unfold act; split
  · exact moves_perform h hf
  · exact h.same

theorem moves_actPin (h : Moves ok s t) {level f : State → State} (hl : ∀ u, Moves ok s u → Moves ok s (level u))
    (hf : ∀ u, Moves ok s u → Moves ok s (f u)) : Moves ok s (actPin level f t) := by
  unfold actPin; split
  · exact moves_perform h fun u hu => hf _ (hl u hu)
  · exact hl (clearOut t) h.same

theorem moves_recordChanged (h : Moves ok s t) : Moves ok s (recordChanged t) := moves_evalWait h.same

theorem moves_completeChange (h : Moves ok s t) (m : Mag) : Moves ok s (completeChange m t) := by
  have h1 : Moves ok s { endChange t with paper.active := m, plan.switchFlag := false } := h.same
  have h2 : Moves ok s (forgetWaiting { endChange t with paper.active := m, plan.switchFlag := false }) :=
    h1.tail (.noted fun o => ⟨rfl, rfl, rfl, rfl, rfl, rfl, rfl⟩)
  unfold completeChange
  exact h2.same

theorem moves_statusRead (h : Moves ok s t) (hu : execStatusRead t = .next u) : Moves ok s u := by
  unfold execStatusRead at hu
  obtain rfl := Host.Outcome.next.inj hu
  split
  · split
    · exact moves_perform h fun u hu => hu.same
    · exact h.same
  · exact h.same

/-- A command is a chain of changes, where the values that a take's reads bring are ok. -/
theorem moves_exec {c : Instr} (hc : ∀ d room stale, c = .takeReadsComplete (.data d) room stale → ok d)
    (ht : exec c s = .next t) : Moves ok s t := by
  have h : Moves ok s s := .refl
  cases c
  case statusRead => exact moves_statusRead h ht
  all_goals obtain rfl := Host.Outcome.next.inj ht
  case softReset =>
    split
    · exact moves_softReset h
    · exact h.same
  case powerOnReset stable => exact moves_reset h (limit := SetupStep.reset.limit)
  case pinReset => exact moves_reset h (limit := (setupStep_cutLoad s.setup).limit)
  case resetLineAsserted => exact moves_reset h (limit := (setupStep_cutLoad s.setup).limit)
  case presentSensorInactive m =>
    exact moves_actPin h (fun u hu => hu.same) fun u hu => moves_recordChanged hu.same
  case presentSensorActive m => exact moves_actPin h (fun u hu => hu.same) fun u hu => hu
  case webReadyRise =>
    refine moves_actPin h (fun u hu => hu.same) fun u hu => ?_
    split
    · exact moves_webReady hu
    · exact hu
  case webReadyFall =>
    refine moves_actPin h (fun u hu => hu.same) fun u hu => ?_
    split
    · exact moves_stoppage hu _
    · exact hu
  case knifeHomeSensor active => exact moves_actPin h (fun u hu => hu.same) fun u hu => moves_homeChange hu active
  case jamSensorActive =>
    refine moves_actPin h (fun u hu => hu.same) fun u hu => ?_
    split
    · exact moves_stoppage hu _
    · exact hu
  all_goals refine moves_act h fun u hu => ?_
  case areaWrite value =>
    split
    · exact moves_takeArea hu _
    · exact hu.same
  case go jam =>
    split
    · exact moves_enterRunning hu jam
    · exact hu.same
  case stop => exact moves_stopEngine hu
  case loadSetup =>
    split
    · exact hu.tail (.other (by simp) (by simp) (setupStep_startLoad u).limit (by simp))
    · exact hu.same
  case nudge =>
    split
    · exact (moves_startSweep hu).same
    · exact hu.same
  case refusedControlValue | ignoredRegisterWrite | punchEnd | pulseEnd | gateArrival => exact hu.same
  case sweepTimerExpiry =>
    split
    · exact moves_startSweep hu.same
    · exact hu
  case cellPollExpiry =>
    split
    · split
      · exact hu.same
      · exact hu.same
    · exact hu
  case sweepStepComplete reads room => exact moves_sweepStep hu reads
  case hold | release | cancel | slotRequestNotApplicable => exact moves_answerRequest hu _ _ _ _
  case takeReadsComplete result room stale =>
    split
    · exact hu
    · exact moves_takeReads hu fun d hd => hc d room stale (by rw [hd])
  case slotWriteFault slot offset standing => exact moves_slotWriteError hu _ _ _
  case statusBlockWriteError beforeReset =>
    split
    · exact hu
    · exact moves_enterHalted hu
  case machineRequestCellRead result stale =>
    split
    · exact hu
    · exact moves_cellReadDone hu result
  case loadPaper | clearPaper =>
    refine moves_cellRequest hu _ _ fun hu => ?_
    split
    · exact moves_recordChanged hu.same
    · exact hu
  case resume jam => exact moves_cellRequest hu _ _ fun hu => moves_enterRunning hu jam
  case changeoverNow | releaseBin | machineRequestNotApplicable => exact moves_cellRequest hu _ _ fun hu => hu.same
  case idleTimerExpiry =>
    split
    · dsimp only; split <;> exact hu.same
    · exact hu
  case slotReturn slot room => exact moves_slotReturn hu _
  case setupReadComplete result stale =>
    split
    · exact hu
    · exact moves_setupRead hu result
  case changeDone =>
    split
    · exact moves_completeChange hu _
    · exact hu
  case changeoverTimerExpiry | strobeSupervisionExpiry =>
    split
    · exact moves_stoppage hu.same _
    · exact hu
  case lineStrobe paper good => exact moves_strobe hu paper good
  case ratePeriod => split <;> [exact hu.same; exact hu]
  case lampBlinkToggle => split <;> exact hu.same
  case lineReadIssue => exact moves_issueRead hu
  case lineReadComplete place result => exact moves_drainReads _ hu.same
  case knifeTimerExpiry => exact moves_strokeExpiry hu
  case mark => exact moves_takeMark hu
  case webClear => exact moves_clearReport hu
  case deliveryConfirmation bin => exact moves_confirm hu bin
  case sorterDeadline => exact moves_expireLane _ hu.same
  case keyScanSample pressed => dsimp only; exact hu.same

/-! ## The obligations -/

/-- A step is a chain of changes from the state whose queue has lost its front command. -/
theorem moves_step (hc : ∀ d room stale, s.pending.head? = some (.takeReadsComplete (.data d) room stale) → ok d)
    (ht : step s = .next t) : Moves ok { s with pending := s.pending.tail } t := by
  unfold step at ht; split at ht
  · rename_i hp
    have hs : { s with pending := s.pending.tail } = s := by rw [show s.pending.tail = s.pending by rw [hp]; rfl]
    obtain rfl := Host.Outcome.next.inj ht
    rw [hs]
    exact moves_act (f := tick) .refl fun u hu => hu.same
  · rename_i c rest hp
    rw [show s.pending.tail = rest by rw [hp]; rfl]
    exact moves_exec (fun d room stale he => hc d room stale (by rw [hp, he]; rfl)) ht

/-- Settles O54: each change that a step is made of keeps the orders sound. -/
theorem ordersStaySound : Obligations.OrdersStaySound := by
  intro s t h ht
  have hpending := h.commands.pending
  have hread : ∀ d room stale, s.pending.head? = some (.takeReadsComplete (.data d) room stale) →
      (TakeResult.data d).wellFormed = true := fun d room stale hd => hpending _ (List.mem_of_mem_head? hd)
  refine (moves_step hread ht).keeps (fun _ _ h hm => h.move hm) ?_
  exact ⟨h.sound, h.limit, fun c hc => hpending c (List.mem_of_mem_tail hc), h.commands.taken⟩

/-- Settles O55: each change that a step is made of keeps the slots distinct, whatever values its commands bring. -/
theorem slotsStayDistinct : Obligations.SlotsStayDistinct := by
  intro s t h ht
  refine (moves_step (ok := fun _ => True) (fun _ _ _ _ => trivial) ht).keeps (fun _ _ h hm => h.move hm) ?_
  exact ⟨h.contexts, h.distinct, h.scans, h.four, h.idle, h.one⟩

end Sys2Proof.Machine
end


section
/-! What the choice picks: the rules over the orders of the queue, the forced switch and the start of an order (R57, R59 to
R64, R155), and the obligations on the fit and on the choice. -/

open Sys2Proof Sys2Proof.Machine

namespace Sys2Proof.Machine

set_option Elab.async false

variable {s t : State}

/-! ## What fits a magazine (R57, R59, R60) -/

theorem fits_iff (m : Magazine) (e : Entry) :
    fits m e = true ↔ m.loaded = true ∧ m.width = e.width ∧ e.length + 400 ≤ m.remaining := by
  unfold fits
  rw [Bool.and_eq_true, Bool.and_eq_true, beq_iff_eq, decide_eq_true_eq, and_assoc]
  exact Iff.rfl

/-- Entry k of the order fits the magazine. -/
def Order.FitsAt (o : Order) (m : Magazine) (k : Nat) : Prop := ∃ e, o.entries[k]? = some e ∧ fits m e = true

/-- Entry k of the order has an unstarted copy, of a product that the store defines and finds usable. -/
def Order.FreeAt (o : Order) (x : Setup) (k : Nat) : Prop := ∃ e, o.entries[k]? = some e ∧ o.remakes.count k < e.t
  ∧ (getProduct x e.product).isDefined = true ∧ (getProduct x e.product).usable = true

theorem fitsAt_iff (o : Order) (m : Magazine) (k : Nat) : (o.entries[k]?).any (fits m) = true ↔ o.FitsAt m k := by
  unfold Order.FitsAt
  cases o.entries[k]? <;> simp

theorem startAt_iff (o : Order) (x : Setup) (m : Magazine) (k : Nat) :
    (decide (0 < unstarted o k) && (o.entries[k]?).any (fun e => fits m e && startable x e)) = true ↔
      o.FitsAt m k ∧ o.FreeAt x k := by
  unfold Order.FitsAt Order.FreeAt
  cases he : o.entries[k]? with
  | none => simp
  | some e => simp [unstarted_pos he, startable, and_left_comm]

theorem fittingRemake_eq (m : Magazine) (o : Order) :
    fittingRemake m o = o.remakes.find? (fun k => (o.entries[k]?).any (fits m)) := by
  unfold fittingRemake
  congr; funext k
  cases o.entries[k]? <;> rfl

theorem fittingCopy_eq (x : Setup) (m : Magazine) (o : Order) : fittingCopy x m o = (List.range o.entries.length).find?
    (fun k => decide (0 < unstarted o k) && (o.entries[k]?).any (fun e => fits m e && startable x e)) := by
  unfold fittingCopy
  congr; funext k
  cases o.entries[k]? <;> rfl

theorem fittingRemake_first {m : Magazine} {o : Order} {ei : Nat} (h : fittingRemake m o = some ei) :
    ∃ x y, o.remakes = x ++ ei :: y ∧ o.FitsAt m ei ∧ ∀ k ∈ x, ¬o.FitsAt m k := by
  rw [fittingRemake_eq, List.find?_eq_some_iff_append] at h
  simp only [Bool.not_eq_true', ← Bool.not_eq_true, fitsAt_iff] at h
  obtain ⟨hp, x, y, hr, hx⟩ := h
  exact ⟨x, y, hr, hp, hx⟩

theorem fittingRemake_eq_none (m : Magazine) (o : Order) : fittingRemake m o = none ↔ ¬∃ k ∈ o.remakes, o.FitsAt m k := by
  simp only [fittingRemake_eq, List.find?_eq_none, fitsAt_iff, not_exists, not_and]

theorem fittingCopy_first {x : Setup} {m : Magazine} {o : Order} {ei : Nat} (h : fittingCopy x m o = some ei) :
    o.FitsAt m ei ∧ o.FreeAt x ei ∧ ∀ k < ei, ¬(o.FitsAt m k ∧ o.FreeAt x k) := by
  rw [fittingCopy_eq, List.find?_range_eq_some] at h
  simp only [Bool.not_eq_true', ← Bool.not_eq_true, startAt_iff] at h
  obtain ⟨⟨hfit, hfree⟩, -, hlow⟩ := h
  exact ⟨hfit, hfree, hlow⟩

theorem fittingCopy_eq_none (x : Setup) (m : Magazine) (o : Order) :
    fittingCopy x m o = none ↔ ¬∃ k, o.FitsAt m k ∧ o.FreeAt x k := by
  simp only [fittingCopy_eq, List.find?_eq_none, startAt_iff, List.mem_range]
  constructor
  · rintro h ⟨k, ⟨e, he, hf⟩, hfree⟩
    exact h k (List.getElem?_eq_some_iff.1 he).1 ⟨⟨e, he, hf⟩, hfree⟩
  · exact fun h k _ hk => h ⟨k, hk⟩

/-! ## The orders of the queue (R43) -/

theorem mem_ordersIn_iff {st : OrderState} {i : Nat} {o : Order} :
    (i, o) ∈ ordersIn st s ↔ i ∈ s.plan.queue ∧ getOrder s i = some o ∧ o.state = st := by
  simp only [ordersIn, queueOrders, List.mem_filter, List.mem_filterMap, Option.map_eq_some_iff, beq_iff_eq, Prod.mk.injEq]
  constructor
  · rintro ⟨⟨j, hj, p, hp, rfl, rfl⟩, hs⟩
    exact ⟨hj, hp, hs⟩
  · rintro ⟨hj, hp, hs⟩
    exact ⟨⟨i, hj, o, hp, rfl, rfl⟩, hs⟩

variable {β : Type} {f : Nat × Order → Option β} {st : OrderState}

/-- What is found among the orders in a state is found at the first order of the queue that offers it. -/
theorem ordersIn_findSome_some {b : β} (h : (ordersIn st s).findSome? f = some b) :
    ∃ before after i o, s.plan.queue = before ++ i :: after ∧ getOrder s i = some o ∧ o.state = st ∧ f (i, o) = some b
      ∧ ∀ j ∈ before, ∀ p, getOrder s j = some p → p.state = st → f (j, p) = none := by
  obtain ⟨l₁, ⟨i, o⟩, l₂, hl, hb, hnone⟩ := List.findSome?_eq_some_iff.1 h
  obtain ⟨ho, hs⟩ := mem_ordersIn (x := (i, o)) (hl ▸ List.mem_append_right _ (List.mem_cons_self ..))
  rw [ordersIn, queueOrders, List.filter_filterMap] at hl
  obtain ⟨q₁, q₂, hq, h₁, h₂⟩ := List.filterMap_eq_append_iff.1 hl
  obtain ⟨p₁, k, after, hq₂, hskip, hk, -⟩ := List.filterMap_eq_cons_iff.1 h₂
  obtain rfl : k = i := by
    rw [Option.filter_eq_some_iff] at hk
    obtain ⟨p, -, he⟩ := Option.map_eq_some_iff.1 hk.1
    exact congrArg Prod.fst he
  refine ⟨q₁ ++ p₁, after, k, o, by rw [hq, hq₂, List.append_assoc], ho, hs, hb, fun j hj p hp hps => ?_⟩
  have hjp : Option.filter (fun x : Nat × Order => x.2.state == st) ((getOrder s j).map (fun o => (j, o))) = some (j, p) := by
    rw [hp, Option.filter_eq_some_iff]; exact ⟨rfl, by simp [hps]⟩
  rcases List.mem_append.1 hj with hj | hj
  · exact hnone _ (h₁ ▸ List.mem_filterMap.2 ⟨j, hj, hjp⟩)
  · rw [hskip j hj] at hjp; cases hjp

theorem ordersIn_findSome_none : (ordersIn st s).findSome? f = none ↔
    ∀ j ∈ s.plan.queue, ¬∃ p, getOrder s j = some p ∧ p.state = st ∧ f (j, p) ≠ none := by
  rw [List.findSome?_eq_none_iff]
  constructor
  · rintro h j hj ⟨p, hp, hs, hn⟩
    exact hn (h (j, p) (mem_ordersIn_iff.2 ⟨hj, hp, hs⟩))
  · rintro h ⟨j, p⟩ hx
    obtain ⟨hj, hp, hs⟩ := mem_ordersIn_iff.1 hx
    by_contra hn
    exact h j hj ⟨p, hp, hs, hn⟩

theorem ordersIn_any {f : Nat × Order → Bool} : (ordersIn st s).any f = true ↔
    ∃ j ∈ s.plan.queue, ∃ p, getOrder s j = some p ∧ p.state = st ∧ f (j, p) = true := by
  rw [List.any_eq_true]
  constructor
  · rintro ⟨⟨j, p⟩, hx, hf⟩
    obtain ⟨hj, hp, hs⟩ := mem_ordersIn_iff.1 hx
    exact ⟨j, hj, p, hp, hs, hf⟩
  · rintro ⟨j, hj, p, hp, hs, hf⟩
    exact ⟨(j, p), mem_ordersIn_iff.2 ⟨hj, hp, hs⟩, hf⟩

/-! ## What each rule finds in one context -/

/-- The context holds an order in this state with a remake that fits the magazine. -/
def RemakeAt (s : State) (m : Magazine) (st : OrderState) (j : Nat) : Prop :=
  ∃ p, getOrder s j = some p ∧ p.state = st ∧ ∃ k ∈ p.remakes, p.FitsAt m k

/-- The context holds an order in this state with an unstarted copy that fits the magazine. -/
def CopyAt (s : State) (m : Magazine) (st : OrderState) (j : Nat) : Prop :=
  ∃ p, getOrder s j = some p ∧ p.state = st ∧ ∃ k, p.FitsAt m k ∧ p.FreeAt s.setup k

/-- The context holds a QUEUED order with a copy that fits the magazine and with the FREE bins that it needs. -/
def StartAt (s : State) (m : Magazine) (j : Nat) : Prop :=
  ∃ p, getOrder s j = some p ∧ p.state = .queued ∧ (copiesTotal p + 99) / 100 ≤ (freeBins s).length
    ∧ ∃ k, p.FitsAt m k ∧ p.FreeAt s.setup k

theorem binsFor_iff (s : State) (o : Order) : binsFor s o = true ↔ (copiesTotal o + 99) / 100 ≤ (freeBins s).length := by
  rw [binsFor, decide_eq_true_eq]; rfl

theorem map_ne_none {α γ : Type} {g : α → γ} (x : Option α) : x.map g ≠ none ↔ x ≠ none := by simp

theorem fittingRemake_ne_none (m : Magazine) (o : Order) : fittingRemake m o ≠ none ↔ ∃ k ∈ o.remakes, o.FitsAt m k :=
  (fittingRemake_eq_none m o).not_left

theorem fittingCopy_ne_none (x : Setup) (m : Magazine) (o : Order) :
    fittingCopy x m o ≠ none ↔ ∃ k, o.FitsAt m k ∧ o.FreeAt x k := (fittingCopy_eq_none x m o).not_left

theorem start_ne_none {γ : Type} {g : Nat → γ} (s : State) (m : Magazine) (o : Order) :
    (if binsFor s o then (fittingCopy s.setup m o).map g else none) ≠ none ↔
      (copiesTotal o + 99) / 100 ≤ (freeBins s).length ∧ ∃ k, o.FitsAt m k ∧ o.FreeAt s.setup k := by
  rw [← fittingCopy_ne_none, ← binsFor_iff]
  cases binsFor s o <;> simp

theorem chooseRemake_none : chooseRemake s = none ↔ ∀ j ∈ s.plan.queue, ¬RemakeAt s (activeMag s) .active j := by
  simp only [chooseRemake, ordersIn_findSome_none, map_ne_none, fittingRemake_ne_none, RemakeAt]

theorem chooseCopy_none : chooseCopy s = none ↔ ∀ j ∈ s.plan.queue, ¬CopyAt s (activeMag s) .active j := by
  simp only [chooseCopy, ordersIn_findSome_none, map_ne_none, fittingCopy_ne_none, CopyAt]

theorem chooseStart_none : chooseStart s = none ↔ ∀ j ∈ s.plan.queue, ¬StartAt s (activeMag s) j := by
  simp only [chooseStart, ordersIn_findSome_none, start_ne_none, StartAt]

theorem chooseRemake_first {i ei : Nat} (h : chooseRemake s = some (i, ei)) :
    ∃ before after o, s.plan.queue = before ++ i :: after ∧ getOrder s i = some o ∧ o.state = .active
      ∧ (∃ x y, o.remakes = x ++ ei :: y ∧ o.FitsAt (activeMag s) ei ∧ ∀ k ∈ x, ¬o.FitsAt (activeMag s) k)
      ∧ ∀ j ∈ before, ¬RemakeAt s (activeMag s) .active j := by
  obtain ⟨before, after, j, o, hq, ho, hs, hf, hb⟩ := ordersIn_findSome_some h
  obtain ⟨_, hr, he⟩ := Option.map_eq_some_iff.1 hf
  cases he
  refine ⟨before, after, o, hq, ho, hs, fittingRemake_first hr, fun k hk ⟨p, hp, hps, hm⟩ => ?_⟩
  exact (map_ne_none _).2 ((fittingRemake_ne_none _ p).2 hm) (hb k hk p hp hps)

theorem chooseCopy_first {i ei : Nat} (h : chooseCopy s = some (i, ei)) :
    ∃ before after o, s.plan.queue = before ++ i :: after ∧ getOrder s i = some o ∧ o.state = .active
      ∧ o.FitsAt (activeMag s) ei ∧ o.FreeAt s.setup ei
      ∧ (∀ k < ei, ¬(o.FitsAt (activeMag s) k ∧ o.FreeAt s.setup k)) ∧ ∀ j ∈ before, ¬CopyAt s (activeMag s) .active j := by
  obtain ⟨before, after, j, o, hq, ho, hs, hf, hb⟩ := ordersIn_findSome_some h
  obtain ⟨_, hc, he⟩ := Option.map_eq_some_iff.1 hf
  cases he
  obtain ⟨hfit, hfree, hlow⟩ := fittingCopy_first hc
  refine ⟨before, after, o, hq, ho, hs, hfit, hfree, hlow, fun k hk ⟨p, hp, hps, hm⟩ => ?_⟩
  exact (map_ne_none _).2 ((fittingCopy_ne_none _ _ p).2 hm) (hb k hk p hp hps)

theorem chooseStart_first {i ei : Nat} {o : Order} (h : chooseStart s = some (i, o, ei)) :
    ∃ before after, s.plan.queue = before ++ i :: after ∧ getOrder s i = some o ∧ o.state = .queued
      ∧ (copiesTotal o + 99) / 100 ≤ (freeBins s).length ∧ o.FitsAt (activeMag s) ei ∧ o.FreeAt s.setup ei
      ∧ (∀ k < ei, ¬(o.FitsAt (activeMag s) k ∧ o.FreeAt s.setup k)) ∧ ∀ j ∈ before, ¬StartAt s (activeMag s) j := by
  obtain ⟨before, after, j, p, hq, ho, hs, hf, hb⟩ := ordersIn_findSome_some h
  split at hf
  · rename_i hbins
    obtain ⟨_, hc, he⟩ := Option.map_eq_some_iff.1 hf
    cases he
    obtain ⟨hfit, hfree, hlow⟩ := fittingCopy_first hc
    refine ⟨before, after, hq, ho, hs, (binsFor_iff s p).1 hbins, hfit, hfree, hlow, fun k hk ⟨p, hp, hps, hm⟩ => ?_⟩
    exact (start_ne_none s _ p).2 hm (hb k hk p hp hps)
  · cases hf

theorem otherWork_iff : otherWork s = true ↔ ∃ j ∈ s.plan.queue,
    RemakeAt s (otherMag s) .active j ∨ CopyAt s (otherMag s) .active j ∨ StartAt s (otherMag s) j := by
  simp only [otherWork, Bool.or_eq_true, Bool.and_eq_true, ordersIn_any, Option.isSome_iff_ne_none, binsFor_iff,
    fittingRemake_ne_none, fittingCopy_ne_none, RemakeAt, CopyAt, StartAt]
  constructor
  · rintro (⟨j, hj, p, hp, hs, hr | hc⟩ | ⟨j, hj, p, hp, hs, hn, hc⟩)
    · exact ⟨j, hj, .inl ⟨p, hp, hs, hr⟩⟩
    · exact ⟨j, hj, .inr (.inl ⟨p, hp, hs, hc⟩)⟩
    · exact ⟨j, hj, .inr (.inr ⟨p, hp, hs, hn, hc⟩)⟩
  · rintro ⟨j, hj, ⟨p, hp, hs, hr⟩ | ⟨p, hp, hs, hc⟩ | ⟨p, hp, hs, hn, hc⟩⟩
    · exact .inl ⟨j, hj, p, hp, hs, .inl hr⟩
    · exact .inl ⟨j, hj, p, hp, hs, .inr hc⟩
    · exact .inr ⟨j, hj, p, hp, hs, hn, hc⟩

/-! ## Waiting for the other paper (R62, R63) -/

/-- The order's work is for the other magazine alone. -/
def WaitsForOther (s : State) (o : Order) : Prop := (o.state = .queued ∨ o.state = .active)
  ∧ (∃ e ∈ o.entries, 0 < e.t) ∧ (∀ e ∈ o.entries, 0 < e.t → fits (activeMag s) e = false)
  ∧ ∃ e ∈ o.entries, 0 < e.t ∧ fits (otherMag s) e = true

theorem waitsForOther_iff (s : State) (o : Order) : waitsForOther s o = true ↔ WaitsForOther s o := by
  simp only [waitsForOther, WaitsForOther, Bool.and_eq_true, Bool.or_eq_true, beq_iff_eq, List.any_eq_true, List.all_eq_true,
    decide_eq_true_eq, Bool.not_eq_true', Bool.and_eq_false_imp, and_assoc]

theorem outOfPatience_iff (s : State) (o : Order) : outOfPatience s o = true ↔
    WaitsForOther s o ∧ ∃ since, o.waitingSince = some since
      ∧ (if o.rush = true then s.setup.params.patience / 4 else s.setup.params.patience)
        ≤ (s.plan.framesExposed - since).toNat := by
  rw [outOfPatience, Bool.and_eq_true, waitsForOther_iff]
  cases o.waitingSince with
  | none => simp
  | some since =>
    refine and_congr_right fun _ => decide_eq_true_iff.trans ⟨fun h => ⟨since, rfl, h⟩, ?_⟩
    rintro ⟨_, he, h⟩
    cases he
    exact h

theorem switchDue_iff : switchDue s = true ↔ s.plan.switchFlag = true ∨ ∃ o, some o ∈ s.plan.table ∧ outOfPatience s o = true := by
  rw [switchDue, Bool.or_eq_true, List.any_eq_true]
  refine or_congr_right ⟨fun ⟨c, hc, h⟩ => ?_, fun ⟨o, ho, h⟩ => ⟨some o, ho, h⟩⟩
  cases c with
  | none => cases h
  | some o => exact ⟨o, hc, h⟩

theorem getOrder_stampAll (s : State) (i : Nat) : getOrder (stampAll s) i = (getOrder s i).map (stampWaiting s) := by
  unfold getOrder stampAll
  simp only [List.getD_eq_getElem?_getD, List.getElem?_map]
  cases s.plan.table[i]? <;> rfl

theorem stampWaiting_stamps {o : Order} (hw : WaitsForOther s o) (hn : o.waitingSince = none) :
    stampWaiting s o = { o with waitingSince := some s.plan.framesExposed } := if_pos ⟨(waitsForOther_iff s o).2 hw, hn⟩

theorem stampWaiting_leaves {o : Order} (h : ¬WaitsForOther s o ∨ o.waitingSince ≠ none) : stampWaiting s o = o :=
  if_neg fun ⟨hw, hn⟩ => h.elim (fun h => h ((waitsForOther_iff s o).1 hw)) (fun h => h hn)

/-! ## The start of an order (R60, R64, R155) -/

theorem getBin_setBin {b c : Nat} (hb : 1 ≤ b) (hc : 1 ≤ c) (hlen : c - 1 < s.sort.bins.length) (r : Bin) :
    getBin (setBin c r s) b = if b = c then r else getBin s b := by
  unfold getBin
  rw [setBin_bins, List.getD_eq_getElem?_getD, List.getElem?_set]
  by_cases h : b = c
  · subst h; simp [hlen]
  · rw [if_neg (by omega), if_neg h, List.getD_eq_getElem?_getD]

theorem mem_freeBins {b : Nat} (h : b ∈ freeBins s) : 1 ≤ b ∧ b ≤ 15 := by
  have := List.mem_range'_1.1 (List.mem_filter.1 h).1
  omega

/-- A reservation takes each of its bins and no other (R155). -/
theorem getBin_reserved (ticket : Word) (slot : Nat) {b : Nat} (hb : 1 ≤ b) (l : List Nat) (s : State)
    (hl : ∀ c ∈ l, 1 ≤ c ∧ c - 1 < s.sort.bins.length) :
    getBin (l.foldl (reserveBin ticket slot) s) b = if b ∈ l then
      { state := .reserved, owner := some (ticket, slot), live := true, good := 0, misroutes := 0, disturbed := false }
      else getBin s b := by
  induction l generalizing s with
  | nil => rfl
  | cons c r ih =>
    obtain ⟨hc, hlen⟩ := hl c (List.mem_cons_self ..)
    have hr : ∀ d ∈ r, 1 ≤ d ∧ d - 1 < (reserveBin ticket slot s c).sort.bins.length := fun d hd => by
      simpa [reserveBin] using hl d (List.mem_cons_of_mem _ hd)
    rw [List.foldl_cons, ih _ hr, reserveBin, getBin_setBin hb hc hlen]
    by_cases hbr : b ∈ r <;> by_cases hbc : b = c <;> simp [hbr, hbc]

theorem reserveBins_some {k : Nat} (h : k ≤ (freeBins s).length) (ticket : Word) (slot : Nat) :
    reserveBins k ticket slot s = some (((freeBins s).take k).foldl (reserveBin ticket slot) s, (freeBins s).take k) := if_pos h

/-- A start that has its bins reserves them, lists them and enters ACTIVE. -/
theorem startOrder_some {o : Order} (h : (copiesTotal o + 99) / 100 ≤ (freeBins s).length) (i : Nat) :
    let bins := (freeBins s).take ((copiesTotal o + 99) / 100)
    startOrder i o s = some (enterState i { o with bins := bins } .active
      (writeBins { o with bins := bins } (putOrder i (some { o with bins := bins }) (bins.foldl (reserveBin o.ticket o.slot) s)))) := by
  intro bins
  unfold startOrder
  rw [show binsNeeded o = (copiesTotal o + 99) / 100 from rfl, reserveBins_some h]

theorem startOrder_started {o : Order} (h : (copiesTotal o + 99) / 100 ≤ (freeBins s).length) {i : Nat}
    (ho : getOrder s i = some o) {s1 : State} (hs : startOrder i o s = some s1) (hlen : s.sort.bins.length = 15) :
    let bins := (freeBins s).take ((copiesTotal o + 99) / 100)
    getOrder s1 i = some { o with bins := bins, state := .active }
      ∧ s1.link.waiting = (if o.detached = true then s.link.waiting else
          waitingWith (binsWrites o.slot bins ++ [mirrorWrite o.slot .active]) s)
      ∧ ∀ b, 1 ≤ b → b ≤ 15 → getBin s1 b = if b ∈ bins then
          { state := .reserved, owner := some (o.ticket, o.slot), live := true, good := 0, misroutes := 0, disturbed := false }
          else getBin s b := by
  intro bins
  obtain rfl := Option.some.inj ((startOrder_some h i).symm.trans hs)
  obtain ⟨link, -, -, -, plan, -⟩ := reserveBins_frame _ _ _ _ _ _ (reserveBins_some h o.ticket o.slot)
  refine ⟨?_, ?_, fun b hb _ => ?_⟩
  · exact getOrder_set ho _ _ (by simp [plan, bins])
  · by_cases hd : o.detached = true
    · simp [waitingWith_mirror, waitingWith_bins, enterState, hd, link]
    · simp [waitingWith_mirror, waitingWith_bins, enterState, hd, waitingWith_eq, insertWrites_append, link, bins]
  · rw [← getBin_reserved o.ticket o.slot hb bins s fun c hc => ?_]
    · exact congrArg (fun bs : List Bin => bs.getD (b - 1) Bin.empty) (by simp [bins])
    · obtain ⟨h1, h2⟩ := mem_freeBins (List.mem_of_mem_take hc)
      omega

/-! ## The rules in their order (R58 to R61, R115) -/

/-- Gap behind a map that does not end in a GAP is an entry of its own, while the map has room (R115, R116). -/
theorem layGap_new (h : ∀ e, s.web.map.getLast? = some e → e.piece ≠ .gap) (hlen : s.web.map.length < 256) (n : Nat) :
    layGap n s = appendEntry .gap (mapEnd s) n s := by
  have he : ¬endsInGap s = true := by
    unfold endsInGap
    cases hl : s.web.map.getLast? with
    | none => simp
    | some e => exact fun hg => h e hl ((isGap_iff e).1 hg)
  rw [layGap, if_neg he, if_pos (show _ < Config.mapEntries from hlen)]

theorem heldToGap_iff : heldToGap s = true ↔ s.paper.target ≠ none ∨ s.web.hold ≠ none ∨ 255 ≤ s.web.map.length := by
  simp only [heldToGap, Bool.or_eq_true, Option.isSome_iff_ne_none, decide_eq_true_eq, or_assoc]
  exact or_congr_right (or_congr_right Nat.succ_le_succ_iff)

section
variable (h1 : ¬heldToGap s = true) (h2 : ¬switchDue s = true)
include h1

theorem choose_switches (h2 : switchDue s = true) : choose s = commitGap (plannerChange s) := by
  rw [choose, if_neg h1, if_pos h2]

include h2

theorem choose_remake {i ei : Nat} (h : chooseRemake s = some (i, ei)) : choose s = commitFrame i ei true s := by
  rw [choose, if_neg h1, if_neg h2, h]

variable (h3 : chooseRemake s = none)
include h3

theorem choose_copy {i ei : Nat} (h : chooseCopy s = some (i, ei)) : choose s = commitFrame i ei false s := by
  rw [choose, if_neg h1, if_neg h2, h3, h]

variable (h4 : chooseCopy s = none)
include h4

/-- Rule 5 never finds its bins gone: it picked the order for having them. -/
theorem choose_start {i ei : Nat} {o : Order} (h : chooseStart s = some (i, o, ei)) :
    ∃ s1, startOrder i o s = some s1 ∧ choose s = commitFrame i ei false s1 := by
  obtain ⟨-, -, -, -, -, hbins, -⟩ := chooseStart_first h
  have hs := startOrder_some hbins i
  refine ⟨_, hs, ?_⟩
  rw [choose, if_neg h1, if_neg h2, h3, h4, h]
  dsimp only
  rw [hs]

theorem choose_idle (h5 : chooseStart s = none) :
    choose s = if otherWork s = true then commitGap (plannerChange s) else commitGap s := by
  rw [choose, if_neg h1, if_neg h2, h3, h4, h5]
  exact apply_ite commitGap _ _ _

end

/-! ## The obligations -/

/-- Settles O50: the three conditions of the fit, one by one. -/
theorem workFitsMagazine : Obligations.WorkFitsMagazine := fits_iff

/-- Settles O49: each rule is a search of the queue, and a start reserves the lowest FREE bins. -/
theorem choicePicksFirstWorkThatFits : Obligations.ChoicePicksFirstWorkThatFits := by
  intro s fitting free need remakes copies starts m
  refine ⟨fun i ei h => chooseRemake_first h, chooseRemake_none, fun i ei h => chooseCopy_first h, chooseCopy_none,
    fun i o ei h => ?_, chooseStart_none, otherWork_iff, rfl, fun i h => ?_, fun i o h => ?_⟩
  · obtain ⟨before, after, hq, ho, hs, hn, hfit, hfree, hlow, hb⟩ := chooseStart_first h
    exact ⟨before, after, hq, ho, hs, hn, hfit, hfree, hlow, hb, fun s1 h1 hlen => startOrder_started hn ho h1 hlen⟩
  · rw [getOrder_stampAll, h]; rfl
  · rw [getOrder_stampAll, h]
    exact ⟨fun hw hn => congrArg some (stampWaiting_stamps hw hn), fun hn => congrArg some (stampWaiting_leaves hn)⟩

/-- Settles O48: the rules of the choice are tried one behind the other. -/
theorem choiceTakesFirstRuleThatApplies : Obligations.ChoiceTakesFirstRuleThatApplies := by
  intro s
  refine ⟨fun hr => ?_, fun hr => ?_, fun hr hs => ?_, fun before e hm hg => layGap_grows hm hg _,
    fun hg hlen => layGap_new hg hlen _, ?_⟩
  · rw [commitPoint, hr]
  · rw [commitPoint, hr]
  · unfold commitPoint; split <;> [contradiction; contradiction; rfl]
  · intro rule1 waits rule2 ends
    have hrule1 : heldToGap s = true ↔ rule1 := heldToGap_iff
    have hrule2 : switchDue s = true ↔ rule2 := by
      simp only [switchDue_iff, outOfPatience_iff]
      exact Iff.rfl
    rw [← hrule1, ← hrule2]
    refine ⟨fun h1 => if_pos h1, choose_switches, fun h1 h2 => ⟨fun i ei h => choose_remake h1 h2 h, fun h3 =>
      ⟨fun i ei h => choose_copy h1 h2 h3 h, fun h4 => ⟨fun i o ei h => choose_start h1 h2 h3 h4 h, choose_idle h1 h2 h3 h4⟩⟩⟩⟩

end Sys2Proof.Machine
end


section
/-! What a change of an order's counts does beside the order table: the mirror and the completion report (R45, R49, R20, R156);
the hand-over of a committed frame (R51, R68, R69), and the obligation on a FRAME commit. -/

open Sys2Proof Sys2Proof.Machine

namespace Sys2Proof.Machine

set_option Elab.async false

variable {s t u v : State}

/-! ## What the completion report and the fetch unit read -/

theorem waitingWith_congr (h : u.link.waiting = v.link.waiting) (ws : List SlotWrite) : waitingWith ws u = waitingWith ws v := by
  rw [waitingWith_eq, waitingWith_eq, h]

theorem getBin_congr (h : u.sort = v.sort) (b : Nat) : getBin u b = getBin v b := by unfold getBin; rw [h]

theorem setBin_congr (h : u.sort = v.sort) (b : Nat) (r : Bin) : (setBin b r u).sort = (setBin b r v).sort := by
  simp only [setBin, h]

theorem attendBin_congr (h : u.sort = v.sort) (b : Nat) : (attendBin b u).sort = (attendBin b v).sort := by
  unfold attendBin
  rw [getBin_congr h]
  split
  · exact h
  · exact setBin_congr h b _

theorem completeBin_congr (h : u.sort = v.sort) (cancelled : Bool) (b : Nat) :
    (completeBin cancelled u b).sort = (completeBin cancelled v b).sort := by
  have hlive := setBin_congr h b { getBin v b with live := false }
  unfold completeBin
  rw [getBin_congr h]; dsimp only
  split
  · exact setBin_congr h b _
  · split
    · exact attendBin_congr hlive b
    · split
      · exact setBin_congr hlive b _
      · exact hlive

/-- The completion report changes the sorter by what it finds there alone (R156). -/
theorem completionReport_congr (h : u.sort = v.sort) (bins : List Nat) (cancelled : Bool) :
    (completionReport bins cancelled u).sort = (completionReport bins cancelled v).sort := by
  induction bins generalizing u v with
  | nil => exact h
  | cons b r ih => exact ih (completeBin_congr h cancelled b)

/-- Two states that are one to the fetch unit: its own part, the setup store and the engine. -/
def SameFetch (u v : State) : Prop := u.fetch = v.fetch ∧ u.setup = v.setup ∧ u.eng = v.eng

theorem SameFetch.moveCursor (h : SameFetch u v) (n : Word) (i : Nat) : SameFetch (moveCursor n i u) (moveCursor n i v) := by
  obtain ⟨fetch, setup, eng⟩ := h
  refine ⟨?_, by simpa using setup, by simpa using eng⟩
  unfold Machine.moveCursor findItem firstFetching onItem
  rw [fetch]
  cases v.fetch.items.find? fun x => x.number == n with
  | none => rfl
  | some x => dsimp only; split <;> rfl

theorem SameFetch.evalRefill (h : SameFetch u v) : SameFetch (evalRefill u) (evalRefill v) := by
  obtain ⟨fetch, setup, eng⟩ := h
  refine ⟨?_, by simpa using setup, by simpa using eng⟩
  unfold Machine.evalRefill
  rw [fetch, setup]
  split
  · rfl
  · split
    · rfl
    · exact fetch

theorem SameFetch.joinLine (h : SameFetch u v) (n : Word) (i : Nat) : SameFetch (joinLine n i u) (joinLine n i v) := by
  obtain ⟨fetch, setup, eng⟩ := h
  unfold Machine.joinLine
  refine SameFetch.moveCursor ?_ n (i + 1)
  exact ⟨by dsimp only; rw [fetch], setup, eng⟩

theorem SameFetch.emptyLine (h : SameFetch u v) : emptyLine u = emptyLine v := by
  obtain ⟨fetch, -, eng⟩ := h
  unfold Machine.emptyLine mayIssue moving findItem
  rw [fetch, eng]

theorem SameFetch.joinLines (h : SameFetch u v) (k : Nat) : SameFetch (joinLines k u) (joinLines k v) := by
  induction k generalizing u v with
  | zero => exact h
  | succ k ih =>
    unfold Machine.joinLines
    rw [h.emptyLine]
    split
    · exact h
    · exact ih (h.joinLine _ _).evalRefill

theorem SameFetch.evalFetch (h : SameFetch u v) : SameFetch (evalFetch u) (evalFetch v) := h.evalRefill.joinLines _

/-! ## The state that follows from the counts (R45, R47, R49) -/

theorem completeOrder_waiting (i : Nat) (o : Order) (s : State) : (completeOrder i o s).link.waiting =
    if o.detached = true then s.link.waiting else waitingWith [mirrorWrite o.slot .complete] s := by
  unfold completeOrder
  split <;> simp [enterState_eq, *]

theorem completeOrder_sort (i : Nat) (o : Order) (s : State) :
    (completeOrder i o s).sort = (completionReport o.bins o.cancelled s).sort := by
  have h : (enterState i o .complete s).sort = s.sort := by simp
  unfold completeOrder
  split
  · simpa using completionReport_congr h o.bins o.cancelled
  · exact completionReport_congr h o.bins o.cancelled

section
variable {i : Nat} {o : Order} (ho : getOrder s i = some o)
include ho

theorem evalOrder_waiting : (evalOrder i s).link.waiting =
    if o.detached = true ∨ stateOfCounts o = o.state then s.link.waiting
    else waitingWith [mirrorWrite o.slot (stateOfCounts o)] s := by
  unfold evalOrder
  rw [ho]; dsimp only
  split
  · rename_i he
    rw [if_pos (.inr he)]
  · rename_i hne
    split
    · rename_i hc
      rw [completeOrder_waiting, ← hc]
      simp [hne]
    · rw [enterState_eq]
      simp [hne]

theorem evalOrder_sort : (evalOrder i s).sort =
    if stateOfCounts o = .complete ∧ o.state ≠ .complete then (completionReport o.bins o.cancelled s).sort else s.sort := by
  unfold evalOrder
  rw [ho]; dsimp only
  split
  · rename_i he
    rw [if_neg fun ⟨hc, hn⟩ => hn (he ▸ hc)]
  · rename_i hne
    split
    · rename_i hc
      rw [if_pos ⟨hc, fun h => hne (hc.trans h.symm)⟩, completeOrder_sort]
    · rename_i hc
      rw [if_neg fun ⟨h, _⟩ => hc h]
      simp

end

/-! ## A FRAME commit (R51, R68, R69, R113, R138) -/

/-- The frame list item of a frame handed over. -/
def handedItem (n : Word) (i : Nat) (o : Order) (e : Entry) : FrameItem :=
  { number := n, order := i, slot := o.slot, image := e.image, pattern := e.pattern, density := e.density
    colourR := e.colourR, colourG := e.colourG, colourB := e.colourB, paperElems := 10 * e.width
    length := e.length, state := if e.pattern then .fetched else .fetching, served := 0 }

theorem handOver_eq (n : Word) (i : Nat) (o : Order) (e : Entry) (s : State) : handOver n i o e s =
    evalFetch { s with
      fetch.items := s.fetch.items ++ [handedItem n i o e]
      fetch.cursor := if s.fetch.cursor = none ∧ e.pattern = false then some (n, 0) else s.fetch.cursor } := by
  unfold handOver handedItem
  rw [Nat.mul_comm]; dsimp only
  split <;> rfl

/-- A cursor that names nothing takes the frame; one that names a frame stays (R138). -/
theorem markFrame_cursor (n : Word) (s : State) : (markFrame n s).cut.cursor = some (s.cut.cursor.getD n) := by
  unfold markFrame
  cases h : s.cut.cursor with
  | none => rfl
  | some c => exact h

/-- An order that a frame has just been committed for has a copy in flight: it is not complete (R45). -/
theorem committedOrder_state {o : Order} (hs : o.state = .active) {ei : Nat} {e : Entry} (he : o.entries[ei]? = some e)
    (remake : Bool) (n : Word) : stateOfCounts (committedOrder ei remake n o) =
      if 0 < stillToExpose (committedOrder ei remake n o) then .active else .draining := by
  have hf : 0 < inFlight (committedOrder ei remake n o) := by
    have hmem : { e with t := e.t - 1, f := e.f + 1 } ∈ (committedOrder ei remake n o).entries := by
      rw [committedOrder_eq remake n he]
      exact List.mem_set (List.getElem?_eq_some_iff.1 he).1 _
    exact Nat.lt_of_lt_of_le (Nat.succ_pos e.f) (le_sumBy Entry.f hmem)
  unfold stateOfCounts
  rw [show (committedOrder ei remake n o).state = .active from hs, if_pos hf]

/-- The state of a FRAME commit with the copy moved and its entry at the map end. -/
def entered (i ei : Nat) (remake : Bool) (o : Order) (e : Entry) (s : State) : State :=
  markFrame s.web.nextNumber (putOrder i (some (committedOrder ei remake s.web.nextNumber o))
    (appendEntry (.frame (frameInfo s i ei remake e)) (mapEnd s) e.length s))

/-- The state of a FRAME commit before the order's state follows from its counts. -/
def framed (i ei : Nat) (remake : Bool) (o : Order) (e : Entry) (s : State) : State :=
  let s1 := handOver s.web.nextNumber i o e (entered i ei remake o e s)
  evalLow { s1 with plan.framesExposed := s1.plan.framesExposed + 1 }

theorem commitFrame_eq {i ei : Nat} {o : Order} {e : Entry} (ho : getOrder s i = some o) (he : o.entries[ei]? = some e)
    (remake : Bool) : commitFrame i ei remake s = evalOrder i (framed i ei remake o e s) := by
  unfold commitFrame
  rw [ho]; dsimp only
  rw [he]
  rfl

/-- Settles O47: each part of the commit is one operation's, and the order's state follows from its counts. -/
theorem frameCommitMovesOneCopy : Obligations.FrameCommitMovesOneCopy := by
  intro i ei remake s o e ho he hs n t o'
  have hcommitted : committedOrder ei remake n o = o' := committedOrder_eq remake n he
  have hstate : stateOfCounts o' = if 0 < stillToExpose o' then .active else .draining := by
    rw [← hcommitted]; exact committedOrder_state hs he remake n
  have hne : stateOfCounts o' ≠ .complete := by rw [hstate]; split <;> simp
  obtain ⟨x, hx⟩ : ∃ x, x = framed i ei remake o e s := ⟨_, rfl⟩
  have ht : t = evalOrder i x := hx ▸ commitFrame_eq ho he remake
  have htable : x.plan.table = s.plan.table.set i (some o') := by rw [hx, ← hcommitted]; simp [framed, entered, n]
  have hxo : getOrder x i = some o' := getOrder_set ho _ _ htable
  have hwaiting : x.link.waiting = s.link.waiting := by rw [hx]; simp [framed, entered]
  have htable' : t.plan.table = s.plan.table.set i (some { o' with state := stateOfCounts o' }) := by
    rw [ht, evalOrder_table i x o' hxo, htable, List.set_set, if_neg fun h => hne h.1]
  have hfetch : t.fetch = (handOver n i o e (entered i ei remake o e s)).fetch := by rw [ht, hx]; simp [framed, n]
  have hcut : t.cut = (entered i ei remake o e s).cut := by rw [ht, hx]; simp [framed]
  refine ⟨?_, fun j hj => ?_, ?_, ?_, ?_, ?_, ?_, ?_⟩
  · rw [getOrder_set ho _ _ htable', hstate]
  · rw [getOrder_congr (s := putOrder i (some { o' with state := stateOfCounts o' }) s) htable',
      getOrder_put _ _ _ _ (getOrder_some_lt ho), if_neg hj]
  · rw [ht, hx]; simp [framed, entered]
  · rw [ht, hx]; simp [framed, entered]; rfl
  · rw [hfetch, handOver_eq]
    exact (SameFetch.evalFetch ⟨by simp [handedItem, entered], by simp [entered], by simp [entered]⟩).1
  · rw [hcut, entered, markFrame_cursor]
    simp [n]
  · rw [ht, evalOrder_sort hxo, if_neg fun h => hne h.1, hx]
    simp [framed, entered]
  · rw [ht, evalOrder_waiting hxo, hwaiting, waitingWith_congr hwaiting, hstate, show o'.state = .active from hs]
    by_cases hexp : 0 < stillToExpose o'
    · simp [hexp]
    · simp [hexp]; rfl

end Sys2Proof.Machine
end


section
/-! The settling of a frame and the completion report: what a report changes, bin by bin and field by field (R45, R49, R50 to R55,
R156), and the obligation on them. -/

open Sys2Proof Sys2Proof.Machine

namespace Sys2Proof.Machine

set_option Elab.async false

variable {s : State}

/-! ## One bin of a completion report (R156) -/

section
variable {b : Nat} (hb : 1 ≤ b) (hlen : b - 1 < s.sort.bins.length)
include hb hlen

theorem getBin_setBin_self (r : Bin) : getBin (setBin b r s) b = r := by
  rw [getBin_setBin hb hb hlen, if_pos rfl]

omit hb hlen in
theorem setBin_setBin (r x : Bin) : setBin b x (setBin b r s) = setBin b x s := by
  simp [setBin, List.set_set]

theorem attendBin_raises {r : Bin} (h : r.state ≠ .attention) :
    attendBin b (setBin b r s) = raiseAttention (setBin b { r with state := .attention } s) := by
  unfold attendBin
  rw [getBin_setBin_self hb hlen, if_neg h, setBin_setBin]

theorem attendBin_leaves {r : Bin} (h : r.state = .attention) : attendBin b (setBin b r s) = setBin b r s := by
  unfold attendBin
  rw [getBin_setBin_self hb hlen, if_pos h]

variable {cancelled : Bool} (hkept : cancelled = false ∨ 0 < (getBin s b).good)
include hkept

omit hb hlen in
/-- A bin with a print in it, or of an order that was not cancelled, is not released. -/
theorem completeBin_kept : completeBin cancelled s b =
    if (getBin s b).state = .attention || 0 < (getBin s b).misroutes || (getBin s b).disturbed then
      attendBin b (setBin b { getBin s b with live := false } s)
    else if (getBin s b).state = .reserved || (getBin s b).state = .filling then
      raiseAttention (setBin b { getBin s b with live := false, state := .ready } s)
    else setBin b { getBin s b with live := false } s := by
  have hn : ¬((cancelled && decide ((getBin s b).good = 0)) = true) := by
    rcases hkept with rfl | hg
    · simp
    · simp; omega
  unfold completeBin
  dsimp only
  rw [if_neg hn, setBin_setBin]

theorem completeBin_attended (h : (getBin s b).state = .attention) :
    completeBin cancelled s b = setBin b { getBin s b with live := false } s := by
  rw [completeBin_kept hkept, if_pos (by simp [h])]
  exact attendBin_leaves hb hlen h

theorem completeBin_bad (h : (getBin s b).state ≠ .attention)
    (hbad : 0 < (getBin s b).misroutes ∨ (getBin s b).disturbed = true) :
    completeBin cancelled s b = raiseAttention (setBin b { getBin s b with live := false, state := .attention } s) := by
  rw [completeBin_kept hkept, if_pos (by simpa [or_assoc] using .inr hbad)]
  exact attendBin_raises hb hlen h

omit hb hlen in
theorem completeBin_ready (h : (getBin s b).state = .reserved ∨ (getBin s b).state = .filling)
    (hbad : ¬(0 < (getBin s b).misroutes ∨ (getBin s b).disturbed = true)) :
    completeBin cancelled s b = raiseAttention (setBin b { getBin s b with live := false, state := .ready } s) := by
  have ha : (getBin s b).state ≠ .attention := by rcases h with h | h <;> simp [h]
  rw [completeBin_kept hkept, if_neg (by simpa [or_assoc, ha] using hbad), if_pos (by simpa using h)]

omit hb hlen in
theorem completeBin_idle (h : (getBin s b).state = .free ∨ (getBin s b).state = .ready)
    (hbad : ¬(0 < (getBin s b).misroutes ∨ (getBin s b).disturbed = true)) :
    completeBin cancelled s b = setBin b { getBin s b with live := false } s := by
  have ha : (getBin s b).state ≠ .attention := by rcases h with h | h <;> simp [h]
  have hn : ¬((getBin s b).state = .reserved ∨ (getBin s b).state = .filling) := by rcases h with h | h <;> simp [h]
  rw [completeBin_kept hkept, if_neg (by simpa [or_assoc, ha] using hbad), if_neg (by simpa using hn)]

end

/-! ## One frame settled (R50 to R55) -/

/-- The state of a settled frame before the order's state follows from its counts: o1 in the context, its result written. -/
def settled (how : Settle) (i ei : Nat) (remade : Bool) (o1 : Order) (s : State) : State :=
  let s1 := putOrder i (some o1) s
  evalLow (writeResult o1 ei (if remade then countRemake how s1 else s1))

theorem settleFrame_left {i : Nat} {o : Order} (ho : getOrder s i = some o) {n : Word} (hn : n ∉ o.unsettled) (how : Settle)
    (ei : Nat) : settleFrame how i ei n s = s := by
  unfold settleFrame
  rw [ho]
  exact if_neg fun h => hn (settles_iff.1 h).1

theorem settleFrame_eq {i ei : Nat} {o : Order} {e : Entry} (ho : getOrder s i = some o) (he : o.entries[ei]? = some e)
    (hf : 0 < e.f) {n : Word} (hn : n ∈ o.unsettled) (how : Settle) :
    settleFrame how i ei n s = evalOrder i (settled how i ei (settleEntry how s.setup.params.remakeLimit o.cancelled e).2
      (settledOrder how s.setup.params.remakeLimit ei n o) s) := by
  have hlen : (settledOrder how s.setup.params.remakeLimit ei n o).remakes.length = o.remakes.length ↔
      (settleEntry how s.setup.params.remakeLimit o.cancelled e).2 = false := by
    rw [settledOrder_eq how _ n he]
    cases (settleEntry how s.setup.params.remakeLimit o.cancelled e).2 <;> simp
  unfold settleFrame
  rw [ho]; dsimp only
  rw [if_pos (settles_iff.2 ⟨hn, e, he, hf⟩)]
  unfold settled
  cases hr : (settleEntry how s.setup.params.remakeLimit o.cancelled e).2 with
  | true => rw [if_neg (by rw [hlen, hr]; simp)]; rfl
  | false => rw [if_pos (hlen.2 hr)]; rfl

section
variable (how : Settle) (i ei : Nat) (remade : Bool) (o1 : Order) (s : State)

theorem settled_table : (settled how i ei remade o1 s).plan.table = s.plan.table.set i (some o1) := by
  unfold settled
  split <;> simp

theorem settled_sort : (settled how i ei remade o1 s).sort = s.sort := by
  unfold settled
  split <;> simp

theorem settled_waiting {e : Entry} (he : o1.entries[ei]? = some e) : (settled how i ei remade o1 s).link.waiting =
    if o1.detached = true then s.link.waiting else waitingWith (resultWrites o1.slot ei e) s := by
  have hlow (u : State) : (evalLow u).link.waiting = u.link.waiting := by simp
  have h : (if remade = true then countRemake how (putOrder i (some o1) s) else putOrder i (some o1) s).link = s.link := by
    split <;> simp
  unfold settled
  rw [hlow, waitingWith_result _ _ _ _ he, waitingWith_congr (congrArg Link.waiting h), h]

/-- A budget remake and a jam remake have a counter each (R52, R55). -/
theorem settled_counters (hremade : remade = true → (∃ mis, how = .bad mis) ∨ how = .jam) :
    (settled how i ei remade o1 s).plan.budgetRemakes =
        (if remade = true ∧ how ≠ .jam then s.plan.budgetRemakes + 1 else s.plan.budgetRemakes)
      ∧ (settled how i ei remade o1 s).plan.jamRemakes =
        (if remade = true ∧ how = .jam then s.plan.jamRemakes + 1 else s.plan.jamRemakes) := by
  unfold settled
  cases remade with
  | false => simp
  | true =>
    rcases hremade rfl with ⟨mis, rfl⟩ | rfl
    · simp [countRemake]
    · simp [countRemake]

end

/-! ## The obligation -/

/-- A frame of an order, reported for the first time. -/
theorem settleFrame_first (how : Settle) {i ei : Nat} {n : Word} {o : Order} {e : Entry} (ho : getOrder s i = some o)
    (he : o.entries[ei]? = some e) (hf : 0 < e.f) (hn : n ∈ o.unsettled) :
    let t := settleFrame how i ei n s
    let e' := (settleEntry how s.setup.params.remakeLimit o.cancelled e).1
    let remade := (settleEntry how s.setup.params.remakeLimit o.cancelled e).2
    let o' : Order :=
      { o with entries := o.entries.set ei e', unsettled := o.unsettled.filter (fun m => m != n)
               remakes := if remade then o.remakes ++ [ei] else o.remakes }
    getOrder t i = (if o.detached = true ∧ stateOfCounts o' = .complete ∧ o.state ≠ .complete then none
        else some { o' with state := stateOfCounts o' })
      ∧ (∀ j, j ≠ i → getOrder t j = getOrder s j)
      ∧ t.plan.budgetRemakes = (if remade = true ∧ how ≠ .jam then s.plan.budgetRemakes + 1 else s.plan.budgetRemakes)
      ∧ t.plan.jamRemakes = (if remade = true ∧ how = .jam then s.plan.jamRemakes + 1 else s.plan.jamRemakes)
      ∧ t.plan.framesExposed = s.plan.framesExposed ∧ t.web = s.web ∧ t.fetch = s.fetch ∧ t.sort.lane = s.sort.lane
      ∧ t.sort = (if stateOfCounts o' = .complete ∧ o.state ≠ .complete then (completionReport o.bins o.cancelled s).sort
          else s.sort)
      ∧ t.link.waiting = (if o.detached = true then s.link.waiting else
          waitingWith (resultWrites o.slot ei e'
            ++ (if stateOfCounts o' = o.state then [] else [mirrorWrite o.slot (stateOfCounts o')])) s)
      ∧ e'.g + e'.f + e'.t + e'.a = e.g + e.f + e.t + e.a := by
  intro t e' remade o'
  obtain ⟨x, hx⟩ : ∃ x, x = settled how i ei remade o' s := ⟨_, rfl⟩
  have ht : t = evalOrder i x := by
    have heq : settledOrder how s.setup.params.remakeLimit ei n o = o' := settledOrder_eq how _ n he
    rw [hx, ← heq]
    exact settleFrame_eq ho he hf hn how
  have htable : x.plan.table = s.plan.table.set i (some o') := hx ▸ settled_table ..
  have hsort : x.sort = s.sort := hx ▸ settled_sort ..
  have hwaiting : x.link.waiting = if o.detached = true then s.link.waiting else waitingWith (resultWrites o.slot ei e') s :=
    hx ▸ settled_waiting how i ei remade o' s (by simp [o', (List.getElem?_eq_some_iff.1 he).1])
  have hremade : remade = true → (∃ mis, how = .bad mis) ∨ how = .jam := by
    cases how <;> simp [remade, settleEntry]
  obtain ⟨-, -, hsum⟩ := settleEntry_counts how s.setup.params.remakeLimit o.cancelled hf
  obtain ⟨hbudget, hjam⟩ := settled_counters how i ei remade o' s hremade
  have hxo : getOrder x i = some o' := getOrder_set ho _ _ htable
  have htable' : t.plan.table = s.plan.table.set i
      (if o.detached = true ∧ stateOfCounts o' = .complete ∧ o.state ≠ .complete then none
        else some { o' with state := stateOfCounts o' }) := by
    rw [ht, evalOrder_table i x o' hxo, htable, List.set_set]
    congr 1
    exact if_congr (by simp only [o']; tauto) rfl rfl
  refine ⟨getOrder_set ho _ _ htable', fun j hj => ?_, ?_, ?_, by simp [t], by simp [t], by simp [t], by simp [t], ?_, ?_, hsum⟩
  · rw [getOrder_congr (s := putOrder i _ s) htable', getOrder_put _ _ _ _ (getOrder_some_lt ho), if_neg hj]
  · rw [← hbudget, ← hx, ht]; simp
  · rw [← hjam, ← hx, ht]; simp
  · rw [ht, evalOrder_sort hxo, hsort, completionReport_congr hsort]
  · rw [ht, evalOrder_waiting hxo, waitingWith_eq, waitingWith_eq, hwaiting, insertWrites_append, waitingWith_eq]
    dsimp only [o']
    generalize stateOfCounts _ = st
    by_cases hd : o.detached = true
    · simp only [hd, true_or, if_true]
    · by_cases hc : st = o.state
      · simp [hd, hc]
      · simp [hd, hc]

/-- Settles O46: a first report moves the copy by its kind, and the state, the writes and the completion report follow. -/
theorem framesSettledOnceByKind : Obligations.FramesSettledOnceByKind := by
  refine ⟨?_, fun _ _ _ => rfl, ?_⟩
  · intro how i ei n s o e ho he hf t budget remade e' o' byCounts state
    refine ⟨fun hn => settleFrame_left ho hn how ei, fun hn => ?_⟩
    have hbudget : budgetLeft s.setup.params.remakeLimit o.cancelled e = budget := rfl
    have hentry : settleEntry how s.setup.params.remakeLimit o.cancelled e = (e', remade) := by
      cases how with
      | bad mis =>
        simp only [settleEntry, hbudget, e', remade]
        cases budget <;> rfl
      | good unv => rfl
      | fault => rfl
      | jam =>
        simp only [settleEntry, e', remade]
        cases o.cancelled <;> rfl
    have hstate : stateOfCounts o' = state := by
      have ho' : o'.state = o.state := rfl
      simp only [stateOfCounts, ho', state, byCounts]
    have h := settleFrame_first how ho he hf hn
    rw [hentry] at h
    dsimp only at h
    rw [← hstate]
    exact h
  · intro cancelled s b hb h15 hlen r t bad becomes raised
    have hb' : b - 1 < s.sort.bins.length := by omega
    refine ⟨fun hc hg => ?_, fun hkept => ⟨completeBin_attended hb hb' hkept, completeBin_bad hb hb' hkept,
      completeBin_ready hkept, completeBin_idle hkept⟩⟩
    show ({ completeBin cancelled s b with link.dirty := s.link.dirty } : State) = _
    unfold completeBin
    dsimp only
    rw [if_pos (by simp [hc, show (getBin s b).good = 0 from hg])]
    rfl

end Sys2Proof.Machine
end

section
/-! The fetch unit: the refill conditions, the cursor, the issue of a line read and the lines of width 0 (R67, R69, R71, R72). -/

open Sys2Proof Sys2Proof.Machine

namespace Sys2Proof.Machine

set_option Elab.async false

variable {s : State}

/-! ## Refill (R71) -/

theorem evalRefill_full (h : 16 ≤ s.fetch.buffer.length + s.fetch.reads.length) :
    evalRefill s = { s with fetch.refill := false } := if_pos h

theorem evalRefill_low (h : s.fetch.buffer.length + s.fetch.reads.length < 16)
    (hm : s.fetch.buffer.length ≤ s.setup.params.refillMark) : evalRefill s = { s with fetch.refill := true } :=
  (if_neg (Nat.not_le.2 h)).trans (if_pos hm)

theorem evalRefill_between (h : s.fetch.buffer.length + s.fetch.reads.length < 16)
    (hm : s.setup.params.refillMark < s.fetch.buffer.length) : evalRefill s = s :=
  (if_neg (Nat.not_le.2 h)).trans (if_neg (Nat.not_le.2 hm))

/-! ## The cursor (R69) -/

section
variable {n : Word} {i : Nat}

theorem moveCursor_gone (h : findItem s n = none) : moveCursor n i s = { s with fetch.cursor := firstFetching s } := by
  unfold moveCursor
  rw [h]

variable {x : FrameItem} (h : findItem s n = some x)
include h

theorem moveCursor_within (hi : i < x.image.height.toNat) :
    moveCursor n i s = { s with fetch.cursor := some (n, i) } := by
  unfold moveCursor
  rw [h]
  exact if_pos hi

theorem moveCursor_past (hi : x.image.height.toNat ≤ i) :
    moveCursor n i s =
      let s1 := onItem n (fun y => { y with state := .fetched }) s
      { s1 with fetch.cursor := firstFetching s1 } := by
  unfold moveCursor
  rw [h]
  exact if_neg (Nat.not_lt.2 hi)

end

/-! ## Lines of width 0 (R71, log entry 34) -/

theorem mayIssue_iff (s : State) : mayIssue s = true ↔ s.fetch.refill = true ∧ moving s = true ∧ s.fetch.reads.length < 2
    ∧ s.fetch.buffer.length + s.fetch.reads.length < 16 := by
  simp only [mayIssue, Bool.and_eq_true, decide_eq_true_eq, and_assoc]
  rfl

theorem emptyLine_eq_some_iff (s : State) (n : Word) (i : Nat) : emptyLine s = some (n, i) ↔
    mayIssue s = true ∧ (∀ r ∈ s.fetch.reads.head?, r.ended = none) ∧ s.fetch.cursor = some (n, i)
      ∧ ∃ x, findItem s n = some x ∧ x.image.width = 0 := by
  have hhead : s.fetch.reads.head?.all (fun r => r.ended.isNone) = true ↔ ∀ r ∈ s.fetch.reads.head?, r.ended = none := by
    cases s.fetch.reads.head? <;> simp
  have hitem : (findItem s n).any (fun x => x.image.width == 0) = true ↔ ∃ x, findItem s n = some x ∧ x.image.width = 0 := by
    cases findItem s n <;> simp
  unfold emptyLine
  by_cases hg : mayIssue s = true ∧ ∀ r ∈ s.fetch.reads.head?, r.ended = none
  · rw [if_pos (by rw [Bool.and_eq_true, hhead]; exact hg), Option.filter_eq_some_iff, hitem]
    tauto
  · rw [if_neg (by rw [Bool.and_eq_true, hhead]; exact hg)]
    simp only [reduceCtorEq, false_iff]
    tauto

/-- What FCH's evaluation of refill does not change decides, with it, whether a line of width 0 joins. -/
theorem emptyLine_evalRefill_iff (s : State) (n : Word) (i : Nat) : emptyLine (evalRefill s) = some (n, i) ↔
    (evalRefill s).fetch.refill = true ∧ moving s = true ∧ s.fetch.reads.length < 2
      ∧ s.fetch.buffer.length + s.fetch.reads.length < 16 ∧ (∀ r ∈ s.fetch.reads.head?, r.ended = none)
      ∧ s.fetch.cursor = some (n, i) ∧ ∃ x, findItem s n = some x ∧ x.image.width = 0 := by
  have hmoving : moving (evalRefill s) = moving s := by simp [moving]
  have hitem : findItem (evalRefill s) n = findItem s n := by simp [findItem]
  rw [emptyLine_eq_some_iff, mayIssue_iff, hmoving, hitem]
  simp [and_assoc]

theorem joinLine_evalRefill (n : Word) (i : Nat) (s : State) : joinLine n i (evalRefill s) =
    moveCursor n (i + 1)
      { evalRefill s with fetch.buffer := s.fetch.buffer ++ [{ number := n, index := i, pixels := [] }] } := by
  have h : (evalRefill s).fetch.buffer = s.fetch.buffer := by simp
  unfold joinLine
  rw [h]

/-! ## The issue of a read (R71, R72) -/

theorem issueRead_rests (h : mayIssue s = false ∨ s.fetch.cursor = none) : issueRead s = s := by
  unfold issueRead
  rcases h with h | h
  · rw [h]; rfl
  · rw [h]; exact ite_self _

theorem issueRead_line {n : Word} {i : Nat} {x : FrameItem} (hm : mayIssue s = true) (hc : s.fetch.cursor = some (n, i))
    (hx : findItem s n = some x) : issueRead s = issueLine n i x s := by
  unfold issueRead
  rw [if_pos hm, hc]; dsimp only
  rw [hx]

section
variable (n : Word) (i : Nat) {x : FrameItem}

theorem issueLine_empty (hw : x.image.width = 0) : issueLine n i x s = evalFetch (joinLine n i s) := if_pos hw

theorem issueLine_inside (hw : x.image.width ≠ 0) (ht : windowTest s.setup x.image i = true) (ha : s.link.areaSet = true) :
    issueLine n i x s = evalFetch (moveCursor n (i + 1)
      (emit (.read (busAddr (lineAddr x.image i)) (3 * x.image.width.toNat))
        { s with fetch.reads := s.fetch.reads ++
            [{ number := n, index := i, addr := busAddr (lineAddr x.image i), discard := false, ended := none }] })) := by
  rw [Nat.mul_comm]
  unfold issueLine emitAccess
  dsimp only
  rw [if_neg hw, if_pos ht, if_pos ha]

/-- A line of width 0 passes the test, so one that does not has bytes outside every window (R67). -/
theorem issueLine_outside (ht : windowTest s.setup x.image i = false) :
    issueLine n i x s = accessFault n (busAddr (lineAddr x.image i)) s := by
  have hw : x.image.width ≠ 0 := fun h => by simp [windowTest, h] at ht
  unfold issueLine
  dsimp only
  rw [if_neg hw, if_neg (by simp [ht])]

end

/-- Settles O36: the issue by what the cursor's line is, the cursor and refill by their cases, and the lines that join by what
`emptyLine` finds behind the evaluation of refill. -/
theorem lineReadIssuedForCursor : Obligations.LineReadIssuedForCursor := by
  refine ⟨?_, ?_, fun s => ⟨evalRefill_full, evalRefill_low, evalRefill_between⟩, ?_⟩
  · intro s hl may
    refine ⟨fun h => ?_, fun n i x hmay hc hx => ?_⟩
    · refine answers_act hl rfl (issueRead_rests (h.imp_left fun hn => ?_))
      rw [Bool.eq_false_iff, ne_eq, mayIssue_iff]
      exact hn
    · intro addr
      have hissue : issueRead (clearOut s) = issueLine n i x (clearOut s) :=
        issueRead_line ((mayIssue_iff _).2 hmay) hc hx
      refine ⟨fun hw => ?_, fun hw ht ha => ?_, fun ht => ?_⟩
      · exact answers_act hl rfl (hissue.trans (issueLine_empty n i hw))
      · exact answers_act hl rfl (hissue.trans (issueLine_inside n i hw ht ha))
      · exact answers_act hl rfl (hissue.trans (issueLine_outside n i ht))
  · exact fun n i s => ⟨moveCursor_gone, fun x hx => ⟨moveCursor_within hx, moveCursor_past hx⟩⟩
  · intro s e joins
    refine ⟨fun h => ?_, fun n i h => ?_⟩
    · refine evalFetch_none (Option.eq_none_iff_forall_ne_some.2 fun c hc => ?_)
      exact h c.1 c.2 ((emptyLine_evalRefill_iff s c.1 c.2).1 hc)
    · rw [evalFetch_join ((emptyLine_evalRefill_iff s n i).2 h), joinLine_evalRefill]

end Sys2Proof.Machine
end

section
/-! The fetch unit: how completed line reads leave the outstanding list, and what a strobe is served (R69, R73 to R75, R77, R79). -/

open Sys2Proof Sys2Proof.Machine

namespace Sys2Proof.Machine

set_option Elab.async false

variable {s : State}

/-! ## One read leaves (R73, R77, log entry 42) -/

theorem discards_iff (s : State) (r : LineRead) : discards s r = true ↔
    r.discard = true ∨ findItem s r.number = none
      ∨ ∃ x, findItem s r.number = some x ∧ (x.state = .stopped ∨ r.index < x.served) := by
  unfold discards
  cases findItem s r.number <;> simp

section
variable {r : LineRead}

theorem leaveRead_discarded (h : discards s r = true) (how : ReadEnd) : leaveRead r how s = evalFetch s := if_pos h

theorem leaveRead_joins (h : ¬discards s r = true) (bytes : List Byte) : leaveRead r (.data bytes) s =
    evalFetch { s with fetch.buffer := s.fetch.buffer ++ [{ number := r.number, index := r.index, pixels := bytes }] } :=
  if_neg h

theorem leaveRead_faults (h : ¬discards s r = true) : leaveRead r .busError s = accessFault r.number r.addr s := if_neg h

end

/-! ## Reads leave from the head of the list (R73, log entry 49) -/

/-- No completed read is at the head of the outstanding list. -/
def HeadWaits (s : State) : Prop := ∀ r ∈ s.fetch.reads.head?, r.ended = none

theorem HeadWaits.of_cons {r : LineRead} {rest : List LineRead} (hr : s.fetch.reads = r :: rest) (he : r.ended = none) :
    HeadWaits s := fun q hq => by
  rw [hr] at hq
  exact Option.some.inj hq ▸ he

theorem drainReads_waits (h : HeadWaits s) (k : Nat) : drainReads k s = s := by
  cases k with
  | zero => rfl
  | succ k =>
    unfold drainReads
    cases hr : s.fetch.reads with
    | nil => rfl
    | cons r rest =>
      dsimp only
      rw [h r (by simp [hr])]

theorem drainReads_leaves {r : LineRead} {rest : List LineRead} {how : ReadEnd} (hr : s.fetch.reads = r :: rest)
    (he : r.ended = some how) (k : Nat) :
    drainReads (k + 1) s = drainReads k (leaveRead r how { s with fetch.reads := rest }) := by
  rw [drainReads, hr]; dsimp only
  rw [he]

theorem leaveRead_reads (r : LineRead) (how : ReadEnd) (s : State) : (leaveRead r how s).fetch.reads = s.fetch.reads := by
  simp

/-- How a read leaves does not depend on the mark that it has completed. -/
theorem leaveRead_ended (r : LineRead) (e : Option ReadEnd) (how : ReadEnd) (s : State) :
    leaveRead { r with ended := e } how s = leaveRead r how s := rfl

theorem endRead_waiting {r : LineRead} (h : r.ended = none) (how : ReadEnd) : endRead how r = { r with ended := some how } :=
  if_pos h

/-! ## Arrivals (R73, R79) -/

theorem arrive_unmatched {place : Nat} (hp : s.fetch.reads.length ≤ place) (h : HeadWaits s) (how : ReadEnd) :
    arrive place how s = s := by
  unfold arrive
  rw [List.modify_eq_self hp]
  exact drainReads_waits h _

theorem arrive_oldest {r : LineRead} {rest : List LineRead} (hr : s.fetch.reads = r :: rest) (he : r.ended = none)
    (how : ReadEnd) : arrive 0 how s = drainReads rest.length (leaveRead r how { s with fetch.reads := rest }) := by
  unfold arrive
  rw [hr, List.modify_zero_cons, endRead_waiting he, List.length_cons, drainReads_leaves rfl rfl, leaveRead_ended]

theorem arrive_younger {r1 r2 : LineRead} (hr : s.fetch.reads = [r1, r2]) (h1 : r1.ended = none) (h2 : r2.ended = none)
    (how : ReadEnd) : arrive 1 how s = { s with fetch.reads := [r1, { r2 with ended := some how }] } := by
  unfold arrive
  rw [hr, List.modify_succ_cons, List.modify_zero_cons, endRead_waiting h2]
  exact drainReads_waits (.of_cons rfl h1) _

/-! ## Serving the head (R74, R75) -/

section
variable {n : Word} (i : Nat)

theorem serve_gone (h : findItem s n = none) : serve n i s = (.dark, s) := by
  unfold serve
  rw [h]

variable {x : FrameItem} (h : findItem s n = some x)
include h

theorem serve_stopped (hs : x.state = .stopped) : serve n i s = (.dark, evalFetch (passLine n i s)) := by
  unfold serve
  rw [h]
  exact if_pos hs

variable (hs : x.state ≠ .stopped)
include hs

theorem serve_pattern (hp : x.pattern = true) : serve n i s = (.pattern x, evalFetch (passLine n i s)) := by
  unfold serve
  rw [h]; dsimp only
  rw [if_neg hs, if_pos hp]

variable {i} (hp : x.pattern = false)
include hp

/-- The line itself is the oldest of those that are not behind it. -/
theorem serve_line {l : BufferLine} {rest : List BufferLine} (hk : s.fetch.buffer.dropWhile (behind n i) = l :: rest)
    (hl : l.number = n ∧ l.index = i) :
    serve n i s = (.line x l.pixels, evalFetch (passLine n i { s with fetch.buffer := rest })) := by
  unfold serve
  rw [h]; dsimp only
  rw [if_neg hs, if_neg (by simp [hp]), hk]; dsimp only
  rw [if_pos hl]

theorem serve_underrun
    (hk : ∀ l, (s.fetch.buffer.dropWhile (behind n i)).head? = some l → l.number ≠ n ∨ l.index ≠ i) :
    serve n i s = (.underrun, evalFetch (passLine n i
      { s with
        fetch.buffer := s.fetch.buffer.dropWhile (behind n i), fetch.underruns := s.fetch.underruns + 1 })) := by
  unfold serve
  rw [h]; dsimp only
  rw [if_neg hs, if_neg (by simp [hp])]
  cases hb : s.fetch.buffer.dropWhile (behind n i) with
  | nil => rfl
  | cons l rest =>
    have hne : ¬(l.number = n ∧ l.index = i) := not_and_or.2 (hk l (by rw [hb]; rfl))
    exact if_neg hne

end

/-- Settles O38: the arrivals by how many reads are out, and what is served by the frame's item and the line at the head of what
is kept of the buffer. -/
theorem lineReadsLeaveInOrder : Obligations.LineReadsLeaveInOrder := by
  refine ⟨fun result s hl => ?_, fun n i s => ?_⟩
  · intro how discarded
    have harrive {place : Nat} {e : State} (h : arrive place how (clearOut s) = e) :
        Answers (.lineReadComplete place result) none s e := answers_act hl rfl h
    refine ⟨fun r how s => ⟨fun h => ?_, fun h => ?_⟩, fun place hp h => ?_, fun r hr he => ?_, fun r1 r2 hr h1 => ?_⟩
    · exact leaveRead_discarded ((discards_iff s r).2 h) how
    · have hd : ¬discards s r = true := mt (discards_iff s r).1 h
      refine ⟨fun bytes hb => ?_, fun hb => ?_⟩
      · rw [hb]; exact leaveRead_joins hd bytes
      · rw [hb]; exact leaveRead_faults hd
    · exact harrive (arrive_unmatched (s := clearOut s) hp h how)
    · exact harrive (arrive_oldest (s := clearOut s) hr he how)
    · have hold := arrive_oldest (s := clearOut s) hr h1 how
      have hrest := leaveRead_reads r1 how { clearOut s with fetch.reads := [r2] }
      exact ⟨fun h2 => ⟨harrive (hold.trans (drainReads_waits (.of_cons hrest h2) 1)),
          harrive (arrive_younger (s := clearOut s) hr h1 h2 how)⟩,
        fun earlier h2 => harrive (hold.trans (drainReads_leaves hrest h2 0))⟩
  · intro passed kept
    have hpassed : passed = passLine n i := rfl
    have hkept : kept = s.fetch.buffer.dropWhile (behind n i) := rfl
    clear_value passed kept
    subst hpassed hkept
    exact ⟨serve_gone i, fun x h => ⟨serve_stopped i h, serve_pattern i h,
      fun hs hp => ⟨fun l rest hk hn hi => serve_line h hs hp hk ⟨hn, hi⟩, serve_underrun h hs hp⟩⟩⟩

end Sys2Proof.Machine
end

section
/-! An access fault in the order it was of: the frame settled as abandoned, the order marked and cancelled, its slot writes
(R47, R54, R20, log entry 48). -/

open Sys2Proof Sys2Proof.Machine

namespace Sys2Proof.Machine

set_option Elab.async false

/-! ## An order by its counts (R45, R47, R49) -/

theorem inFlight_cancelled (o : Order) : inFlight (cancelledOrder o) = inFlight o := by
  simp [inFlight, cancelledOrder, sumBy, Function.comp_def]

theorem stillToExpose_cancelled (o : Order) : stillToExpose (cancelledOrder o) = 0 := by
  simp [stillToExpose, cancelledOrder, sumBy, Function.comp_def]

theorem stateOfCounts_cancelled (o : Order) :
    stateOfCounts (cancelledOrder o) = if inFlight o = 0 then .complete else .cancelling := by
  rw [← inFlight_cancelled o]
  rfl

theorem cancellable_iff (o : Order) : cancellable o = true ↔ o.state ≠ .cancelling ∧ o.state ≠ .complete := by
  simp [cancellable]

theorem byCounts_eq_some {o p : Order} (h : o.byCounts = some p) : p = { o with state := stateOfCounts o } := by
  unfold Order.byCounts at h
  split at h
  · cases h
  · exact (Option.some.inj h).symm

theorem byCounts_attached {o : Order} (h : o.detached = false) : o.byCounts = some { o with state := stateOfCounts o } :=
  if_neg fun ⟨_, _, hd⟩ => by simp [h] at hd

variable {s : State}

/-- The slot writes of a cancellation: the mirror, the results of the copies it abandons, and the mirror once more where
nothing is in flight (R47, R20, log entry 48). -/
def cancelWrites (o : Order) : List SlotWrite :=
  mirrorWrite o.slot .cancelling :: abandonedWrites o
    ++ if inFlight o = 0 then [mirrorWrite o.slot .complete] else []

theorem evalLow_waiting (s : State) : (evalLow s).link.waiting = s.link.waiting := by simp

theorem cancelOrder_waiting {i : Nat} {o : Order} (ho : getOrder s i = some o) :
    (cancelOrder i s).link.waiting = if o.detached = true then s.link.waiting else waitingWith (cancelWrites o) s := by
  by_cases hd : o.detached = true
  · rw [if_pos hd, cancel_detached_waiting i s o ho hd]
  · rw [if_neg hd]
    rw [Bool.not_eq_true] at hd
    have hd' : (cancelledOrder o).detached = false := hd
    obtain ⟨u, hu⟩ : ∃ u, u = evalLow (writeCancelled o (cancelledOrder o)
      (writeMirror (cancelledOrder o) (putOrder i (some (cancelledOrder o)) s))) := ⟨_, rfl⟩
    have hget : getOrder u i = some (cancelledOrder o) := getOrder_set ho _ _ (by simp [hu])
    have hwaiting : u.link.waiting = insertWrites (mirrorWrite o.slot .cancelling :: abandonedWrites o) s.link.waiting := by
      rw [hu, evalLow_waiting, writeCancelled_eq hd, writeMirror_eq hd']
      rfl
    have heval : cancelOrder i s = evalOrder i u := by
      unfold cancelOrder
      rw [ho, hu]
    rw [heval, evalOrder_waiting hget, waitingWith_eq, waitingWith_eq, hwaiting, stateOfCounts_cancelled, cancelWrites,
      insertWrites_append]
    by_cases h0 : inFlight o = 0
    · rw [if_pos h0, if_pos h0, if_neg (by simp [hd, cancelledOrder])]
      rfl
    · rw [if_neg h0, if_neg h0, if_pos (.inr rfl)]
      rfl

/-! ## The frame settled by an access fault (R54) -/

/-- The print entry after an access fault on a frame of it: the copy is abandoned (R54). -/
def faultedEntry (e : Entry) : Entry := { e with f := e.f - 1, a := e.a + 1 }

/-- The order after an access fault on frame n of its entry ei, before it is cancelled (R54). -/
def faultedOrder (ei : Nat) (n : Word) (e : Entry) (o : Order) : Order :=
  { o with entries := o.entries.set ei (faultedEntry e), unsettled := o.unsettled.filter (fun m => m != n), faultMark := true }

section
variable {i ei : Nat} {n : Word} {o : Order} {e : Entry} (ho : getOrder s i = some o) (he : o.entries[ei]? = some e)
include he

theorem faultedOrder_entry : (faultedOrder ei n e o).entries[ei]? = some (faultedEntry e) := by
  simp [faultedOrder, (List.getElem?_eq_some_iff.1 he).1]

variable (hf : 0 < e.f) (hn : n ∈ o.unsettled)
include ho hf hn

/-- The first report of an access fault on a frame. -/
theorem faultFrame_eq : faultFrame i ei n s =
    let u := writeResult (faultedOrder ei n e o) ei (putOrder i (some (faultedOrder ei n e o)) s)
    if cancellable o then cancelOrder i u else evalOrder i (evalLow u) := by
  have hsettled : { settledOrder .fault s.setup.params.remakeLimit ei n o with faultMark := true } = faultedOrder ei n e o := by
    rw [settledOrder_eq .fault _ n he]
    rfl
  unfold faultFrame
  rw [ho]; dsimp only
  rw [if_pos (settles_iff.2 ⟨hn, e, he, hf⟩), hsettled]
  rfl

theorem faultFrame_table : (faultFrame i ei n s).plan.table = s.plan.table.set i
    (if cancellable o then cancelledOrder (faultedOrder ei n e o) else faultedOrder ei n e o).byCounts := by
  rw [faultFrame_eq ho he hf hn]; dsimp only
  split
  · exact cancelOrder_table_of ho (by simp)
  · exact evalOrder_table_of ho (by simp)

/-- The result that changes, and then what the cancellation or the completion writes (log entry 48). -/
theorem faultFrame_waiting : (faultFrame i ei n s).link.waiting =
    if o.detached = true then s.link.waiting else
      waitingWith (resultWrites o.slot ei (faultedEntry e)
        ++ (if cancellable o then cancelWrites (faultedOrder ei n e o)
          else if stateOfCounts (faultedOrder ei n e o) = o.state then []
          else [mirrorWrite o.slot (stateOfCounts (faultedOrder ei n e o))])) s := by
  obtain ⟨o1, ho1⟩ : ∃ o1, o1 = faultedOrder ei n e o := ⟨_, rfl⟩
  obtain ⟨u, hu⟩ : ∃ u, u = writeResult o1 ei (putOrder i (some o1) s) := ⟨_, rfl⟩
  have hget : getOrder u i = some o1 := getOrder_set ho _ _ (by simp [hu])
  have hlow : getOrder (evalLow u) i = some o1 := (getOrder_congr (by simp) i).trans hget
  have hdetached : o1.detached = o.detached := by rw [ho1]; rfl
  have hstate : o1.state = o.state := by rw [ho1]; rfl
  have hslot : o1.slot = o.slot := by rw [ho1]; rfl
  have hwaiting : u.link.waiting =
      if o.detached = true then s.link.waiting else waitingWith (resultWrites o.slot ei (faultedEntry e)) s := by
    rw [hu, waitingWith_result _ _ _ _ (ho1 ▸ faultedOrder_entry he), hdetached, hslot]
    rfl
  rw [faultFrame_eq ho he hf hn, ← ho1]; dsimp only
  rw [← hu, waitingWith_eq]
  rw [waitingWith_eq] at hwaiting
  by_cases hd : o.detached = true
  · rw [if_pos hd] at hwaiting ⊢
    split
    · rw [cancelOrder_waiting hget, hdetached, if_pos hd, hwaiting]
    · rw [evalOrder_waiting hlow, hdetached, if_pos (.inl hd), evalLow_waiting, hwaiting]
  · rw [if_neg hd] at hwaiting ⊢
    rw [insertWrites_append]
    split
    · rw [cancelOrder_waiting hget, hdetached, if_neg hd, waitingWith_eq, hwaiting]
    · rw [evalOrder_waiting hlow, hdetached, hstate, hslot, waitingWith_eq, evalLow_waiting, hwaiting]
      by_cases hc : stateOfCounts o1 = o.state <;> simp [hd, hc]

end

/-- What the change of state after an access fault writes, by the state the order was in (R45, R47, R54). -/
theorem faultedWrites_eq (ei : Nat) (n : Word) (e : Entry) (o : Order) :
    let o1 := faultedOrder ei n e o
    let ends := if inFlight o1 = 0 then [mirrorWrite o.slot .complete] else []
    (if cancellable o then cancelWrites o1
      else if stateOfCounts o1 = o.state then [] else [mirrorWrite o.slot (stateOfCounts o1)]) =
      if o.state = .complete then []
      else if o.state = .cancelling then ends
      else mirrorWrite o.slot .cancelling :: abandonedWrites o1 ++ ends := by
  intro o1 ends
  have hstate : o1.state = o.state := rfl
  by_cases hc : o.state = .complete
  · rw [if_neg (by simp [cancellable_iff, hc]), if_pos hc, if_pos (by simp [stateOfCounts, hstate, hc])]
  · rw [if_neg hc]
    by_cases hk : o.state = .cancelling
    · rw [if_neg (by simp [cancellable_iff, hk]), if_pos hk]
      by_cases h0 : inFlight o1 = 0 <;> simp [stateOfCounts, ends, hstate, hk, h0]
    · rw [if_pos ((cancellable_iff o).2 ⟨hk, hc⟩), if_neg hk]
      rfl

/-- The order of an access fault, where it is not freed: marked, the frame settled as abandoned, and cancelled (R47, R54). -/
theorem faulted_result {ei : Nat} {n : Word} {o p : Order} {e : Entry} (he : o.entries[ei]? = some e)
    (hp : (if cancellable o then cancelledOrder (faultedOrder ei n e o) else faultedOrder ei n e o).byCounts = some p) :
    p.faultMark = true ∧ n ∉ p.unsettled ∧ (p.state = .cancelling ∨ p.state = .complete)
      ∧ (o.state ≠ .cancelling → o.state ≠ .complete → p.cancelled = true ∧ stillToExpose p = 0)
      ∧ ∃ q, p.entries[ei]? = some q ∧ q.f = e.f - 1 ∧ q.used = e.used ∧ q.a + q.t = e.a + e.t + 1 := by
  have hentry := faultedOrder_entry (n := n) he
  have hn : n ∉ (faultedOrder ei n e o).unsettled := by simp [faultedOrder]
  rw [byCounts_eq_some hp]
  by_cases hc : cancellable o = true
  · simp only [if_pos hc]
    refine ⟨rfl, hn, ?_, fun _ _ => ⟨rfl, stillToExpose_cancelled _⟩,
      { faultedEntry e with a := e.a + 1 + e.t, t := 0 }, ?_, rfl, rfl, ?_⟩
    · rw [stateOfCounts_cancelled]
      split <;> simp
    · simp only [cancelledOrder, List.getElem?_map, hentry, Option.map_some]
      rfl
    · dsimp only; omega
  · simp only [if_neg hc]
    have hstate : (faultedOrder ei n e o).state = .cancelling ∨ (faultedOrder ei n e o).state = .complete := by
      by_contra hno
      exact hc ((cancellable_iff o).2 (not_or.1 hno))
    refine ⟨rfl, hn, ?_, fun hk hd => absurd ((cancellable_iff o).2 ⟨hk, hd⟩) hc, _, hentry, rfl, rfl, ?_⟩
    · rcases hstate with h | h
      · simp only [stateOfCounts, h]
        split <;> simp
      · simp [stateOfCounts, h]
    · simp [faultedEntry]; omega

/-! ## The FAULT cause while orders change -/

@[simp] theorem evalLowOf_fault (m : Mag) (s : State) : (evalLowOf m s).link.causes.fault = s.link.causes.fault := by
  unfold evalLowOf
  dsimp only
  split <;> simp

@[simp] theorem evalLow_fault (s : State) : (evalLow s).link.causes.fault = s.link.causes.fault := by simp [evalLow]

theorem attendBin_fault (b : Nat) (s : State) : (attendBin b s).link.causes.fault = s.link.causes.fault := by
  unfold attendBin
  split <;> simp

theorem completeBin_fault (cancelled : Bool) (s : State) (b : Nat) :
    (completeBin cancelled s b).link.causes.fault = s.link.causes.fault := by
  unfold completeBin
  dsimp only
  split
  · simp
  · split
    · simp [attendBin_fault]
    · split <;> simp

@[simp] theorem completionReport_fault (bins : List Nat) (cancelled : Bool) (s : State) :
    (completionReport bins cancelled s).link.causes.fault = s.link.causes.fault :=
  foldl_keep (fun t : State => t.link.causes.fault) _ (completeBin_fault cancelled) bins s

@[simp] theorem evalOrder_fault (i : Nat) (s : State) : (evalOrder i s).link.causes.fault = s.link.causes.fault := by
  unfold evalOrder
  split
  · rfl
  · split
    · rfl
    · split
      · unfold completeOrder
        split <;> simp [freeOrder]
      · simp

@[simp] theorem cancelOrder_fault (i : Nat) (s : State) : (cancelOrder i s).link.causes.fault = s.link.causes.fault := by
  unfold cancelOrder
  split <;> simp

@[simp] theorem faultFrame_fault (i ei : Nat) (n : Word) (s : State) :
    (faultFrame i ei n s).link.causes.fault = s.link.causes.fault := by
  unfold faultFrame
  split
  · rfl
  · dsimp only
    split
    · split <;> simp
    · rfl

end Sys2Proof.Machine
end

section
/-! An access fault on a frame in the fetch unit and in the web map, and the obligation on it (R71, R77, R121, R185). -/

open Sys2Proof Sys2Proof.Machine

namespace Sys2Proof.Machine

set_option Elab.async false

variable {s : State} {n : Word}

/-! ## A stopped frame in the fetch unit (R77) -/

/-- Frame n takes no more part in the fetch unit: its items STOPPED, no line of it in the buffer, the cursor not in it. -/
structure FrameStopped (n : Word) (s : State) : Prop where
  items : ∀ y ∈ s.fetch.items, y.number = n → y.state = .stopped
  buffer : ∀ l ∈ s.fetch.buffer, l.number ≠ n
  cursor : ∀ k i, s.fetch.cursor = some (k, i) → k ≠ n

/-- The oldest FETCHING item is of another frame than the stopped one. -/
theorem firstFetching_ne (h : ∀ y ∈ s.fetch.items, y.number = n → y.state = .stopped) {k : Word} {i : Nat}
    (hk : firstFetching s = some (k, i)) : k ≠ n := by
  obtain ⟨x, hx, he⟩ := Option.map_eq_some_iff.1 hk
  obtain ⟨rfl, -⟩ := Prod.mk.inj he
  intro hn
  have hstate := List.find?_some hx
  rw [h x (List.mem_of_find?_eq_some hx) hn] at hstate
  cases hstate

namespace FrameStopped

theorem congr {t : State} (h : FrameStopped n s) (e : t.fetch = s.fetch) : FrameStopped n t := by
  obtain ⟨items, buffer, cursor⟩ := h
  exact ⟨e ▸ items, e ▸ buffer, e ▸ cursor⟩

theorem moveCursor (h : FrameStopped n s) {k : Word} (hk : k ≠ n) (i : Nat) : FrameStopped n (moveCursor k i s) := by
  cases hx : findItem s k with
  | none =>
    rw [moveCursor_gone hx]
    exact ⟨h.items, h.buffer, fun _ _ => firstFetching_ne h.items⟩
  | some x =>
    rcases Nat.lt_or_ge i x.image.height.toNat with hi | hi
    · rw [moveCursor_within hx hi]
      refine ⟨h.items, h.buffer, fun m j hm => ?_⟩
      obtain ⟨rfl, -⟩ := Prod.mk.inj (Option.some.inj hm)
      exact hk
    · rw [moveCursor_past hx hi]
      have hitems : ∀ y ∈ (onItem k (fun y => { y with state := .fetched }) s).fetch.items, y.number = n → y.state = .stopped := by
        intro y hy hn
        obtain ⟨z, hz, rfl⟩ := List.mem_map.1 hy
        by_cases hzk : z.number = k
        · rw [if_pos hzk] at hn
          exact absurd (hzk.symm.trans hn) hk
        · rw [if_neg hzk] at hn ⊢
          exact h.items z hz hn
      exact ⟨hitems, h.buffer, fun _ _ => firstFetching_ne hitems⟩

theorem evalRefill (h : FrameStopped n s) : FrameStopped n (evalRefill s) := by
  obtain ⟨items, buffer, cursor⟩ := h
  exact ⟨by simpa using items, by simpa using buffer, by simpa using cursor⟩

/-- Only lines of the cursor's frame join. -/
theorem joinLine (h : FrameStopped n s) {k : Word} {i : Nat} (hc : s.fetch.cursor = some (k, i)) :
    FrameStopped n (joinLine k i s) := by
  have hk := h.cursor k i hc
  have hbuffer : ∀ l ∈ s.fetch.buffer ++ [{ number := k, index := i, pixels := [] }], l.number ≠ n := by
    intro l hl
    rcases List.mem_append.1 hl with hl | hl
    · exact h.buffer l hl
    · rw [List.mem_singleton.1 hl]
      exact hk
  have hjoined : FrameStopped n
      { s with fetch.buffer := s.fetch.buffer ++ [{ number := k, index := i, pixels := [] }] } :=
    ⟨h.items, hbuffer, h.cursor⟩
  exact hjoined.moveCursor hk (i + 1)

theorem joinLines (h : FrameStopped n s) (k : Nat) : FrameStopped n (joinLines k s) := by
  induction k generalizing s with
  | zero => exact h
  | succ k ih =>
    unfold Machine.joinLines
    split
    · exact h
    · rename_i c i hc
      exact ih (h.joinLine (emptyLine_room hc).2).evalRefill

theorem evalFetch (h : FrameStopped n s) : FrameStopped n (evalFetch s) := h.evalRefill.joinLines _

end FrameStopped

/-- What an access fault on frame n does in the fetch unit: its items STOPPED, its lines out, the cursor moved on (R77). -/
def stopFrame (n : Word) (s : State) : State :=
  let s1 := onItem n (fun x => { x with state := .stopped }) s
  let s2 := { s1 with fetch.buffer := s1.fetch.buffer.filter (fun l => l.number != n) }
  match s2.fetch.cursor with
  | some (k, _) => if k = n then { s2 with fetch.cursor := firstFetching s2 } else s2
  | none => s2

/-- Beside the cursor, items and buffer are those of the stopped frame. -/
theorem stopFrame_eq (n : Word) (s : State) : ∃ c, stopFrame n s =
    { s with
      fetch.items := s.fetch.items.map (fun y => if y.number = n then { y with state := .stopped } else y)
      fetch.buffer := s.fetch.buffer.filter (fun l => l.number != n), fetch.cursor := c } := by
  unfold stopFrame
  dsimp only
  split
  · split <;> exact ⟨_, rfl⟩
  · exact ⟨_, rfl⟩

theorem stopFrame_stopped (n : Word) (s : State) : FrameStopped n (stopFrame n s) := by
  have hitems : ∀ y ∈ (onItem n (fun x => { x with state := .stopped }) s).fetch.items, y.number = n → y.state = .stopped := by
    intro y hy hn
    obtain ⟨z, -, rfl⟩ := List.mem_map.1 hy
    by_cases hz : z.number = n
    · rw [if_pos hz]
    · rw [if_neg hz] at hn
      exact absurd hn hz
  have hbuffer : ∀ l ∈ s.fetch.buffer.filter (fun l => l.number != n), l.number ≠ n := fun l hl => by
    simpa using (List.mem_filter.1 hl).2
  unfold stopFrame
  dsimp only
  split
  · rename_i k i hc
    split
    · exact ⟨hitems, hbuffer, fun _ _ => firstFetching_ne hitems⟩
    · rename_i hk
      refine ⟨hitems, hbuffer, fun m j hm => ?_⟩
      obtain ⟨rfl, -⟩ := Prod.mk.inj (Option.some.inj (hc.symm.trans hm))
      exact hk
  · rename_i hc
    exact ⟨hitems, hbuffer, fun m j hm => by cases hc.symm.trans hm⟩

/-! ## The frame's entry in the map (R121) -/

theorem spoilEntry_map (n : Word) (s : State) : (spoilEntry n s).web.map =
    s.web.map.map (fun e => if e.number = n then rejected { e with flags.spoiled := true } else e) := rfl

@[simp] theorem rejected_number (e : MapEntry) : (rejected e).number = e.number := by
  unfold rejected onFrame
  split <;> rfl

/-- The spoiled entry is found by its number. -/
theorem entryNumbered_spoilEntry {e : MapEntry} (h : entryNumbered s n = some e) :
    entryNumbered (spoilEntry n s) n = some (rejected { e with flags.spoiled := true }) := by
  have hnumber : e.number = n := by simpa using List.find?_some h
  have hsame : ((fun x : MapEntry => x.number == n) ∘
      fun e => if e.number = n then rejected { e with flags.spoiled := true } else e) = fun x => x.number == n := by
    funext x
    by_cases hx : x.number = n <;> simp [hx]
  unfold entryNumbered at h ⊢
  rw [spoilEntry_map, List.find?_map, hsame, h, Option.map_some, if_pos hnumber]

theorem rejected_piece {e : MapEntry} {f : FrameInfo} (hf : e.piece = .frame f) :
    (rejected e).piece = .frame { f with reject := true } := by
  unfold rejected onFrame
  rw [hf]

/-- The report of an access fault to the planner, where frame n is still in the map (R54, R77). -/
def reportFault (n : Word) (s : State) : State :=
  match entryNumbered s n with
  | some e => (match e.piece with
    | .frame f => faultFrame f.order f.entry n s
    | _ => s)
  | none => s

theorem reportFault_frame (n : Word) (s : State) : (reportFault n s).fetch = s.fetch ∧ (reportFault n s).web = s.web
    ∧ (reportFault n s).eng = s.eng ∧ (reportFault n s).link.causes.fault = s.link.causes.fault := by
  unfold reportFault
  split
  · split <;> simp
  · simp

theorem reportFault_of_frame {e : MapEntry} {f : FrameInfo} (h : entryNumbered s n = some e) (hf : e.piece = .frame f) :
    reportFault n s = faultFrame f.order f.entry n s := by
  unfold reportFault
  rw [h]; dsimp only
  rw [hf]

/-! ## The fault record (R185) -/

theorem recordFault_fault (kind : FaultKind) (slot : Nat) (addr : Long) (s : State) :
    (recordFault kind slot addr s).link.causes.fault = true := by
  unfold recordFault
  split
  · assumption
  · rfl

/-! ## The parts of an access fault (R77) -/

/-- The state of an access fault with the frame stopped, its entry spoiled and the fault recorded. -/
def faultRecorded (n : Word) (addr : Long) (x : FrameItem) (s : State) : State :=
  recordFault .imageRead x.slot addr (spoilEntry n (stopFrame n s))

theorem accessFault_eq {x : FrameItem} (h : findItem s n = some x) (addr : Long) :
    accessFault n addr s = evalFetch (reportFault n (faultRecorded n addr x s)) := by
  unfold accessFault
  rw [h]
  rfl

section
variable (n : Word) (addr : Long) (x : FrameItem) (s : State)

theorem faultRecorded_fetch : (faultRecorded n addr x s).fetch = (stopFrame n s).fetch := by simp [faultRecorded]

theorem faultRecorded_keeps : (faultRecorded n addr x s).plan = s.plan
    ∧ (faultRecorded n addr x s).link.waiting = s.link.waiting := by
  obtain ⟨c, hc⟩ := stopFrame_eq n s
  simp [faultRecorded, hc]

theorem faultRecorded_map : (faultRecorded n addr x s).web.map = (spoilEntry n s).web.map := by
  obtain ⟨c, hc⟩ := stopFrame_eq n s
  simp [faultRecorded, hc, spoilEntry_map]

theorem faultRecorded_eng : (faultRecorded n addr x s).eng = (recordFault .imageRead x.slot addr s).eng := by
  obtain ⟨c, hc⟩ := stopFrame_eq n s
  exact (recordFault_same (by simp [hc]) (by simp [hc])).1

end

/-- Settles O37: the frame is out of the fetch unit and stays out (`FrameStopped`), its entry is spoiled, the fault recorded, and
its order changes as the first report of a fault has it (`faultFrame_table`, `faultFrame_waiting`). -/
theorem accessFaultStopsFrame : Obligations.AccessFaultStopsFrame := by
  intro n addr s x hx t r
  obtain ⟨v, hv⟩ : ∃ v, v = faultRecorded n addr x s := ⟨_, rfl⟩
  have ht : t = evalFetch (reportFault n v) := hv ▸ accessFault_eq hx addr
  obtain ⟨hfetch, hweb, heng, hfault⟩ := reportFault_frame n v
  obtain ⟨hplan, hwaiting⟩ := faultRecorded_keeps n addr x s
  have hmap : v.web.map = (spoilEntry n s).web.map := hv ▸ faultRecorded_map n addr x s
  have hstop : (reportFault n v).fetch = (stopFrame n s).fetch := hfetch.trans (hv ▸ faultRecorded_fetch n addr x s)
  have hstopped : FrameStopped n (reportFault n v) := (stopFrame_stopped n s).congr hstop
  have hleft : FrameStopped n t := ht ▸ hstopped.evalFetch
  obtain ⟨c, hc⟩ := stopFrame_eq n s
  refine ⟨⟨_, ht, ?_, ?_, hstopped.cursor⟩, hleft.items, hleft.buffer, by simp [t], hleft.cursor, ?_, ?_, ?_, ?_⟩
  · rw [hstop, hc]
  · rw [hstop, hc]
  · have hspoiled : t.web.map = (spoilEntry n s).web.map := by
      rw [ht, ← hmap, ← hweb]
      simp
    rw [hspoiled, spoilEntry_map]
    refine List.map_congr_left fun e _ => ?_
    obtain ⟨number, piece, start, length, flags⟩ := e
    cases piece <;> rfl
  · rw [show t.eng = (reportFault n v).eng by simp [ht], heng, hv]
    exact faultRecorded_eng n addr x s
  · rw [show t.link = (reportFault n v).link by simp [ht], hfault, hv]
    exact recordFault_fault ..
  · intro e f o pe he hf ho hn hpe hcopy
    have hnumbered : entryNumbered v n = _ :=
      (congrArg (List.find? _) hmap).trans (entryNumbered_spoilEntry he)
    have hreport : reportFault n v = faultFrame f.order f.entry n v := 
      reportFault_of_frame (f := { f with reject := true }) hnumbered (rejected_piece hf)
    have hvo : getOrder v f.order = some o := (getOrder_congr (by rw [hv, hplan]) _).trans ho
    have horder : getOrder t f.order = _ := getOrder_set hvo _ t (by
      rw [← faultFrame_table hvo hpe hcopy hn, ← hreport, ht]
      simp)
    refine ⟨fun hd => ?_, ?_, fun p hp => faulted_result hpe (horder.symm.trans hp)⟩
    · rw [horder]
      refine ⟨_, byCounts_attached ?_⟩
      split <;> exact hd
    · rw [show t.link = (faultFrame f.order f.entry n v).link by simp [ht, hreport], faultFrame_waiting hvo hpe hcopy hn,
        faultedWrites_eq, waitingWith_congr (v := s) (by rw [hv, hwaiting]), hv, hwaiting]
      rfl

end Sys2Proof.Machine
end

section
/-! The pulse calculator: floor and ceiling, and what a computed line is made of (chapter 5, R76 to R92). -/

open Sys2Proof Sys2Proof.Machine

namespace Sys2Proof.Machine

set_option Elab.async false

/-! ## Floor and ceiling -/

section
variable {pMin : Nat} {pMax : Int} {p0 : Nat}

theorem limitPulse_dark (h : pMax < pMin) : limitPulse pMin pMax p0 = (0, p0 != 0 && decide (pMax < p0)) := if_pos h

theorem limitPulse_ceiling (h : (pMin : Int) ≤ pMax) (hp : pMax < p0) : limitPulse pMin pMax p0 = (pMax.toNat, true) := by
  unfold limitPulse
  rw [if_neg (not_lt.2 h), if_pos hp]

theorem limitPulse_floor (h : (pMin : Int) ≤ pMax) (hp : p0 < pMin) : limitPulse pMin pMax p0 = (0, false) := by
  unfold limitPulse
  rw [if_neg (not_lt.2 h), if_neg (by omega), if_pos hp]

theorem limitPulse_between (h : pMin ≤ p0) (hp : (p0 : Int) ≤ pMax) : limitPulse pMin pMax p0 = (p0, false) := by
  unfold limitPulse
  rw [if_neg (by omega), if_neg (not_lt.2 hp), if_neg (not_lt.2 h)]

/-- L4 for one pulse: it is 0 or between floor and ceiling, whatever the raw pulse. -/
theorem limitPulse_sound (pMin : Nat) (pMax : Int) (p0 : Nat) : (limitPulse pMin pMax p0).1 = 0
    ∨ (pMin ≤ (limitPulse pMin pMax p0).1 ∧ ((limitPulse pMin pMax p0).1 : Int) ≤ pMax) := by
  rcases lt_or_ge pMax pMin with h | h
  · rw [limitPulse_dark h]; exact .inl rfl
  rcases lt_or_ge pMax p0 with hp | hp
  · rw [limitPulse_ceiling h hp]; right; dsimp only; omega
  rcases lt_or_ge p0 pMin with hf | hf
  · rw [limitPulse_floor h hf]; exact .inl rfl
  · rw [limitPulse_between hf hp]; exact .inr ⟨hf, hp⟩

end

/-- Settles O51: a case for each place the raw pulse can take towards floor and ceiling. -/
theorem pulseBetweenFloorAndCeiling : Obligations.PulseBetweenFloorAndCeiling := by
  intro pMin p0 pMax hmin
  refine ⟨fun h => ⟨fun hz => ?_, fun _ hp => ?_, fun hf hp => ?_, fun hp => ?_⟩,
    fun h => ⟨fun hp => ?_, fun hz => ?_, fun hp hz => ?_⟩, limitPulse_sound pMin pMax p0⟩
  · exact limitPulse_floor h (by omega)
  · exact limitPulse_floor h hp
  · exact limitPulse_between hf hp
  · exact limitPulse_ceiling h hp
  · rw [limitPulse_dark h, decide_eq_false (not_lt.2 hp), Bool.and_false]
  · rw [limitPulse_dark h, hz]; rfl
  · rw [limitPulse_dark h, decide_eq_true hp, bne_iff_ne.2 hz]; rfl

/-! ## The factors -/

/-- The step gain as a number: the two steps clamped, their sum clamped (R85). -/
theorem stepGain_cast (density colour : Byte) : (stepGain density colour : Int) = 1024 + 64 * combinedStep density colour := by
  have hlow : -12 ≤ combinedStep density colour := le_max_left _ _
  exact Int.toNat_of_nonneg (by omega)

theorem rawPulse_eq (e g u k : Nat) : rawPulse e g u k = (e * g * u * k + 2147483648) / 4294967296 := rfl

/-- The raw pulse of the largest exposure value, gains and scale (R88). -/
theorem rawPulse_le {e g u k : Nat} (he : e ≤ 4095) (hg : g ≤ 1792) (hu : u ≤ 1279) (hk : k ≤ 65535) :
    rawPulse e g u k ≤ 143211 := by
  have hprod : e * g * u * k ≤ 4095 * 1792 * 1279 * 65535 :=
    Nat.mul_le_mul (Nat.mul_le_mul (Nat.mul_le_mul he hg) hu) hk
  rw [rawPulse_eq]
  omega

/-! ## Pixels, border and pattern -/

theorem imageValue_pixel {x : FrameItem} {e j : Nat} (he : e = x.image.left.toNat + j) (hj : j < x.image.width.toNat)
    (px : List Byte) (c : Chan) : imageValue x px e c = (px.getD (3 * j + chanIndex c) 0).toNat := by
  unfold imageValue
  rw [if_pos (by omega), show e - x.image.left.toNat = j by omega]

theorem imageValue_border {x : FrameItem} {e : Nat}
    (he : e < x.image.left.toNat ∨ x.image.left.toNat + x.image.width.toNat ≤ e) (px : List Byte) (c : Chan) :
    imageValue x px e c = 0 := if_neg (by omega)

theorem patternValue_eq (x : FrameItem) (i e : Nat) (c : Chan) : patternValue x i e c =
    if i * 4 / x.length = 3 ∨ i * 4 / x.length = chanIndex c then 17 * (e * 16 / x.paperElems) else 0 := by
  simp [patternValue, bandLights]

/-- The sixteen steps of a pattern line reach 17 × 15 = 255 (R76). -/
theorem patternValue_le {x : FrameItem} {e : Nat} (he : e < x.paperElems) (i : Nat) (c : Chan) : patternValue x i e c ≤ 255 := by
  have hstep : e * 16 / x.paperElems < 16 := Nat.div_lt_of_lt_mul (by omega)
  unfold patternValue; split <;> omega

/-! ## The line -/

/-- A pixel counts as clipped once, whatever channels of it clip (R92). -/
theorem clipCount_computeLine (k : LineInputs) (value : Nat → Chan → Nat) : clipCount (computeLine k value) =
    (List.range k.item.paperElems).countP (fun e =>
      (pulseOf k e .red (value e .red)).2 || (pulseOf k e .green (value e .green)).2 || (pulseOf k e .blue (value e .blue)).2) :=
  List.countP_map

theorem computeLine_widths (k : LineInputs) (value : Nat → Chan → Nat) : (computeLine k value).map (·.1) =
    (List.range k.item.paperElems).map (fun e =>
      { red := (pulseOf k e .red (value e .red)).1, green := (pulseOf k e .green (value e .green)).1
        blue := (pulseOf k e .blue (value e .blue)).1 }) :=
  List.map_map

/-- The line that an answer of item x has computed, with the setup store as it stands (R94). -/
def lineOf (x : FrameItem) (set i : Nat) (a : LineAnswer) (s : State) : List (Rgb × Bool) :=
  computeLine { item := x, toneSet := set, setup := s.setup } (answerValues a i)

theorem exposeLine_computed {a : LineAnswer} {x : FrameItem} (h : answerItem a = some x) (n : Word) (set i : Nat) (s : State) :
    exposeLine n set i a s = ((lineOf x set i a s).map (·.1), addClips n (clipCount (lineOf x set i a s))
      { s with pulse.clipped := s.pulse.clipped + BitVec.ofNat 32 (clipCount (lineOf x set i a s)), pulse.held := 0 }) := by
  unfold exposeLine
  rw [h]
  rfl

theorem exposeLine_dark {a : LineAnswer} (h : answerItem a = none) (n : Word) (set i : Nat) (s : State) :
    exposeLine n set i a s = ([], s) := by
  unfold exposeLine
  rw [h]

/-- Settles O52, a clause at a time. -/
theorem lineComputedFromFactors : Obligations.LineComputedFromFactors := by
  refine ⟨fun k e c v => ?_, fun d i v j t ht => ⟨tableGet_tableSet d t 0 i j v ht, rfl⟩, stepGain_cast, rawPulse_eq,
    fun _ _ _ _ => rawPulse_le, fun _ => rfl,
    fun x px e c => ⟨fun j he hj => imageValue_pixel he hj px c, fun he => imageValue_border he px c⟩,
    fun x i e c _ he => ⟨patternValue_eq x i e c, patternValue_le he i c⟩, fun n set i a s x hx => ?_,
    fun n set i a s ha => exposeLine_dark ?_ n set i s⟩
  · cases c <;> rfl
  · intro k px clips
    have hclips : clipCount (lineOf x set i a s) = clips := clipCount_computeLine k (answerValues a i)
    rw [exposeLine_computed hx, hclips]
    refine ⟨computeLine_widths k (answerValues a i), ?_⟩
    refine congrArg (fun m : List MapEntry => ({ s with
      pulse.clipped := s.pulse.clipped + BitVec.ofNat 32 clips, pulse.held := 0, web.map := m } : State)) ?_
    refine List.map_congr_left fun e _ => ?_
    split
    · unfold onFrame; split <;> rfl
    · rfl
  · rcases ha with rfl | rfl <;> rfl

end Sys2Proof.Machine
end

section
/-! What the engine invariants read of a state, and the operations that keep it (11.1, L4). -/

open Sys2Proof Sys2Proof.Machine

namespace Sys2Proof.Machine

set_option Elab.async false

variable {s t : State}

/-! ## The two invariants together -/

/-- The engine state agrees with the blocks, and the light is in its limits. -/
structure EngineLight (s : State) : Prop where
  engine : EngineSound s
  light : LightSound s

/-- The same of a part that takes events, so that an entry of the web map means that RUN is high. -/
structure EngineLive (s : State) : Prop extends EngineLight s where
  notHalted : s.eng.state ≠ .halted

theorem EngineLive.of_map (h : EngineLive s) (hmap : s.web.map ≠ []) : moving s = true := by
  by_contra hm
  exact hmap (h.engine.map (by simpa using hm) h.notHalted).1

theorem EngineLight.moving_of_run (h : EngineLight s) (hr : runHigh s = true) : moving s = true := h.engine.run.symm.trans hr

theorem EngineLight.moving_of_web (h : EngineLight s) (hw : s.line.web ≠ .idle) : moving s = true :=
  h.moving_of_run (by simpa [runHigh] using hw)

theorem EngineLight.moving_of_target (h : EngineLight s) (ht : s.paper.target.isSome = true) : moving s = true :=
  h.engine.change ht

theorem EngineLight.web_of_still (h : EngineLight s) (hm : moving s = false) : s.line.web = .idle := by
  by_contra hw
  rw [h.moving_of_web hw] at hm
  cases hm

theorem underway_of_moving (hm : moving s = true) : underway s = true := by simp [underway, hm]

/-! ## What the invariants read -/

/-- What the invariants read of a state beside what they say is empty while RUN is low. -/
structure EngineView where
  state : EngineState
  web : WebState
  supervised : Bool
  head : List Rgb
  changing : Bool
  changeTimer : Bool
  setup : Setup
  areaSet : Bool
  timer : Bool
  switchFlag : Bool
  watching : Bool
  knife : KnifeState
  leftHome : Bool
  knifeTimer : Bool
  solenoid : Bool

def engineView (s : State) : EngineView :=
  { state := s.eng.state, web := s.line.web, supervised := s.line.supervision.isSome, head := s.line.head
    changing := s.paper.target.isSome, changeTimer := s.paper.timer.isSome, setup := s.setup, areaSet := s.link.areaSet
    timer := s.intake.timer.isSome, switchFlag := s.plan.switchFlag, watching := s.supply.watching, knife := s.cut.knife
    leftHome := s.cut.leftHome, knifeTimer := s.cut.timer.isSome, solenoid := s.cut.solenoid }

/-- Frame list, line buffer and cursor of the fetch unit are empty (R78, R79). -/
def FetchEmpty (s : State) : Prop := s.fetch.items = [] ∧ s.fetch.buffer = [] ∧ s.fetch.cursor = none

/-- What is empty while RUN is low stays so. -/
structure EmptyKept (s t : State) : Prop where
  map : s.web.map = [] → t.web.map = [] := by simp
  hold : s.web.hold = none → t.web.hold = none := by simp
  mark : s.cut.cursor = none → t.cut.cursor = none := by simp
  fetch : FetchEmpty s → FetchEmpty t := by simp [FetchEmpty]

/-- An operation that leaves what the invariants read. -/
structure EngineKept (s t : State) : Prop where
  view : engineView t = engineView s := by simp [engineView]
  empty : moving s = true ∨ EmptyKept s t := by exact .inr {}

theorem EngineLight.kept (h : EngineLight s) (k : EngineKept s t) : EngineLight t := by
  obtain ⟨view, empty⟩ := k
  simp only [engineView, EngineView.mk.injEq] at view
  obtain ⟨state, web, supervised, head, changing, changeTimer, setup, areaSet, timer, switchFlag, watching, knife, leftHome,
    knifeTimer, solenoid⟩ := view
  have hmoving : moving t = moving s := by simp only [moving, state]
  have hstill (hm : moving s = false) : EmptyKept s t := empty.resolve_left (by simp [hm])
  refine ⟨⟨?_, ?_, ?_, ?_, ?_, ?_, ?_, ?_, ?_, ?_, ?_, ?_, ?_, ?_, ?_⟩, ?_⟩
  · rw [hmoving, ← h.engine.run, runHigh, runHigh, web]
  · rw [supervised, web]; exact h.engine.ready
  · rw [web, head]; exact h.engine.dark
  · rw [hmoving, changing]; exact h.engine.change
  · rw [changeTimer, changing]; exact h.engine.changeTimer
  · rw [show underway t = underway s by simp only [underway, hmoving, state], setup, areaSet]; exact h.engine.valid
  · rw [setup]; exact h.engine.loading
  · rw [setup, state]; exact h.engine.loadStopped
  · rw [timer, areaSet, state]; exact h.engine.timer
  · rw [switchFlag, state]; exact h.engine.flag
  · rw [hmoving, state]
    intro hm hs
    obtain ⟨hmap, hhold, hmark⟩ := h.engine.map hm hs
    exact ⟨(hstill hm).map hmap, (hstill hm).hold hhold, (hstill hm).mark hmark⟩
  · rw [state]
    intro hs
    exact (hstill (by rcases hs with hs | hs <;> simp [moving, hs])).fetch (h.engine.fetch hs)
  · rw [hmoving, watching]; exact h.engine.watch
  · rw [knifeTimer, knife]; exact h.engine.stroke
  · rw [solenoid, knife, leftHome]; exact h.engine.solenoid
  · unfold LightSound; rw [head, setup]; exact h.light

theorem EngineKept.moving (k : EngineKept s t) : moving t = moving s := by
  have hstate : t.eng.state = s.eng.state := congrArg EngineView.state k.view
  simp only [Machine.moving, hstate]

theorem EngineLive.kept (h : EngineLive s) (k : EngineKept s t) : EngineLive t :=
  ⟨h.toEngineLight.kept k, by rw [show t.eng.state = s.eng.state from congrArg EngineView.state k.view]; exact h.notHalted⟩

end Sys2Proof.Machine
end

section
/-! The engine invariants over stoppages, the ways into PAUSED, STOPPED and HALTED, the cutter and the fetch unit (11.1, R73,
R77, R131 to R139, R181 to R188). -/

open Sys2Proof Sys2Proof.Machine

namespace Sys2Proof.Machine

set_option Elab.async false

variable {s t : State}

/-! ## RUN low -/

/-- What every block has done once RUN is low: the head dark, no supervision, no changeover, no load watch, no switch
pending (R98, R41, R112, R63). -/
structure RunLow (s : State) : Prop where
  still : moving s = false
  web : s.line.web = .idle
  supervision : s.line.supervision = none
  head : s.line.head = []
  target : s.paper.target = none
  changeTimer : s.paper.timer = none
  watching : s.supply.watching = false
  flag : s.plan.switchFlag = false

/-- The setup store agrees with the load in progress, which only a STOPPED engine has (R24, R25). -/
structure LoadSound (s : State) : Prop where
  loading : s.setup.cursor.isSome = (s.setup.state == .loading)
  stopped : s.setup.state = .loading → s.eng.state = .stopped
  paused : s.eng.state = .paused → s.setup.state = .valid ∧ s.link.areaSet = true

/-- The knife timer and the solenoid belong to a stroke (R132, R134). -/
structure StrokeSound (s : State) : Prop where
  timer : s.cut.timer.isSome = true → s.cut.knife = .stroke
  solenoid : s.cut.solenoid = true → s.cut.knife = .stroke ∧ s.cut.leftHome = false

theorem EngineLight.of_runLow (low : RunLow s) (load : LoadSound s) (stroke : StrokeSound s)
    (timer : s.intake.timer.isSome = (s.link.areaSet && s.eng.state != .halted))
    (map : s.eng.state ≠ .halted → s.web.map = [] ∧ s.web.hold = none ∧ s.cut.cursor = none)
    (fetch : s.eng.state = .paused ∨ s.eng.state = .halted → FetchEmpty s) : EngineLight s := by
  obtain ⟨still, web, supervision, head, target, changeTimer, watching, flag⟩ := low
  refine ⟨⟨?_, ?_, ?_, ?_, ?_, ?_, load.loading, load.stopped, timer, ?_, fun _ => map, fetch, ?_, stroke.timer,
    stroke.solenoid⟩, ?_⟩
  · rw [still, runHigh, web]; rfl
  · rw [supervision, web]; rfl
  · exact fun _ => head
  · rw [target]; exact fun h => by cases h
  · rw [target, changeTimer]; rfl
  · rw [underway, still, Bool.false_or, beq_iff_eq]; exact load.paused
  · rw [flag]; exact fun h => by cases h
  · rw [watching]; exact fun h => by cases h
  · unfold LightSound; rw [head]; exact fun x hx => by cases hx

theorem EngineLight.strokeSound (h : EngineLight s) : StrokeSound s := ⟨h.engine.stroke, h.engine.solenoid⟩

theorem StrokeSound.congr (h : StrokeSound s) (timer : t.cut.timer = s.cut.timer := by simp)
    (solenoid : t.cut.solenoid = s.cut.solenoid := by simp) (knife : t.cut.knife = s.cut.knife := by simp)
    (leftHome : t.cut.leftHome = s.cut.leftHome := by simp) : StrokeSound t :=
  ⟨by rw [timer, knife]; exact h.timer, by rw [solenoid, knife, leftHome]; exact h.solenoid⟩

/-! ## Entering PAUSED, STOPPED and HALTED -/

/-- On entering STOPPED or PAUSED the timer runs exactly with AREA set (R8). -/
theorem pollTimer_isSome (s : State) : (pollTimer s).intake.timer.isSome = s.link.areaSet := by
  unfold pollTimer; split <;> simp_all

@[simp] theorem dropRun_cut (s : State) : (dropRun s).cut = s.cut := rfl

theorem enterPaused_runLow (s : State) : RunLow (enterPaused s) := by
  constructor <;> simp [enterPaused, moving]

/-- What the ways into PAUSED and STOPPED rest on: the setup VALID with no load in progress, AREA set, and the knife's outputs
those of a stroke. -/
structure Pausable (s : State) : Prop where
  valid : s.setup.state = .valid
  cursor : s.setup.cursor = none
  area : s.link.areaSet = true
  stroke : StrokeSound s

theorem EngineLight.pausable (h : EngineLight s) (hu : underway s = true) : Pausable s := by
  obtain ⟨hv, ha⟩ := h.engine.valid hu
  have hc : s.setup.cursor.isSome = false := by rw [h.engine.loading, hv]; rfl
  exact ⟨hv, by simpa using hc, ha, h.strokeSound⟩

theorem enterPaused_live (h : Pausable s) : EngineLive (enterPaused s) := by
  have hstate : (enterPaused s).eng.state = .paused := by simp [enterPaused]
  have hload : LoadSound (enterPaused s) :=
    ⟨by simp [h.valid, h.cursor], by simp [h.valid], fun _ => by simp [h.valid, h.area]⟩
  refine ⟨.of_runLow (enterPaused_runLow s) hload (h.stroke.congr (timer := by simp [enterPaused])) ?_ (fun _ => ?_)
    fun _ => ?_, by simp [hstate]⟩
  · rw [hstate, enterPaused, pollTimer_isSome]; simp
  · simp [enterPaused, spoilMap]
  · simp [FetchEmpty, enterPaused, pauseFetch, emptyFetch]

theorem enterStopped_runLow (s : State) : RunLow (enterStopped s) := by
  constructor <;> simp [enterStopped, moving]

theorem enterStopped_live (h : Pausable s) : EngineLive (enterStopped s) := by
  have hstate : (enterStopped s).eng.state = .stopped := by simp [enterStopped]
  have hload : LoadSound (enterStopped s) :=
    ⟨by simp [h.valid, h.cursor], by simp [h.valid], fun hp => nomatch hstate.symm.trans hp⟩
  refine ⟨.of_runLow (enterStopped_runLow s) hload (h.stroke.congr (timer := by simp [enterStopped])) ?_ (fun _ => ?_)
    fun hp => ?_, by simp [hstate]⟩
  · rw [hstate, enterStopped, pollTimer_isSome]; simp
  · simp [enterStopped]
  · rw [hstate] at hp
    exact nomatch hp

/-- A load cut off leaves none in progress, and the store not LOADING (R28). -/
theorem cutLoad_loading (x : Setup) : (cutLoad x).cursor = none ∧ (cutLoad x).state ≠ .loading := by
  unfold cutLoad; split
  · exact ⟨rfl, by simp⟩
  · exact ⟨rfl, ‹_›⟩

/-- HALTED needs nothing of the state before it (R187, R188). -/
theorem enterHalted_engineLight (s : State) : EngineLight (enterHalted s) := by
  have hsetup : (enterHalted s).setup = cutLoad s.setup := enterHalted_setup s
  obtain ⟨hcursor, hload⟩ := cutLoad_loading s.setup
  have hstate : (enterHalted s).eng.state = .halted := rfl
  refine .of_runLow ?_ ⟨?_, fun hl => ?_, fun hp => ?_⟩ ⟨fun ht => ?_, fun hs => ?_⟩ ?_ (fun hh => (hh rfl).elim)
    fun _ => ⟨rfl, rfl, rfl⟩
  · constructor <;> rfl
  · rw [hsetup, hcursor, beq_eq_false_iff_ne.2 hload]; rfl
  · rw [hsetup] at hl; exact (hload hl).elim
  · rw [hstate] at hp; cases hp
  · cases ht
  · cases hs
  · rw [hstate, show (enterHalted s).intake.timer = none from rfl]; simp

/-- A stoppage of a moving engine rests on no more than a pause does (R182, R183). -/
theorem stoppage_pauses (h : Pausable s) (hm : moving s = true) (kind : FaultKind) : EngineLive (stoppage kind s) := by
  have hreport : Pausable (recordFault kind 255 (wAddress s) (raiseAttention s)) :=
    ⟨by simpa using h.valid, by simpa using h.cursor, by simpa using h.area, h.stroke.congr⟩
  rcases (moving_iff s).1 hm with hs | hs
  · rw [stoppage, hs]; exact enterPaused_live hreport
  · rw [stoppage, hs]; exact enterPaused_live hreport

theorem stoppage_live (h : EngineLive s) (kind : FaultKind) : EngineLive (stoppage kind s) := by
  by_cases hm : moving s = true
  · exact stoppage_pauses (h.pausable (underway_of_moving hm)) hm kind
  · rw [moving_iff] at hm
    unfold stoppage; split
    · exact (hm (.inl ‹_›)).elim
    · exact (hm (.inr ‹_›)).elim
    · exact h.kept {}
    · exact h.kept {}
    · exact h

theorem clearReport_live (h : EngineLive s) : EngineLive (clearReport s) := by
  unfold clearReport; split
  · rename_i hc
    exact enterStopped_live (h.pausable (underway_of_moving (by simp [moving, hc.1])))
  · exact h

/-! ## The cutter -/

/-- A cut report of an empty map changes nothing. -/
theorem cutReport_kept (b : Word) (late : Bool) (s : State) : EngineKept s (cutReport b late s) where
  empty := .inr { map := fun hm => by simp [cutReport, hm] }

/-- A change of the cutter that leaves the mark cursor. -/
theorem EngineLive.setCut (h : EngineLive s) {c : Cutter} (cursor : c.cursor = s.cut.cursor)
    (timer : c.timer.isSome = true → c.knife = .stroke)
    (solenoid : c.solenoid = true → c.knife = .stroke ∧ c.leftHome = false) : EngineLive { s with cut := c } := by
  refine ⟨⟨{ h.engine with map := fun hm hs => ?_, stroke := timer, solenoid := solenoid }, h.light⟩, h.notHalted⟩
  obtain ⟨hmap, hhold, hmark⟩ := h.engine.map hm hs
  exact ⟨hmap, hhold, cursor.trans hmark⟩

/-- A FAULTED knife has neither its timer nor its solenoid on, so it may be released (R136). -/
theorem EngineLive.release (h : EngineLive s) (hk : s.cut.knife = .faulted) : EngineLive { s with cut.knife := .idle } :=
  h.setCut rfl (fun ht => by cases hk.symm.trans (h.engine.stroke ht))
    (fun hs => by cases hk.symm.trans (h.engine.solenoid hs).1)

theorem startWatch_live (h : EngineLive s) (hm : moving s = true) : EngineLive (startWatch s) :=
  ⟨⟨{ h.engine with watch := fun _ => hm }, h.light⟩, h.notHalted⟩

theorem fireKnife_live (h : EngineLive s) (hm : moving s = true) (b : Word) : EngineLive (fireKnife b s) := by
  refine clearReport_live (EngineLive.kept ?_ (cutReport_kept b _ _))
  refine startWatch_live ?_ (by simpa [moving] using hm)
  exact h.setCut rfl (fun _ => rfl) (fun _ => ⟨rfl, rfl⟩)

theorem cutTest_live (h : EngineLive s) : EngineLive (cutTest s) := by
  unfold cutTest; split
  · exact h
  · rename_i b hb
    have hm : moving s = true := h.of_map fun hmap => by simp [dueBoundary, hmap] at hb
    split
    · exact fireKnife_live h hm b
    · exact h
    · exact stoppage_live h _

theorem endStroke_live (h : EngineLive s) : EngineLive (endStroke s) := by
  have hended : EngineLive { s with cut.timer := none, cut.leftHome := false, cut.knife := .idle, cut.solenoid := false } :=
    h.setCut rfl (fun ht => by cases ht) (fun hs => by cases hs)
  exact cutTest_live (hended.kept {})

theorem homeChange_live (h : EngineLive s) (active : Bool) : EngineLive (homeChange active s) := by
  unfold homeChange; split
  · exact h
  · split
    · split
      · exact endStroke_live h
      · exact h
    · split
      · exact h
      · exact h.setCut rfl h.engine.stroke (fun hs => by cases hs)
  · split
    · exact h.release ‹_›
    · exact h

theorem strokeExpiry_live (h : EngineLive s) : EngineLive (strokeExpiry s) := by
  unfold strokeExpiry; split
  · refine stoppage_live ?_ _
    exact h.setCut rfl (fun ht => by cases ht) (fun hs => by cases hs)
  · exact h

theorem releaseKnife_live (h : EngineLive s) : EngineLive (releaseKnife s) := by
  unfold releaseKnife; split
  · rename_i hk
    exact h.release hk.1
  · exact h

theorem takeMark_live (h : EngineLive s) : EngineLive (takeMark s) := by
  unfold takeMark; split
  · rename_i hr
    have hm := h.moving_of_run hr
    split
    · exact h
    · split
      · exact cutTest_live (h.kept { empty := .inl hm })
      · exact h
  · exact h

theorem closeWindow_live (h : EngineLive s) (hm : moving s = true) : EngineLive (closeWindow s) := h.kept { empty := .inl hm }

/-! ## The fetch unit -/

/-- With the cursor naming nothing no line of width 0 joins, so FCH's evaluation leaves the unit empty. -/
theorem evalFetch_empty (h : FetchEmpty s) : FetchEmpty (evalFetch s) := by
  obtain ⟨items, buffer, cursor⟩ := h
  have hrefill : (evalRefill s).fetch.items = s.fetch.items ∧ (evalRefill s).fetch.buffer = s.fetch.buffer
      ∧ (evalRefill s).fetch.cursor = s.fetch.cursor := by simp
  obtain ⟨hitems, hbuffer, hcursor⟩ := hrefill
  have he : evalFetch s = evalRefill s := evalFetch_none (by simp [emptyLine, cursor])
  rw [he]
  exact ⟨hitems.trans items, hbuffer.trans buffer, hcursor.trans cursor⟩

theorem evalFetch_kept (s : State) : EngineKept s (evalFetch s) where
  empty := .inr { fetch := evalFetch_empty }

theorem accessFault_map {n : Word} {x : FrameItem} (h : findItem s n = some x) (addr : Long) :
    (accessFault n addr s).web.map = (spoilEntry n s).web.map := by
  obtain ⟨-, hweb, -⟩ := reportFault_frame n (faultRecorded n addr x s)
  rw [accessFault_eq h addr, show ∀ u, (evalFetch u).web = u.web by simp, hweb]
  exact faultRecorded_map n addr x s

theorem accessFault_kept (n : Word) (addr : Long) (s : State) : EngineKept s (accessFault n addr s) := by
  cases hx : findItem s n with
  | none =>
    rw [show accessFault n addr s = s by simp [accessFault, hx]]
    exact {}
  | some x =>
    have hne : ¬FetchEmpty s := by
      rintro ⟨items, -⟩
      simp [findItem, items] at hx
    exact ⟨by simp [engineView], .inr
      { map := fun hm => by rw [accessFault_map hx, spoilEntry_map, hm]; rfl
        fetch := fun hf => (hne hf).elim }⟩

theorem leaveRead_kept (r : LineRead) (how : ReadEnd) (s : State) : EngineKept s (leaveRead r how s) := by
  unfold leaveRead; split
  · exact evalFetch_kept s
  · rename_i hd
    have hne : ¬FetchEmpty s := by
      rintro ⟨items, -⟩
      exact hd (by simp [discards, findItem, items])
    split
    · exact { empty := .inr { fetch := fun hf => (hne hf).elim } }
    · exact accessFault_kept _ _ _

theorem drainReads_live (n : Nat) (h : EngineLive s) : EngineLive (drainReads n s) := by
  induction n generalizing s with
  | zero => exact h
  | succ n ih =>
    unfold drainReads; split
    · exact h
    · split
      · exact h
      · refine ih (EngineLive.kept ?_ (leaveRead_kept _ _ _))
        exact h.kept {}

theorem issueRead_live (h : EngineLive s) : EngineLive (issueRead s) := by
  by_cases hm : moving s = true
  · exact h.kept { empty := .inl hm }
  · have hi : issueRead s = s := by simp [issueRead, mayIssue, hm]
    rw [hi]; exact h

theorem arrive_live (h : EngineLive s) (place : Nat) (how : ReadEnd) : EngineLive (arrive place how s) := by
  refine drainReads_live _ ?_
  exact h.kept {}

end Sys2Proof.Machine
end

section
/-! The engine invariants over the planner's choice, the strobe and RUN's rise, and the light of a computed line (L4, R58 to
R63, R97 to R107, R180). -/

open Sys2Proof Sys2Proof.Machine

namespace Sys2Proof.Machine

set_option Elab.async false

variable {s t : State}

/-! ## The planner's choice -/

theorem EngineLive.clearFlag (h : EngineLive s) : EngineLive { s with plan.switchFlag := false } :=
  ⟨⟨{ h.engine with flag := fun hf => by cases hf }, h.light⟩, h.notHalted⟩

theorem requestChange_live (h : EngineLive s) : EngineLive (requestChange s) := by
  unfold requestChange; split
  · rename_i hc
    simp only [changeAccepted, Bool.and_eq_true] at hc
    obtain ⟨⟨-, hm⟩, -⟩ := hc
    exact ⟨⟨{ h.engine with change := fun _ => hm, changeTimer := rfl }, h.light⟩, h.notHalted⟩
  · exact h

theorem commitFrame_live (h : EngineLive s) (hm : moving s = true) (i ei : Nat) (remake : Bool) :
    EngineLive (commitFrame i ei remake s) := h.kept { empty := .inl hm }

theorem plannerChange_live (h : EngineLive s) : EngineLive (plannerChange s) := requestChange_live h.clearFlag

theorem commitGap_live (h : EngineLive s) (hm : moving s = true) : EngineLive (commitGap s) := h.kept { empty := .inl hm }

/-- A changeover request leaves the engine state, so a gap may be laid behind it. -/
theorem plannerChange_moving (s : State) : moving (plannerChange s) = moving s := by simp [moving]

theorem chooseIdle_live (h : EngineLive s) (hm : moving s = true) : EngineLive (chooseIdle s) := by
  unfold chooseIdle; split
  · exact commitGap_live (plannerChange_live h) ((plannerChange_moving s).trans hm)
  · exact commitGap_live h hm

theorem startOrder_kept {i : Nat} {o : Order} (hs : startOrder i o s = some t) : EngineKept s t where
  view := by simp [engineView, startOrder_frame _ _ _ _ hs]
  empty := .inr
    { map := by simp [startOrder_frame _ _ _ _ hs], hold := by simp [startOrder_frame _ _ _ _ hs]
      mark := by simp [startOrder_frame _ _ _ _ hs], fetch := by simp [FetchEmpty, startOrder_frame _ _ _ _ hs] }

theorem choose_live (h : EngineLive s) (hm : moving s = true) : EngineLive (choose s) := by
  unfold choose; split
  · exact commitGap_live h hm
  · split
    · exact commitGap_live (plannerChange_live h) ((plannerChange_moving s).trans hm)
    · split
      · exact commitFrame_live h hm _ _ _
      · split
        · exact commitFrame_live h hm _ _ _
        · split
          · split
            · rename_i s1 hs
              have hk := startOrder_kept hs
              exact commitFrame_live (h.kept hk) (hk.moving.trans hm) _ _ _
            · exact chooseIdle_live h hm
          · exact chooseIdle_live h hm

theorem commitPoint_live (h : EngineLive s) : EngineLive (commitPoint s) := by
  unfold commitPoint; split
  · rename_i hs
    have hstamped : EngineLive (stampAll s) := h.kept {}
    exact choose_live hstamped (by simp [moving, hs])
  · rename_i hs
    exact commitGap_live h (by simp [moving, hs])
  · exact h

/-! ## The strobe -/

theorem EngineLive.setHead (h : EngineLive s) {l : List Rgb} (hl : ∀ x ∈ l, ∀ c, widthSound s.setup (x.get c))
    (hw : l = [] ∨ s.line.web = .ready) : EngineLive { s with line.head := l } :=
  ⟨⟨{ h.engine with dark := fun hn => hw.resolve_right hn }, hl⟩, h.notHalted⟩

theorem EngineLive.setDark (h : EngineLive s) : EngineLive { s with line.head := [] } :=
  h.setHead (fun x hx => by cases hx) (.inl rfl)

theorem darkLine_live (h : EngineLive s) : EngineLive (darkLine s) := h.setDark.kept {}

theorem truncateLine_live (h : EngineLive s) : EngineLive (truncateLine s) := by
  unfold truncateLine; split
  · refine EngineLive.setDark ?_
    split
    · exact h.kept { empty := .inr { map := fun hm => by simp [flagTruncated, onEntry, hm] } }
    · exact h
  · exact h

/-- L4 for a computed line: every pulse of it is one that floor and ceiling hold (R90). -/
theorem exposeLine_sound (n : Word) (set i : Nat) (a : LineAnswer) (s : State) :
    ∀ x ∈ (exposeLine n set i a s).1, ∀ c, widthSound s.setup (x.get c) := by
  cases ha : answerItem a with
  | none =>
    rw [exposeLine_dark ha]
    exact fun x hx => by cases hx
  | some y =>
    rw [exposeLine_computed ha]
    intro x hx c
    rw [lineOf, computeLine_widths] at hx
    obtain ⟨e, -, rfl⟩ := List.mem_map.1 hx
    cases c <;> exact limitPulse_sound _ _ _

@[simp] theorem exposeLine_line (n : Word) (set i : Nat) (a : LineAnswer) (s : State) :
    (exposeLine n set i a s).2.line = s.line := by
  unfold exposeLine; split
  · rfl
  · simp

/-- A line in a FRAME changes the head, to the widths computed, and nothing else that the invariants read. -/
theorem frameLine_view (e : MapEntry) (f : FrameInfo) (p : Word) (s : State) :
    engineView (frameLine e f p s) = { engineView s with head := (frameLine e f p s).line.head } := by
  simp only [frameLine]
  split <;> simp [engineView]

theorem frameLine_sound (e : MapEntry) (f : FrameInfo) (p : Word) (s : State) :
    ∀ x ∈ (frameLine e f p s).line.head, ∀ c, widthSound s.setup (x.get c) := by
  obtain ⟨u, hu, i, a, hhead⟩ : ∃ u : State, u.setup = s.setup
      ∧ ∃ i a, (frameLine e f p s).line.head = (exposeLine e.number f.toneSet i a u).1 := by
    refine ⟨_, ?_, _, _, rfl⟩
    split <;> simp
  rw [hhead, ← hu]
  exact exposeLine_sound _ _ _ _ _

theorem frameLine_live (h : EngineLive s) (hw : s.line.web = .ready) (e : MapEntry) (f : FrameInfo) (p : Word) :
    EngineLive (frameLine e f p s) :=
  (h.setHead (frameLine_sound e f p s) (.inr hw)).kept
    ⟨frameLine_view e f p s, .inl (h.moving_of_web (by simp [hw]))⟩

theorem readyLine_live (h : EngineLive s) (hw : s.line.web = .ready) (p : Word) : EngineLive (readyLine p s) := by
  have hm := h.moving_of_web (by simp [hw])
  unfold readyLine; split
  · exact (darkLine_live h).kept { empty := .inl hm }
  · split
    · exact frameLine_live h hw _ _ _
    · exact darkLine_live h

theorem supervise_live (h : EngineLive s) (hw : s.line.web = .ready) : EngineLive (supervise s) :=
  ⟨⟨{ h.engine with ready := by simp [supervise, hw] }, h.light⟩, h.notHalted⟩

theorem readyLine_web (p : Word) (s : State) : (readyLine p s).line.web = s.line.web := by
  unfold readyLine; split
  · simp
  · split
    · exact congrArg EngineView.web (frameLine_view _ _ _ _)
    · simp

theorem readyStrobe_live (h : EngineLive s) (hw : s.line.web = .ready) (paper : Bool) : EngineLive (readyStrobe paper s) := by
  have hm := h.moving_of_web (by simp [hw])
  have h1 : EngineLive (endFrame s.line.w (advanceW (truncateLine s))) :=
    EngineLive.kept (truncateLine_live h) { empty := .inl (by simpa [moving] using hm) }
  have h2 : EngineLive (countBreak paper (endFrame s.line.w (advanceW (truncateLine s)))).1 := h1.kept {}
  unfold readyStrobe; dsimp only; split
  · exact stoppage_live (darkLine_live h2) _
  · have hweb : (countBreak paper (endFrame s.line.w (advanceW (truncateLine s)))).1.line.web = .ready := by simp [hw]
    exact supervise_live (readyLine_live h2 hweb _) ((readyLine_web _ _).trans hweb)

theorem rampStrobe_live (h : EngineLive s) (hw : s.line.web = .ramping) (paper : Bool) : EngineLive (rampStrobe paper s) := by
  have hm := h.moving_of_web (by simp [hw])
  have h1 : EngineLive (advanceW s) := h.kept {}
  have h2 : EngineLive (countBreak paper (darkLine (advanceW s))).1 := (darkLine_live h1).kept {}
  unfold rampStrobe; dsimp only; split
  · exact stoppage_live h2 _
  · exact h2.kept { empty := .inl (by simpa [moving] using hm) }

theorem lineTiming_live (h : EngineLive s) (paper : Bool) : EngineLive (lineTiming paper s) := by
  unfold lineTiming; split
  · have h1 : EngineLive (advanceW s) := h.kept {}
    exact darkLine_live h1
  · exact rampStrobe_live h ‹_› paper
  · exact readyStrobe_live h ‹_› paper

theorem endWatch_live (h : EngineLive s) : EngineLive (endWatch s) :=
  ⟨⟨{ h.engine with watch := fun hw => by cases hw }, h.light⟩, h.notHalted⟩

theorem sample_live (h : EngineLive s) (hm : moving s = true) (good : Bool) (p : Word) : EngineLive (sample good p s) := by
  unfold sample; split
  · split
    · exact h.kept {}
    · split
      · split
        · exact endWatch_live h
        · exact h
      · exact h.kept { empty := .inl hm }
  · exact h

theorem runningStrobe_live (h : EngineLive s) (good : Bool) (p : Word) : EngineLive (runningStrobe good p s) := by
  unfold runningStrobe; split
  · rename_i hr
    have hm := h.moving_of_run hr
    have h1 : EngineLive (clearHold s) := h.kept { empty := .inl hm }
    have h2 : EngineLive (sample good p (clearHold s)) := sample_live h1 (by simpa [moving] using hm) good p
    exact cutTest_live (closeWindow_live h2 (by simpa [moving] using hm))
  · exact h

theorem paperStrobe_live (h : EngineLive s) (handles : Bool) : EngineLive (paperStrobe handles s) := by
  have h1 : EngineLive (countStrobe s).1 := h.kept {}
  unfold paperStrobe; dsimp only; split
  · split
    · exact requestChange_live h1
    · exact stoppage_live h1 _
  · exact h1

theorem strobe_live (h : EngineLive s) (paper good : Bool) : EngineLive (strobe paper good s) := by
  have h1 : EngineLive (reportCutterPos (runHigh s) (lineTiming paper s)) := (lineTiming_live h paper).kept {}
  have h2 := paperStrobe_live (runningStrobe_live h1 good s.line.w) (handlesPaperOut s)
  unfold strobe strobeCommit; split
  · exact commitPoint_live h2
  · exact h2

/-! ## RUN rises -/

theorem webReady_live (h : EngineLive s) (hw : s.line.web = .ramping) : EngineLive (webReady s) := by
  have hr : runHigh s = moving s := h.engine.run
  have h1 : EngineLive (supervise { s with line.web := .ready }) := by
    refine ⟨⟨{ h.engine with run := ?_, ready := rfl, dark := fun hn => (hn rfl).elim }, h.light⟩, h.notHalted⟩
    exact Eq.trans (show (WebState.ready != .idle) = runHigh s by rw [runHigh, hw]; rfl) hr
  unfold webReady readyCommit; split
  · exact commitPoint_live h1
  · exact h1

/-- With AREA set the timer runs in every state but HALTED, so it may be loaded again (R8). -/
theorem loadTimer_live (h : EngineLive s) (ha : s.link.areaSet = true) : EngineLive (loadTimer s) := by
  refine ⟨⟨{ h.engine with timer := ?_ }, h.light⟩, h.notHalted⟩
  simp [ha, h.notHalted]

/-- The engine enters RUNNING from a state in which RUN is low, with the setup VALID and AREA set (R180, R184, R98). -/
theorem raiseRun_live (h : EngineLive s) (hm : moving s = false) (hv : s.setup.state = .valid) (ha : s.link.areaSet = true)
    (jam : Bool) : EngineLive (raiseRun (setEngine .running { s with cut.jam := jam })) := by
  have hweb := h.web_of_still hm
  have hready := h.engine.ready
  rw [hweb] at hready
  refine ⟨⟨{ h.engine with
    run := rfl, ready := hready, dark := fun _ => h.engine.dark (by simp [hweb]), change := fun _ => rfl
    valid := fun _ => ⟨hv, ha⟩, loadStopped := fun hl => ?_, timer := ?_, flag := fun _ => rfl
    map := fun hr => (nomatch hr), fetch := fun hp => (nomatch hp), watch := fun _ => rfl }, h.light⟩, fun hh => nomatch hh⟩
  · cases hv.symm.trans hl
  · have ht := h.engine.timer
    rw [bne_iff_ne.2 h.notHalted] at ht
    exact ht

theorem enterRunning_live (h : EngineLive s) (hm : moving s = false) (hv : s.setup.state = .valid)
    (ha : s.link.areaSet = true) (jam : Bool) : EngineLive (enterRunning jam s) := by
  have h1 : EngineLive (startSweep (raiseRun (setEngine .running { s with cut.jam := jam }))) :=
    (raiseRun_live h hm hv ha jam).kept {}
  have h2 := releaseKnife_live (loadTimer_live h1 (by simpa using ha))
  unfold enterRunning
  extract_lets _ s1 s2 s3
  have h3 : EngineLive s3 := by
    unfold s3; split
    · exact stoppage_live h2 _
    · exact h2
  split
  · rename_i hw
    exact webReady_live h3 hw.1
  · exact h3

end Sys2Proof.Machine
end

section
/-! The engine invariants over the register window, setup loads and resets, and over every command (11.1, L4, R1, R25, R189 to
R191). -/

open Sys2Proof Sys2Proof.Machine

namespace Sys2Proof.Machine

set_option Elab.async false

variable {s t : State}

/-! ## The register window -/

theorem takeArea_live (h : EngineLive s) (ht : areaTaken s = true) (base : Long) : EngineLive (takeArea base s) := by
  obtain ⟨hs, -, -⟩ := (areaTaken_iff s).1 ht
  have hu : underway s = false := by simp [underway, moving, hs]
  have hset (area : Long) (set : Bool) (timer : Option Nat) (htimer : timer.isSome = set) :
      EngineLive { s with link.area := area, link.areaSet := set, intake.timer := timer } := by
    refine ⟨⟨{ h.engine with valid := fun hv => (nomatch hu.symm.trans hv), timer := ?_ }, h.light⟩, h.notHalted⟩
    simp [htimer, h.notHalted]
  unfold takeArea; split
  · exact (hset 0 false none rfl).kept {}
  · exact (hset base true (some s.setup.params.sweepPeriod) rfl).kept {}

/-- RUNNING gives way to STOPPING with RUN still high and no switch pending (R181). -/
theorem EngineLive.stopping (h : EngineLive s) (hs : s.eng.state = .running) :
    EngineLive { s with eng.state := .stopping, plan.switchFlag := false } := by
  have hm : moving s = true := by simp [moving, hs]
  have hv := h.engine.valid (underway_of_moving hm)
  have ht := h.engine.timer
  rw [bne_iff_ne.2 h.notHalted] at ht
  exact ⟨⟨{ h.engine with
    run := h.engine.run.trans hm, change := fun _ => rfl, valid := fun _ => hv
    loadStopped := fun hl => (nomatch hv.1.symm.trans hl), timer := ht, flag := fun hf => (nomatch hf)
    map := fun hr => (nomatch hr), fetch := fun hp => (nomatch hp), watch := fun _ => rfl }, h.light⟩, fun hh => nomatch hh⟩

theorem stopEngine_live (h : EngineLive s) : EngineLive (stopEngine s) := by
  unfold stopEngine; split
  · rename_i hs
    exact clearReport_live ((h.stopping hs).kept {})
  · rename_i hs
    exact enterStopped_live (h.pausable (by simp [underway, hs]))
  · exact h.kept {}

/-! ## The setup store -/

/-- With the head dark the store of a STOPPED engine may change, and a load in it begin, go on or end (R25). -/
theorem EngineLive.setSetup (h : EngineLive s) (hs : s.eng.state = .stopped) {x : Setup}
    (hx : x.cursor.isSome = (x.state == .loading)) : EngineLive { s with setup := x } := by
  have hm : moving s = false := by simp [moving, hs]
  have hu : underway s = false := by simp [underway, hm, hs]
  have hhead : s.line.head = [] := h.engine.dark (by simp [h.web_of_still hm])
  refine ⟨⟨{ h.engine with
    valid := fun hv => (nomatch hu.symm.trans hv), loading := hx, loadStopped := fun _ => hs }, fun y hy => ?_⟩, h.notHalted⟩
  rw [show ({ s with setup := x } : State).line.head = [] from hhead] at hy
  cases hy

theorem noteRefused_state (g : SetupGroup) (x : Setup) : (noteRefused g x).state = x.state := by
  unfold noteRefused; split <;> rfl

theorem storeValue_state (f : SetupField) (v : Nat) (x : Setup) : (storeValue f v x).state = x.state := by
  cases f <;> rfl

/-- What a read of a load stores leaves the setup state (R25). -/
theorem storeField_state (f : SetupField) (raw : Nat) (x : Setup) : (storeField f raw x).state = x.state := by
  have hclamp (c : Bool) (y : Setup) : (noteClamp f c y).state = y.state := by
    unfold noteClamp; split
    · rw [noteRefused_state]
    · rfl
  have hflag (p : Nat) (y : Setup) : (flagProduct p y).state = y.state := by
    unfold flagProduct; dsimp only; split
    · rw [noteRefused_state]; rfl
    · rfl
  unfold storeField; dsimp only; split
  · rw [hflag, hclamp, storeValue_state]
  · rw [hclamp, storeValue_state]

/-- A load has a read out exactly while it goes on, whatever the read before it brought (R25, R28). -/
theorem loadRead_loading (f : SetupField) (result : Option (BitVec 64)) (hl : s.setup.state = .loading) :
    (loadRead f result s).setup.cursor.isSome = ((loadRead f result s).setup.state == .loading) := by
  unfold loadRead; split
  · simp [endLoad]
  · split
    · rfl
    · dsimp only; split
      · simp [issueSetupRead, storeField_state, hl]
      · rfl

theorem setupRead_live (h : EngineLive s) (result : Option (BitVec 64)) : EngineLive (setupRead result s) := by
  unfold setupRead; split
  · rename_i f hc
    have hl : s.setup.state = .loading := by simpa [hc] using h.engine.loading
    have hread := h.setSetup (h.engine.loadStopped hl) (loadRead_loading f result hl)
    have hstored : EngineLive (loadRead f result s) := hread.kept {}
    exact (hstored.kept (evalFetch_kept _)).kept {}
  · exact h

theorem startLoad_live (h : EngineLive s) (ht : loadTaken s = true) : EngineLive (startLoad s) := by
  simp only [loadTaken, Bool.and_eq_true, beq_iff_eq] at ht
  obtain ⟨⟨hs, -⟩, -⟩ := ht
  exact (h.setSetup (x := (startLoad s).setup) hs (by simp [startLoad, issueSetupRead])).kept {}

/-! ## Resets -/

/-- The values a pin reset and a soft reset leave: RUN low, nothing in progress, the timer and the load as given (R190,
R191). -/
theorem engineLight_reset (low : RunLow s) (hs : s.eng.state = .stopped)
    (hsetup : s.setup.cursor = none ∧ s.setup.state ≠ .loading) (timer : s.intake.timer.isSome = s.link.areaSet)
    (map : s.web.map = [] ∧ s.web.hold = none ∧ s.cut.cursor = none)
    (knife : s.cut.timer = none ∧ s.cut.solenoid = false) : EngineLight s := by
  refine .of_runLow low ⟨?_, fun _ => hs, fun hp => ?_⟩ ⟨fun ht => ?_, fun hk => ?_⟩ ?_ (fun _ => map) fun hp => ?_
  · rw [hsetup.1, beq_eq_false_iff_ne.2 hsetup.2]; rfl
  · cases hs.symm.trans hp
  · rw [knife.1] at ht; cases ht
  · rw [knife.2] at hk; cases hk
  · rw [timer, hs]; simp
  · rw [hs] at hp
    exact nomatch hp

theorem powerOn_engineLight (stable : Bool) (s : State) : EngineLight (powerOn stable s) :=
  engineLight_reset (by constructor <;> rfl) rfl ⟨rfl, show SetupState.invalid ≠ .loading by decide⟩ rfl
    ⟨rfl, rfl, rfl⟩ ⟨rfl, rfl⟩

/-- A pin reset with the part held or released afterwards. -/
theorem pinValues_engineLight (hold : ResetHold) (s : State) : EngineLight { pinValues s with eng.hold := hold } :=
  engineLight_reset (by constructor <;> rfl) rfl (cutLoad_loading s.setup) rfl ⟨rfl, rfl, rfl⟩ ⟨rfl, rfl⟩

theorem softReset_engineLight (s : State) : EngineLight (softReset s) := by
  have hvalues : EngineLight { softValues s with intake.timer := (pollTimer (softValues s)).intake.timer } :=
    engineLight_reset (by constructor <;> rfl) rfl (cutLoad_loading s.setup) (pollTimer_isSome (softValues s))
      ⟨rfl, rfl, rfl⟩ ⟨rfl, rfl⟩
  have hpolled : EngineLight (pollTimer
      { evalLow (softValues s) with link.causes := Causes.clear, link.dirty := [] }) :=
    hvalues.kept { view := by simp [engineView, pollTimer_isSome] }
  exact hpolled.kept (t := writeBlock (pollTimer _)) {}

/-! ## Every command -/

theorem perform_engineLight (h : EngineLive s) (room : Option Nat) {f : State → State}
    (hf : ∀ u, EngineLive u → EngineLight (f u)) : EngineLight (perform room f s) := by
  have hcleared : EngineLive (clearOut s) := h.kept {}
  have hgone : EngineLight (progress room (f (clearOut s))) := (hf _ hcleared).kept {}
  exact hgone.kept (t := publish s (progress room (f (clearOut s)))) {}

theorem EngineLight.of_live (h : EngineLight s) (hl : live s = true) : EngineLive s :=
  ⟨h, fun hh => by simp [live, hh] at hl⟩

theorem act_engineLight (h : EngineLight s) {room : Option Nat} {f : State → State}
    (hf : ∀ u, EngineLive u → EngineLight (f u)) : EngineLight (act room f s) := by
  unfold act; split
  · exact perform_engineLight (h.of_live ‹_›) room hf
  · exact h.kept {}

theorem actPin_engineLight (h : EngineLight s) {level f : State → State} (hl : ∀ u, EngineKept u (level u))
    (hf : ∀ u, EngineLive u → EngineLive (f u)) : EngineLight (actPin level f s) := by
  unfold actPin; split
  · exact perform_engineLight (h.of_live ‹_›) none fun u hu => (hf _ (hu.kept (hl u))).toEngineLight
  · have hcleared : EngineLight (clearOut s) := h.kept {}
    exact hcleared.kept (hl _)

/-- An answer in the cell changes nothing that the invariants read, so its effect alone counts (R7). -/
theorem cellRequest_live (h : EngineLive s) (a : CellAnswer) {effect : State → State}
    (he : a = .done → EngineLive (effect s)) : EngineLive (cellRequest a effect s) := by
  unfold cellRequest; split
  · split
    · exact (he ‹_›).kept {}
    · exact h.kept {}
  · exact h

theorem completeChange_live (h : EngineLive s) (ht : s.paper.target.isSome = true) (m : Mag) :
    EngineLive (completeChange m s) := by
  have hm := h.moving_of_target ht
  have hended : EngineLive { endChange s with paper.active := m, plan.switchFlag := false } :=
    ⟨⟨{ h.engine with change := fun hc => (nomatch hc), changeTimer := rfl, flag := fun hf => (nomatch hf) }, h.light⟩,
      h.notHalted⟩
  have hlow : EngineLive (evalLow (forgetWaiting { endChange s with paper.active := m, plan.switchFlag := false })) :=
    hended.kept {}
  exact hlow.kept (t := laySplice _) { empty := .inl (by simpa [moving] using hm) }

theorem endChange_live (h : EngineLive s) : EngineLive (endChange s) :=
  ⟨⟨{ h.engine with change := fun hc => (nomatch hc), changeTimer := rfl }, h.light⟩, h.notHalted⟩

/-- A supervision that expires finds RUN high, so the engine pauses (R105). -/
theorem supervisionExpiry_live (h : EngineLive s) (hs : s.line.supervision.isSome = true) :
    EngineLive (stoppage .stall { s with line.supervision := none }) := by
  have hw : s.line.web = .ready := by simpa [hs] using h.engine.ready
  have hm := h.moving_of_web (by simp [hw])
  obtain ⟨valid, cursor, area, stroke⟩ := h.pausable (underway_of_moving hm)
  have hp : Pausable { s with line.supervision := none } := ⟨valid, cursor, area, stroke.congr⟩
  exact stoppage_pauses hp (by simpa [moving] using hm) _

theorem Rgb.get_set (x : Rgb) (v : Nat) (c d : Chan) : (x.set v c).get d = if d = c then v else x.get d := by
  cases c <;> cases d <;> rfl

theorem endPulse_live (h : EngineLive s) (e : Nat) (c : Chan) : EngineLive (endPulse e c s) := by
  refine h.setHead (fun x hx d => ?_) ?_
  · obtain ⟨i, hi⟩ := List.mem_iff_getElem?.1 hx
    rw [List.getElem?_modify] at hi
    obtain ⟨y, hy, rfl⟩ := Option.map_eq_some_iff.1 hi
    have hsound := h.light y (List.mem_of_getElem? hy) d
    split
    · rw [Rgb.get_set]
      split
      · exact .inl rfl
      · exact hsound
    · exact hsound
  · by_cases hw : s.line.web = .ready
    · exact .inr hw
    · exact .inl (by simp [h.engine.dark hw])

theorem tick_live (h : EngineLive s) : EngineLive (tick s) :=
  h.kept { view := by simp [engineView, tick, tickTimer] }

theorem statusRead_engineLight (h : EngineLight s) (ht : execStatusRead s = .next t) : EngineLight t := by
  unfold execStatusRead at ht
  obtain rfl := Host.Outcome.next.inj ht
  split
  · split
    · exact perform_engineLight (h.of_live ‹_›) none fun u hu => (hu.kept (t := readStatus u) {}).toEngineLight
    · exact h.kept (t := readStatus (clearOut s)) {}
  · exact h.kept {}

/-- Every command keeps the two invariants. -/
theorem exec_engineLight (h : EngineLight s) {c : Instr} (ht : exec c s = .next t) : EngineLight t := by
  cases c
  case statusRead => exact statusRead_engineLight h ht
  all_goals obtain rfl := Host.Outcome.next.inj ht
  case softReset =>
    split
    · exact softReset_engineLight s
    · exact h.kept {}
  case powerOnReset stable => exact powerOn_engineLight stable s
  case pinReset => exact pinValues_engineLight _ s
  case resetLineAsserted => exact pinValues_engineLight _ s
  case presentSensorInactive m => exact actPin_engineLight h (fun u => {}) fun u hu => hu.kept {}
  case presentSensorActive m => exact actPin_engineLight h (fun u => {}) fun u hu => hu
  case webReadyRise =>
    refine actPin_engineLight h (fun u => {}) fun u hu => ?_
    split
    · exact webReady_live hu ‹_›
    · exact hu
  case webReadyFall =>
    refine actPin_engineLight h (fun u => {}) fun u hu => ?_
    split
    · exact stoppage_live hu _
    · exact hu
  case knifeHomeSensor active => exact actPin_engineLight h (fun u => {}) fun u hu => homeChange_live hu active
  case jamSensorActive =>
    refine actPin_engineLight h (fun u => {}) fun u hu => ?_
    split
    · exact stoppage_live hu _
    · exact hu
  case statusBlockWriteError beforeReset =>
    refine act_engineLight h fun u hu => ?_
    split
    · exact hu.toEngineLight
    · exact enterHalted_engineLight u
  all_goals refine act_engineLight h fun u hu => EngineLive.toEngineLight ?_
  case areaWrite value =>
    split
    · exact takeArea_live hu ‹_› _
    · exact hu.kept {}
  case go jam =>
    split
    · rename_i hg
      simp only [goTaken, Bool.and_eq_true, beq_iff_eq] at hg
      obtain ⟨⟨hs, hv⟩, ha⟩ := hg
      exact enterRunning_live hu (by simp [moving, hs]) hv ha jam
    · exact hu.kept {}
  case stop => exact stopEngine_live hu
  case loadSetup =>
    split
    · exact startLoad_live hu ‹_›
    · exact hu.kept {}
  case nudge =>
    split
    · rename_i hm
      obtain ⟨-, ha⟩ := hu.engine.valid (underway_of_moving hm)
      have h1 : EngineLive (startSweep u) := hu.kept {}
      exact loadTimer_live h1 (by simpa using ha)
    · exact hu.kept {}
  case sweepTimerExpiry =>
    split
    · rename_i hm
      obtain ⟨hm, -⟩ := Bool.and_eq_true_iff.1 hm
      obtain ⟨-, ha⟩ := hu.engine.valid (underway_of_moving hm)
      exact (loadTimer_live hu ha).kept {}
    · exact hu
  case cellPollExpiry =>
    split
    · rename_i hp
      obtain ⟨-, ha, -⟩ := (polling_iff u).1 hp
      have h1 := loadTimer_live hu ha
      split
      · exact h1
      · exact h1.kept {}
    · exact hu
  case takeReadsComplete | machineRequestCellRead =>
    split
    · exact hu
    · exact hu.kept {}
  case loadPaper | clearPaper =>
    refine cellRequest_live hu _ fun _ => ?_
    split
    · exact hu.kept {}
    · exact hu
  case resume jam =>
    refine cellRequest_live hu _ fun ha => ?_
    split at ha
    · rename_i hp
      obtain ⟨hv, hset⟩ := hu.engine.valid (by simp [underway, hp])
      exact enterRunning_live hu (by simp [moving, hp]) hv hset jam
    · cases ha
  case changeoverNow =>
    refine cellRequest_live hu _ fun ha => ?_
    split at ha
    · rename_i hr
      exact ⟨⟨{ hu.engine with flag := fun _ => hr }, hu.light⟩, hu.notHalted⟩
    · cases ha
  case releaseBin | machineRequestNotApplicable => exact cellRequest_live hu _ fun _ => hu.kept {}
  case idleTimerExpiry =>
    split
    · dsimp only; split <;> exact hu.kept {}
    · exact hu
  case setupReadComplete result stale =>
    split
    · exact hu
    · exact setupRead_live hu result
  case changeDone =>
    split
    · rename_i m hm
      exact completeChange_live hu (by simp [hm]) m
    · exact hu
  case changeoverTimerExpiry =>
    split
    · exact stoppage_live (endChange_live hu) _
    · exact hu
  case strobeSupervisionExpiry =>
    split
    · exact supervisionExpiry_live hu ‹_›
    · exact hu
  case lineStrobe paper good => exact strobe_live hu paper good
  case ratePeriod => split <;> [exact hu.kept {}; exact hu]
  case pulseEnd element channel => exact endPulse_live hu _ channel
  case lampBlinkToggle => split <;> exact hu.kept {}
  case lineReadIssue => exact issueRead_live hu
  case lineReadComplete place result => exact arrive_live hu place _
  case knifeTimerExpiry => exact strokeExpiry_live hu
  case mark => exact takeMark_live hu
  case webClear => exact clearReport_live hu
  case keyScanSample pressed => dsimp only; exact hu.kept {}
  all_goals exact hu.kept {}

/-- Settles O58: whatever command is at the front, or a millisecond on an empty queue, keeps both invariants together. -/
theorem engineAndLightStaySound : Obligations.EngineAndLightStaySound := by
  intro s t hengine hlight ht
  have h : EngineLight s := ⟨hengine, hlight⟩
  suffices hnext : EngineLight t from ⟨hnext.engine, hnext.light⟩
  unfold step at ht; split at ht
  · obtain rfl := Host.Outcome.next.inj ht
    exact act_engineLight (room := none) h fun u hu => (tick_live hu).toEngineLight
  · rename_i c rest _
    exact exec_engineLight (s := { s with pending := rest }) (h.kept {}) ht

end Sys2Proof.Machine
end

section
/-! The events of the line: WEB_READY, supervision, the jam sensor, RATE, PUNCH, pulse ends and lamp blink (R98, R99, R103, R105,
R107, R143, R161). -/

open Sys2Proof Sys2Proof.Machine

namespace Sys2Proof.Machine

set_option Elab.async false

/-- READY at the rise of WEB_READY: a commit point exactly where no map entry ends beyond W (R58, R99, R105). -/
theorem webReady_commits {s : State} (h : signedDiff (mapEnd s) s.line.w ≤ 0) : webReady s =
    commitPoint { s with line.web := .ready, line.supervision := some (4 * ((s.line.divisor + 1) * 4 ^ s.line.prescale)) } :=
  if_pos h

theorem webReady_waits {s : State} (h : 0 < signedDiff (mapEnd s) s.line.w) : webReady s =
    { s with line.web := .ready, line.supervision := some (4 * ((s.line.divisor + 1) * 4 ^ s.line.prescale)) } :=
  if_neg (not_le.2 h)

theorem runHigh_iff (s : State) : runHigh s = true ↔ s.line.web ≠ .idle := by simp [runHigh]

theorem endPulse_eq (e : Nat) (c : Chan) (s : State) : endPulse e c s =
    { s with
      line.head := s.line.head.modify e (fun x =>
        (match c with
          | .red => { x with red := 0 }
          | .green => { x with green := 0 }
          | .blue => { x with blue := 0 })) } := by
  cases c <;> rfl

/-- Settles O35: each event is one level or one test of the line's state, by the outcome of the test. -/
theorem lineEvents : Obligations.LineEvents := by
  intro s hl
  refine ⟨fun hw => ⟨fun hd => answers_actPin hl rfl ?_, fun hd => answers_actPin hl rfl ?_⟩,
    fun hw => answers_actPin hl rfl (if_neg hw), fun hw => answers_actPin hl rfl (if_pos hw),
    fun hw => answers_actPin hl rfl (if_neg hw), fun hv => answers_act hl rfl (if_pos (Option.isSome_iff_ne_none.2 hv)),
    fun hv => answers_act hl rfl ?_, fun hw => answers_actPin hl rfl (if_pos ((runHigh_iff s).2 hw)),
    fun hw => answers_actPin hl rfl (if_neg (not_not_intro hw ∘ (runHigh_iff s).1)),
    fun hw => answers_act hl rfl (if_pos ((runHigh_iff s).2 hw)),
    fun hw => answers_act hl rfl (if_neg (not_not_intro hw ∘ (runHigh_iff s).1)),
    answers_act hl rfl rfl, fun e c => answers_act hl rfl (endPulse_eq _ _ _), answers_act hl rfl rfl, answers_act hl rfl rfl⟩
  · exact (if_pos hw).trans (webReady_commits (s := { clearOut s with line.webReady := true }) hd)
  · exact (if_pos hw).trans (webReady_waits (s := { clearOut s with line.webReady := true }) hd)
  · exact if_neg (by simp [hv])

end Sys2Proof.Machine
end

section
/-! The line that ends at a strobe: its truncation, and the exposure end of its frame (R102, R104, R120). -/

open Sys2Proof Sys2Proof.Machine

namespace Sys2Proof.Machine

set_option Elab.async false

variable {s : State} {n : Word}

/-! ## Truncation (R104) -/

theorem headLit_iff (s : State) : headLit s = true ↔ ∃ x ∈ s.line.head, x ≠ { red := 0, green := 0, blue := 0 } := by
  have lit (x : Rgb) : (x.red != 0 || x.green != 0 || x.blue != 0) = true ↔ x ≠ { red := 0, green := 0, blue := 0 } := by
    obtain ⟨r, g, b⟩ := x
    simp only [Bool.or_eq_true, bne_iff_ne, ne_eq, Rgb.mk.injEq]
    omega
  simp only [headLit, List.any_eq_true, lit]

theorem truncateLine_dark (h : ¬headLit s = true) : truncateLine s = s := if_neg h

theorem truncateLine_lit (h : headLit s = true) (hn : s.line.lineFrame = some n) :
    truncateLine s = { flagTruncated n s with line.head := [] } := by
  unfold truncateLine
  rw [if_pos h, hn]

/-! ## The entry of a number (R113) -/

theorem onFrame_of_frame {e : MapEntry} {f : FrameInfo} (hf : e.piece = .frame f) (g : FrameInfo → FrameInfo) :
    onFrame g e = { e with piece := .frame (g f) } := by
  unfold onFrame
  rw [hf]

section
variable {before after : List MapEntry} {e : MapEntry} (hmap : s.web.map = before ++ e :: after)
  (hother : ∀ x ∈ before ++ after, x.number ≠ n) (hn : e.number = n)
include hmap hother hn

theorem entryNumbered_of_only : entryNumbered s n = some e := by
  have hbefore : before.find? (fun x => x.number == n) = none :=
    List.find?_eq_none.2 fun x hx => by simpa using hother x (List.mem_append_left _ hx)
  unfold entryNumbered
  rw [hmap, List.find?_append, hbefore, List.find?_cons_of_pos (by simpa using hn), Option.none_or]

theorem onEntry_of_only (g : MapEntry → MapEntry) : onEntry n g s = { s with web.map := before ++ g e :: after } := by
  have kept (l : List MapEntry) (hl : ∀ x ∈ l, x.number ≠ n) : l.map (fun x => if x.number = n then g x else x) = l :=
    (List.map_congr_left fun x hx => if_neg (hl x hx)).trans (List.map_id' l)
  unfold onEntry
  rw [hmap, List.map_append, List.map_cons, if_pos hn, kept before fun x hx => hother x (List.mem_append_left _ hx),
    kept after fun x hx => hother x (List.mem_append_right _ hx)]

end

/-! ## Exposure end (R120) -/

theorem exposureEnd_of_frame {e : MapEntry} {f : FrameInfo} (he : entryNumbered s n = some e) (hf : e.piece = .frame f) :
    exposureEnd n s =
      if f.reject then onEntry n (onFrame (fun f => { f with ended := true })) s
      else if e.flags.sag || e.flags.underrun || e.flags.truncated then
        settleFrame (.bad false) f.order f.entry n
          (onEntry n rejected (onEntry n (onFrame (fun f => { f with ended := true })) s))
      else onEntry n (onFrame (fun f => { f with ended := true })) s := by
  unfold exposureEnd
  rw [he]; dsimp only
  rw [hf]

/-- Settles O33: the truncation by whether the head is lit, the exposure end by the marking and the flags of the one entry of
the number. -/
theorem truncationAndExposureEnd : Obligations.TruncationAndExposureEnd := by
  intro n s
  refine ⟨fun hn hlit => truncateLine_lit ((headLit_iff s).2 hlit) hn, fun hdark => truncateLine_dark fun hlit => ?_,
    fun before after e f hmap hother hn hf => ?_⟩
  · obtain ⟨x, hx, hne⟩ := (headLit_iff s).1 hlit
    exact hne (hdark x hx)
  · intro ended bad
    have hended {r : Bool} (hr : f.reject = r) : onEntry n (onFrame (fun f => { f with ended := true })) s = ended r := by
      subst hr
      rw [onEntry_of_only hmap hother hn, onFrame_of_frame hf]
    have hrejected : onEntry n rejected (ended false) = ended true :=
      onEntry_of_only (s := ended false) (e := { e with piece := .frame { f with ended := true, reject := false } })
        rfl hother hn rejected
    rw [exposureEnd_of_frame (entryNumbered_of_only hmap hother hn) hf]
    by_cases hr : f.reject = true
    · rw [if_pos hr, if_pos hr, hended hr]
    · rw [if_neg hr, if_neg hr, hended (Bool.eq_false_of_not_eq_true hr), hrejected]

end Sys2Proof.Machine
end

section
/-! A strobe by the web state: the ramp, the paper-break count, and the line begun in READY (R100 to R107, R117). -/

open Sys2Proof Sys2Proof.Machine

namespace Sys2Proof.Machine

set_option Elab.async false

variable {s : State} {p : Word} {e : MapEntry} {f : FrameInfo}

/-! ## The paper-break count (R106) -/

theorem countBreak_breaks (h : s.line.breakCount + 1 = 50) : countBreak false s = ({ s with line.breakCount := 0 }, true) :=
  if_pos h

theorem countBreak_goesOn {paper : Bool} (h : ¬(paper = false ∧ s.line.breakCount + 1 = 50)) : countBreak paper s =
    ({ s with line.breakCount := if paper = true then 0 else s.line.breakCount + 1 }, false) := by
  cases paper with
  | true => rfl
  | false => exact if_neg fun h50 => h ⟨rfl, h50⟩

/-! ## RAMPING (R100) -/

theorem rampStrobe_breaks (h : s.line.breakCount + 1 = 50) :
    rampStrobe false s = stoppage .paperBreak { darkLine (advanceW s) with line.breakCount := 0 } := by
  unfold rampStrobe; dsimp only
  rw [countBreak_breaks (s := darkLine (advanceW s)) h]; rfl

theorem rampStrobe_goesOn {paper : Bool} (h : ¬(paper = false ∧ s.line.breakCount + 1 = 50)) : rampStrobe paper s =
    layStrobe s.line.w
      { darkLine (advanceW s) with line.breakCount := if paper = true then 0 else s.line.breakCount + 1 } := by
  unfold rampStrobe; dsimp only
  rw [countBreak_goesOn (s := darkLine (advanceW s)) h]; rfl

/-! ## The line that ends (R102, R104) -/

theorem endFrame_uncovered (h : entryAt s (p - 1) = none) : endFrame p s = s := by
  unfold endFrame endingFrame
  rw [h]

theorem isFrame_iff (e : MapEntry) : isFrame e = true ↔ ∃ f, e.piece = .frame f := by
  unfold isFrame
  split <;> simp_all

theorem endFrame_of_blank (h : entryAt s (p - 1) = some e) (hb : ∀ f, e.piece ≠ .frame f) : endFrame p s = s := by
  have hframe : ¬isFrame e = true := fun hf => ((isFrame_iff e).1 hf).elim hb
  unfold endFrame endingFrame
  rw [h]; dsimp only
  rw [if_neg (by simp [hframe])]

theorem endFrame_of_frame (h : entryAt s (p - 1) = some e) (hf : e.piece = .frame f) :
    endFrame p s = if e.endPos = p then dropItem e.number (exposureEnd e.number s) else s := by
  have hframe : isFrame e = true := (isFrame_iff e).2 ⟨f, hf⟩
  unfold endFrame endingFrame
  rw [h]; dsimp only
  by_cases hp : e.endPos = p
  · rw [if_pos hp, if_pos (by simp [hframe, hp])]
  · rw [if_neg hp, if_neg (by simp [hp])]

theorem advanceW_truncateLine (s : State) : advanceW (truncateLine s) =
    if ∃ x ∈ s.line.head, x ≠ { red := 0, green := 0, blue := 0 } then { truncateLine s with line.w := s.line.w + 1 }
    else { s with line.w := s.line.w + 1 } := by
  by_cases hlit : headLit s = true
  · rw [if_pos ((headLit_iff s).1 hlit)]
    simp only [advanceW, truncateLine_frame]
  · rw [if_neg (mt (headLit_iff s).2 hlit), truncateLine_dark hlit]
    rfl

/-- The line in progress has ended at a READY strobe: truncated if it is still lit, W raised, and the exposure end reported
where it was its frame's last. -/
def lineEnded (s : State) : State := endFrame s.line.w (advanceW (truncateLine s))

theorem lineEnded_line (s : State) :
    (lineEnded s).line.breakCount = s.line.breakCount ∧ (lineEnded s).line.punch = s.line.punch := by
  simp [lineEnded]

/-! ## READY (R101) -/

theorem readyStrobe_eq (paper : Bool) (s : State) : readyStrobe paper s =
    if (countBreak paper (lineEnded s)).2 then stoppage .paperBreak (darkLine (countBreak paper (lineEnded s)).1)
    else supervise (readyLine s.line.w (countBreak paper (lineEnded s)).1) := rfl

theorem readyStrobe_breaks (h : s.line.breakCount + 1 = 50) :
    readyStrobe false s = stoppage .paperBreak (darkLine { lineEnded s with line.breakCount := 0 }) := by
  rw [← (lineEnded_line s).1] at h
  rw [readyStrobe_eq, countBreak_breaks h]; rfl

/-- With paper at the head, or fewer than 50 strobes without it, the line at p is begun and supervision restarts (R101, R105). -/
theorem readyStrobe_goesOn {paper : Bool} (h : ¬(paper = false ∧ s.line.breakCount + 1 = 50)) : readyStrobe paper s =
    supervise (readyLine s.line.w
      { lineEnded s with line.breakCount := if paper = true then 0 else s.line.breakCount + 1 }) := by
  rw [← (lineEnded_line s).1] at h ⊢
  rw [readyStrobe_eq, countBreak_goesOn h]; rfl

theorem readyLine_uncovered (h : entryAt s p = none) : readyLine p s = layStrobe p (darkLine s) := by
  unfold readyLine
  rw [h]

theorem readyLine_of_blank (h : entryAt s p = some e) (hb : e.piece = .gap ∨ e.piece = .splice) :
    readyLine p s = darkLine s := by
  unfold readyLine
  rw [h]; dsimp only
  rcases hb with hb | hb <;> rw [hb]

theorem readyLine_of_frame (h : entryAt s p = some e) (hf : e.piece = .frame f) : readyLine p s = frameLine e f p s := by
  unfold readyLine
  rw [h]; dsimp only
  rw [hf]

/-- Line i of a frame as FCH serves and PCC computes it: its widths, and the part behind it, UNDERRUN set on an underrun (R75,
R101). -/
def frameExposed (e : MapEntry) (f : FrameInfo) (i : Nat) (s : State) : List Rgb × State :=
  let a := serve e.number i s
  exposeLine e.number f.toneSet i a.1 (if a.1 = .underrun then flagUnderrun e.number a.2 else a.2)

theorem frameExposed_line (e : MapEntry) (f : FrameInfo) (i : Nat) (s : State) : (frameExposed e f i s).2.line = s.line := by
  unfold frameExposed
  rw [exposeLine_line]
  split <;> simp

theorem frameLine_eq (e : MapEntry) (f : FrameInfo) (p : Word) (s : State) :
    let i := (signedDiff p e.start).toNat
    frameLine e f p s = { (frameExposed e f i s).2 with
      line.head := (frameExposed e f i s).1, line.lineFrame := some e.number, line.punch := s.line.punch || i == 0 } := by
  intro i
  have hpunch : (if i = 0 then true else (frameExposed e f i s).2.line.punch) = (s.line.punch || i == 0) := by
    rw [frameExposed_line]
    by_cases hi : i = 0 <;> simp [hi]
  rw [← hpunch]
  rfl

/-! ## The obligation -/

theorem lineTiming_ramping (hw : s.line.web = .ramping) (paper : Bool) : lineTiming paper s = rampStrobe paper s := by
  unfold lineTiming
  rw [hw]

theorem lineTiming_ready (hw : s.line.web = .ready) (paper : Bool) : lineTiming paper s = readyStrobe paper s := by
  unfold lineTiming
  rw [hw]

/-- Settles O32: RAMPING and READY by whether the sample completes a paper break, and in READY the line begun by what covers
its position. -/
theorem strobeHandledByWebState : Obligations.StrobeHandledByWebState := by
  intro s p darkened counting watched dark dropped
  refine ⟨fun paper hw => ?_, fun hw => ?_, fun hw => ?_⟩
  · unfold lineTiming
    rw [hw]; rfl
  · have hstrobe := lineTiming_ramping hw
    exact ⟨(hstrobe true).trans (rampStrobe_goesOn (by simp)),
      fun h => (hstrobe false).trans (rampStrobe_goesOn fun hb => h hb.2),
      fun h => (hstrobe false).trans (rampStrobe_breaks h)⟩
  · intro past after
    have hafter : lineEnded s = after := by
      have hpast : advanceW (truncateLine s) = past := advanceW_truncateLine s
      rw [lineEnded, hpast]
      simp only [after]
      split
      · split
        · exact endFrame_of_frame ‹_› ‹_›
        · exact endFrame_of_blank ‹_› ‹_›
      · exact endFrame_uncovered ‹_›
    refine ⟨fun h => ?_, fun paper h => ?_⟩
    · rw [lineTiming_ready hw, readyStrobe_breaks h, hafter]; rfl
    intro begun
    have hbegun : lineTiming paper s = watched (readyLine p begun) := by
      rw [lineTiming_ready hw, readyStrobe_goesOn h, hafter]; rfl
    rw [hbegun]
    refine ⟨fun h => ?_, fun e h hb => ?_, fun e f h hf => ?_⟩
    · exact congrArg watched (readyLine_uncovered h)
    · exact congrArg watched (readyLine_of_blank h hb)
    · have hpunch : after.line.punch = s.line.punch := hafter ▸ (lineEnded_line s).2
      rw [← hpunch]
      exact congrArg watched ((readyLine_of_frame (s := begun) h hf).trans (frameLine_eq e f p begun))

end Sys2Proof.Machine
end

section
/-! What a strobe leaves of W, the paper, the setup store and the sorter beside its own counts: every operation a strobe is made
of, up to the slot writes that go out in its step (R35, R97, R147). -/

open Sys2Proof Sys2Proof.Machine

namespace Sys2Proof.Machine

set_option Elab.async false

variable {s t u : State}

/-! ## What is kept -/

/-- W, the active magazine, what is loaded and how much is left of it, the setup store, the sorter's clock and keys, and the
queue. -/
structure StrobeView where
  w : Word
  active : Mag
  loadedA : Bool
  remainingA : Nat
  loadedB : Bool
  remainingB : Nat
  setup : Setup
  clock : Word
  keys : List Key
  pending : List Instr

def strobeView (s : State) : StrobeView :=
  { w := s.line.w, active := s.paper.active, loadedA := s.paper.magA.loaded, remainingA := s.paper.magA.remaining
    loadedB := s.paper.magB.loaded, remainingB := s.paper.magB.remaining, setup := s.setup, clock := s.sort.clock
    keys := s.sort.keys, pending := s.pending }

/-- All of that stands as it was, and what has joined the lane has joined behind the prints on it. -/
structure StrobeKept (s t : State) : Prop where
  view : strobeView t = strobeView s
  lane : s.sort.lane <+: t.sort.lane

theorem StrobeKept.refl (s : State) : StrobeKept s s := ⟨rfl, [], List.append_nil _⟩

theorem StrobeKept.trans (h : StrobeKept s t) (k : StrobeKept t u) : StrobeKept s u :=
  ⟨k.view.trans h.view, h.lane.trans k.lane⟩

/-- One operation more, which leaves all of it and the lane too. -/
theorem StrobeKept.same (h : StrobeKept s t) (view : strobeView u = strobeView t := by simp [strobeView])
    (lane : u.sort.lane = t.sort.lane := by simp) : StrobeKept s u :=
  ⟨view.trans h.view, lane ▸ h.lane⟩

/-! ## Orders (R36, R49, R50 to R55) -/

theorem strobeView_evalLow (s : State) : strobeView (evalLow s) = strobeView s := by
  rw [evalLow, evalLowOf_eq .a, evalLowOf_eq .b]
  rfl

theorem strobeKept_evalLow (h : StrobeKept s t) : StrobeKept s (evalLow t) := h.same (strobeView_evalLow t)

theorem strobeKept_freeOrder (h : StrobeKept s t) (i : Nat) : StrobeKept s (freeOrder i t) := strobeKept_evalLow h.same

theorem strobeKept_completeOrder (h : StrobeKept s t) (i : Nat) (o : Order) : StrobeKept s (completeOrder i o t) := by
  have hreport : StrobeKept s (completionReport o.bins o.cancelled (enterState i o .complete t)) := h.same
  unfold completeOrder; dsimp only; split
  · exact strobeKept_freeOrder hreport i
  · exact hreport

theorem strobeKept_evalOrder (h : StrobeKept s t) (i : Nat) : StrobeKept s (evalOrder i t) := by
  unfold evalOrder; split
  · exact h
  · split
    · exact h
    · split
      · exact strobeKept_completeOrder h i _
      · exact h.same

theorem strobeKept_settleFrame (h : StrobeKept s t) (how : Settle) (i ei : Nat) (num : Word) :
    StrobeKept s (settleFrame how i ei num t) := by
  unfold settleFrame; split
  · exact h
  · split
    · refine strobeKept_evalOrder (strobeKept_evalLow ?_) i
      split <;> exact h.same
    · exact h

/-! ## Stoppages and STOPPED (R128, R129, R181 to R183) -/

theorem strobeKept_spoilReport (h : StrobeKept s t) (e : MapEntry) : StrobeKept s (spoilReport t e) := by
  unfold spoilReport; split
  · split
    · exact h
    · exact strobeKept_settleFrame h _ _ _ _
  · exact h

theorem strobeKept_spoilReports (h : StrobeKept s t) (l : List MapEntry) : StrobeKept s (l.foldl spoilReport t) := by
  induction l generalizing t with
  | nil => exact h
  | cons e rest ih => exact ih (strobeKept_spoilReport h e)

theorem strobeKept_spoilMap (h : StrobeKept s t) : StrobeKept s (spoilMap t) := by
  have hspoiled (l : List MapEntry) : StrobeKept s { t with web.map := l } := h.same
  unfold spoilMap; dsimp only
  generalize t.web.map.map _ = l
  exact (strobeKept_spoilReports (hspoiled l) l).same

theorem strobeKept_enterPaused (h : StrobeKept s t) : StrobeKept s (enterPaused t) := by
  have hdropped : StrobeKept s (dropCandidates (setEngine .paused t)) := h.same
  exact (strobeKept_spoilMap hdropped).same (by simp [enterPaused, dropRun, strobeView]) (by simp [enterPaused])

theorem strobeKept_stoppage (h : StrobeKept s t) (kind : FaultKind) : StrobeKept s (stoppage kind t) := by
  have hreport : StrobeKept s (recordFault kind 255 (wAddress t) (raiseAttention t)) := h.same
  unfold stoppage; split
  · exact strobeKept_enterPaused hreport
  · exact strobeKept_enterPaused hreport
  · exact h.same
  · exact h.same
  · exact h

theorem strobeKept_clearReport (h : StrobeKept s t) : StrobeKept s (clearReport t) := by
  unfold clearReport; split
  · exact h.same (by simp [enterStopped, dropRun, strobeView])
  · exact h

/-! ## The cut (R124, R125, R131, R132, R147) -/

theorem strobeKept_miscutEntry (h : StrobeKept s t) (e : MapEntry) : StrobeKept s (miscutEntry e t) := by
  unfold miscutEntry; dsimp only; split
  · split
    · exact h.same
    · exact strobeKept_settleFrame h.same _ _ _ _
  · exact h.same

theorem strobeKept_divert (h : StrobeKept s t) (order entry : Nat) (number : Word) (reject : Bool) :
    StrobeKept s (divert order entry number reject t) := by
  unfold divert; split
  · exact h
  · exact strobeKept_settleFrame h _ _ _ _

/-- A print that is cut joins the lane behind the others, or does not join it (R147). -/
theorem strobeKept_offerPrint (h : StrobeKept s t) (order entry : Nat) (number : Word) (reject unverified : Bool) :
    StrobeKept s (offerPrint order entry number reject unverified t) := by
  unfold offerPrint; split
  · split
    · exact h.trans ⟨rfl, _, rfl⟩
    · exact strobeKept_divert h _ _ _ _
  · exact strobeKept_divert h _ _ _ _

theorem strobeKept_leaveMap (h : StrobeKept s t) : StrobeKept s (leaveMap t) := by
  unfold leaveMap; split
  · exact h
  · dsimp only; split
    · exact strobeKept_offerPrint h.same _ _ _ _ _
    · exact h.same

theorem strobeKept_cutReport (h : StrobeKept s t) (b : Word) (late : Bool) : StrobeKept s (cutReport b late t) := by
  unfold cutReport; split
  · exact h
  · split
    · refine strobeKept_leaveMap ?_
      split
      · split
        · exact strobeKept_miscutEntry h _
        · exact strobeKept_miscutEntry (strobeKept_miscutEntry h _) _
      · exact h
    · exact h

theorem strobeKept_cutTest (h : StrobeKept s t) : StrobeKept s (cutTest t) := by
  unfold cutTest; split
  · exact h
  · split
    · exact strobeKept_clearReport (strobeKept_cutReport h.same _ _)
    · exact h
    · exact strobeKept_stoppage h _

/-! ## LTU's handling of the strobe (R100, R101, R120) -/

theorem strobeKept_exposureEnd (h : StrobeKept s t) (n : Word) : StrobeKept s (exposureEnd n t) := by
  unfold exposureEnd; split
  · exact h
  · split
    · dsimp only; split
      · exact h.same
      · split
        · exact strobeKept_settleFrame h.same _ _ _ _
        · exact h.same
    · exact h

theorem strobeKept_endFrame (h : StrobeKept s t) (p : Word) : StrobeKept s (endFrame p t) := by
  unfold endFrame; split
  · rename_i n _
    exact (strobeKept_exposureEnd h n).same
  · exact h

theorem strobeKept_frameLine (h : StrobeKept s t) (e : MapEntry) (f : FrameInfo) (p : Word) :
    StrobeKept s (frameLine e f p t) := by
  have hw : (frameLine e f p t).line.w = t.line.w := by
    simp [frameLine_eq, frameExposed_line]
  exact h.same (by simp [strobeView, hw])

theorem strobeKept_readyLine (h : StrobeKept s t) (p : Word) : StrobeKept s (readyLine p t) := by
  unfold readyLine; split
  · exact h.same
  · split
    · exact strobeKept_frameLine h _ _ _
    · exact h.same

theorem strobeKept_lineEnded (s : State) : StrobeKept (advanceW s) (lineEnded s) :=
  strobeKept_endFrame ((StrobeKept.refl _).same) _

/-- LTU's handling raises W by one, and beside that leaves all of it. -/
theorem strobeKept_lineTiming (paper : Bool) (s : State) : StrobeKept (advanceW s) (lineTiming paper s) := by
  unfold lineTiming; split
  · exact (StrobeKept.refl _).same
  · unfold rampStrobe; dsimp only; split
    · exact strobeKept_stoppage (StrobeKept.refl _).same _
    · exact (StrobeKept.refl _).same
  · rw [readyStrobe_eq]; split
    · exact strobeKept_stoppage (strobeKept_lineEnded s).same _
    · have hcounted : StrobeKept (advanceW s) (countBreak paper (lineEnded s)).1 := (strobeKept_lineEnded s).same
      exact (strobeKept_readyLine hcounted s.line.w).same

/-! ## Supply sample, mark window, cut and commit (R58, R111, R131, R140) -/

theorem strobeKept_runningStrobe (h : StrobeKept s t) (good : Bool) (p : Word) : StrobeKept s (runningStrobe good p t) := by
  unfold runningStrobe; split
  · exact strobeKept_cutTest h.same
  · exact h

theorem strobeKept_commitFrame (h : StrobeKept s t) (i ei : Nat) (remake : Bool) : StrobeKept s (commitFrame i ei remake t) := by
  unfold commitFrame; split
  · exact h
  · split
    · exact h
    · exact strobeKept_evalOrder (strobeKept_evalLow h.same) i

theorem strobeKept_startOrder {i : Nat} {o : Order} (h : StrobeKept s t) (hs : startOrder i o t = some u) : StrobeKept s u :=
  h.same (by simp [strobeView, startOrder_frame _ _ _ _ hs]) (by simp [startOrder_frame _ _ _ _ hs])

theorem strobeKept_choose (h : StrobeKept s t) : StrobeKept s (choose t) := by
  unfold choose; split
  · exact h.same
  · split
    · exact h.same
    · split
      · exact strobeKept_commitFrame h _ _ _
      · split
        · exact strobeKept_commitFrame h _ _ _
        · split
          · split
            · exact strobeKept_commitFrame (strobeKept_startOrder h ‹_›) _ _ _
            · exact h.same
          · exact h.same

theorem strobeKept_strobeCommit (h : StrobeKept s t) : StrobeKept s (strobeCommit t) := by
  unfold strobeCommit commitPoint; split
  · split
    · exact strobeKept_choose h.same
    · exact h.same
    · exact h
  · exact h

/-! ## What goes out in the step (R12, R21) -/

theorem strobeKept_evalWaitOf (h : StrobeKept s t) (i : Nat) : StrobeKept s (evalWaitOf t i) := h.same

theorem strobeKept_admitOrder (h : StrobeKept s t) (i slot : Nat) (d : TakeData) : StrobeKept s (admitOrder i slot d t) :=
  strobeKept_evalWaitOf (strobeKept_evalLow h.same) i

theorem strobeKept_nextTake (h : StrobeKept s t) : StrobeKept s (nextTake t) := h.same

theorem strobeKept_finishTake (h : StrobeKept s t) (slot : Nat) (d : TakeData) : StrobeKept s (finishTake slot d t) := by
  have hcleared : StrobeKept s (clearTake t) := h.same
  unfold finishTake
  refine strobeKept_nextTake ?_
  split
  · exact hcleared.same
  · split
    · exact strobeKept_admitOrder hcleared _ _ _
    · exact hcleared

theorem strobeKept_resumeTake (h : StrobeKept s t) (room : Option Nat) : StrobeKept s (resumeTake room t) := by
  unfold resumeTake; split
  · exact h
  · split
    · split
      · exact h
      · exact strobeKept_finishTake h _ _
    · exact h

theorem strobeKept_freeReturned (h : StrobeKept s t) (slot : Nat) : StrobeKept s (freeReturned slot t) := by
  unfold freeReturned; split
  · exact h
  · split
    · split
      · exact strobeKept_freeOrder h _
      · exact h
    · exact h

theorem strobeKept_countReturn (h : StrobeKept s t) : StrobeKept s (countReturn t) := h.same

theorem strobeKept_issueWrite (h : StrobeKept s t) (w : SlotWrite) : StrobeKept s (issueWrite w t) := by
  unfold issueWrite; dsimp only; split
  · exact strobeKept_countReturn (strobeKept_freeReturned h.same _)
  · exact h.same

theorem strobeKept_setWaiting (h : StrobeKept s t) (l : List SlotWrite) : StrobeKept s { t with link.waiting := l } := h.same

theorem strobeKept_issueList (h : StrobeKept s t) (ws : List SlotWrite) (k : Nat) : StrobeKept s (issueList ws k t) := by
  induction ws generalizing t k with
  | nil => exact strobeKept_setWaiting h []
  | cons w rest ih =>
    cases k with
    | zero => exact strobeKept_setWaiting h (w :: rest)
    | succ k => exact ih (strobeKept_issueWrite h w) k

theorem strobeKept_progress (h : StrobeKept s t) (room : Option Nat) : StrobeKept s (progress room t) := by
  have hresumed := strobeKept_resumeTake h room
  unfold progress issueWaiting; split
  · exact strobeKept_setWaiting (strobeKept_issueList hresumed _ _) _
  · exact strobeKept_issueList hresumed _ _

end Sys2Proof.Machine
end

section
/-! The paper count of a strobe, and the obligation on what every strobe moves (R35, R40, R97, R100). -/

open Sys2Proof Sys2Proof.Machine

namespace Sys2Proof.Machine

set_option Elab.async false

variable {s t : State}

/-! ## The paper count (R35, R40) -/

/-- The active magazine one unit shorter, where the strobe counts against it (R35). -/
def paperCounted (s : State) : State :=
  if (activeMag s).loaded = true ∧ 0 < (activeMag s).remaining then
    setMag s.paper.active { activeMag s with remaining := (activeMag s).remaining - 1 } s
  else s

theorem paperCounted_frame (s : State) :
    (paperCounted s).line = s.line ∧ (paperCounted s).paper.active = s.paper.active ∧ (paperCounted s).setup = s.setup
      ∧ (paperCounted s).sort = s.sort ∧ (paperCounted s).pending = s.pending := by
  unfold paperCounted; split <;> simp

theorem getMag_paperCounted (s : State) (m : Mag) : (getMag (paperCounted s) m).remaining =
    if m = s.paper.active ∧ (getMag s m).loaded = true then (getMag s m).remaining - 1 else (getMag s m).remaining := by
  have hset (r : Magazine) : getMag (setMag s.paper.active r s) m = if m = s.paper.active then r else getMag s m := by
    cases m <;> cases s.paper.active <;> rfl
  unfold paperCounted
  by_cases hc : (activeMag s).loaded = true ∧ 0 < (activeMag s).remaining
  · rw [if_pos hc, hset]
    obtain ⟨hl, -⟩ := hc
    by_cases hm : m = s.paper.active
    · subst hm
      rw [if_pos rfl, if_pos ⟨rfl, hl⟩]; rfl
    · rw [if_neg hm, if_neg fun h => hm h.1]
  · rw [if_neg hc]
    split
    · rename_i h
      obtain ⟨rfl, hl⟩ := h
      have hempty : ¬0 < (getMag s s.paper.active).remaining := fun hr => hc ⟨hl, hr⟩
      omega
    · rfl

/-- The count reads no more of a state than what is kept. -/
theorem strobeView_paperCounted (h : strobeView t = strobeView s) :
    strobeView (paperCounted t) = strobeView (paperCounted s) := by
  simp only [strobeView, StrobeView.mk.injEq] at h
  obtain ⟨w, active, loadedA, remainingA, loadedB, remainingB, setup, clock, keys, pending⟩ := h
  unfold paperCounted activeMag
  rw [active]
  cases s.paper.active with
  | a =>
    simp only [getMag, loadedA, remainingA]
    split <;> simp [strobeView, setMag, *]
  | b =>
    simp only [getMag, loadedB, remainingB]
    split <;> simp [strobeView, setMag, *]

theorem StrobeKept.counted (h : StrobeKept s t) : StrobeKept (paperCounted s) (paperCounted t) := by
  obtain ⟨-, -, -, hs, -⟩ := paperCounted_frame s
  obtain ⟨-, -, -, ht, -⟩ := paperCounted_frame t
  exact ⟨strobeView_paperCounted h.view, by rw [hs, ht]; exact h.lane⟩

theorem countStrobe_counts (h : (activeMag s).loaded = true ∧ 0 < (activeMag s).remaining) :
    (countStrobe s).1 = evalLow (paperCounted s) := by
  unfold countStrobe paperCounted
  rw [if_pos h]; dsimp only
  rw [if_pos (by simpa using h)]

theorem countStrobe_of_active {m : Mag} (ha : s.paper.active = m) (hl : (getMag s m).loaded = true)
    (hr : 0 < (getMag s m).remaining) :
    (countStrobe s).1 = evalLow (setMag m { getMag s m with remaining := (getMag s m).remaining - 1 } s) := by
  subst ha
  rw [countStrobe_counts ⟨hl, hr⟩, paperCounted, if_pos ⟨hl, hr⟩]
  rfl

theorem countStrobe_rests (h : ¬((activeMag s).loaded = true ∧ 0 < (activeMag s).remaining)) : (countStrobe s).1 = s := by
  unfold countStrobe; dsimp only
  rw [if_neg (by simpa using h)]

theorem strobeKept_countStrobe (s : State) : StrobeKept (paperCounted s) (countStrobe s).1 := by
  by_cases h : (activeMag s).loaded = true ∧ 0 < (activeMag s).remaining
  · rw [countStrobe_counts h]
    exact strobeKept_evalLow (.refl _)
  · rw [countStrobe_rests h, paperCounted, if_neg h]
    exact .refl _

theorem strobeKept_paperStrobe (handles : Bool) (s : State) : StrobeKept (paperCounted s) (paperStrobe handles s) := by
  have hcounted := strobeKept_countStrobe s
  unfold paperStrobe; dsimp only; split
  · split
    · exact hcounted.same
    · exact strobeKept_stoppage hcounted _
  · exact hcounted

/-- A whole strobe raises W, counts against the active magazine, and beside that leaves all of it. -/
theorem strobeKept_strobe (paper good : Bool) (s : State) :
    StrobeKept (paperCounted (advanceW s)) (strobe paper good s) := by
  have htimed : StrobeKept (advanceW s) (reportCutterPos (runHigh s) (lineTiming paper s)) :=
    (strobeKept_lineTiming paper s).same
  exact strobeKept_strobeCommit ((strobeKept_runningStrobe htimed good s.line.w).counted.trans (strobeKept_paperStrobe _ _))

/-! ## The strobe with the web IDLE (R100) -/

/-- With the web IDLE and the engine not moving, a strobe is W, the dark line and the paper count. -/
theorem strobe_idle (hw : s.line.web = .idle) (hm : moving s = false) (paper good : Bool) :
    strobe paper good s = (countStrobe (darkLine (advanceW s))).1 := by
  have hrun : runHigh s = false := by simp [runHigh, hw]
  have hhandles : handlesPaperOut s = false := by simp [handlesPaperOut, hm]
  have htimed : lineTiming paper s = darkLine (advanceW s) := by
    unfold lineTiming
    rw [hw]
  have hrunning (p : Word) : runningStrobe good p (darkLine (advanceW s)) = darkLine (advanceW s) := by
    unfold runningStrobe
    exact if_neg (by simp [runHigh, hw])
  have hpaper (u : State) : paperStrobe false u = (countStrobe u).1 := by
    unfold paperStrobe
    simp
  unfold strobe
  rw [hrun, hhandles, htimed, show ∀ u, reportCutterPos false u = u from fun _ => rfl, hrunning, hpaper]
  exact if_neg (by simp [hw])

/-- Settles O31: whatever the state, what a strobe leaves stands behind its count (`strobeKept_strobe`); with the web IDLE it is
the count alone (`strobe_idle`). -/
theorem strobeAdvancesWebAndPaper : Obligations.StrobeAdvancesWebAndPaper := by
  intro paper good s hl
  refine ⟨?_, fun hw hm => ?_⟩
  · have hanswer : Answers (.lineStrobe paper good) none s (strobe paper good (clearOut s)) := answers_act hl rfl rfl
    have hkept : StrobeKept (paperCounted (advanceW (clearOut s)))
        (publish s (progress none (strobe paper good (clearOut s)))) :=
      (strobeKept_progress (strobeKept_strobe paper good (clearOut s)) none).same
    unfold Answers at hanswer
    generalize publish s (progress none (strobe paper good (clearOut s))) = t at hanswer hkept
    obtain ⟨view, lane⟩ := hkept
    obtain ⟨hline, hactive, hsetup, hsort, hpending⟩ := paperCounted_frame (advanceW (clearOut s))
    simp only [strobeView, StrobeView.mk.injEq, hline, hactive, hsetup, hsort, hpending] at view
    obtain ⟨w, active, -, remainingA, -, remainingB, setup, clock, keys, pending⟩ := view
    refine ⟨t, hanswer, w, active, fun m => ?_, setup, hsort ▸ lane, clock, keys, pending⟩
    have hremaining := getMag_paperCounted (advanceW (clearOut s)) m
    cases m with
    | a => exact remainingA.trans hremaining
    | b => exact remainingB.trans hremaining
  · intro dark
    have hanswers {e : State} (he : (countStrobe dark).1 = e) : Answers (.lineStrobe paper good) none s e :=
      answers_act hl rfl ((strobe_idle (s := clearOut s) hw hm paper good).trans he)
    refine ⟨fun h => hanswers (countStrobe_rests ?_), fun r ha hr hloaded hleft => hanswers ?_,
      fun r hb hr hloaded hleft => hanswers ?_⟩
    · rintro ⟨hloaded, hleft⟩
      exact h.elim (fun hn => nomatch hn.symm.trans hloaded) (fun hz => hleft.ne' hz)
    · subst hr
      exact countStrobe_of_active (s := dark) (m := .a) ha hloaded hleft
    · subst hr
      exact countStrobe_of_active (s := dark) (m := .b) hb hloaded hleft

end Sys2Proof.Machine
end

section
/-! What the bounds of the lists and counters read of a state, and the operations on orders that keep it: none of them puts a
print in an order bin (L1, L6, L10 to L12, R148, R156). -/

open Sys2Proof Sys2Proof.Machine

namespace Sys2Proof.Machine

set_option Elab.async false

variable {s t u : State}

/-! ## What the order bins hold (R148, R151) -/

/-- No order bin holds more good prints than it did. -/
structure BinsNoFuller (s t : State) : Prop where
  length : t.sort.bins.length = s.sort.bins.length
  good : ∀ b, (getBin t b).good ≤ (getBin s b).good

theorem BinsNoFuller.same (h : t.sort.bins = s.sort.bins) : BinsNoFuller s t := by
  refine ⟨by rw [h], fun b => ?_⟩
  unfold getBin
  rw [h]

theorem BinsNoFuller.trans (h : BinsNoFuller s t) (k : BinsNoFuller t u) : BinsNoFuller s u :=
  ⟨k.length.trans h.length, fun b => (k.good b).trans (h.good b)⟩

theorem getBin_setBin_or (b c : Nat) (r : Bin) (s : State) :
    getBin (setBin b r s) c = getBin s c ∨ getBin (setBin b r s) c = r ∧ b - 1 = c - 1 := by
  unfold getBin
  rw [setBin_bins, List.getD_eq_getElem?_getD, List.getElem?_set]
  split
  · rename_i hbc
    split
    · exact .inr ⟨rfl, hbc⟩
    · exact .inl (by simp_all)
  · exact .inl (List.getD_eq_getElem?_getD ..).symm

theorem binsNoFuller_setBin {b : Nat} {r : Bin} (h : r.good ≤ (getBin s b).good) : BinsNoFuller s (setBin b r s) := by
  refine ⟨by simp, fun c => ?_⟩
  rcases getBin_setBin_or b c r s with hc | ⟨hc, hb⟩
  · exact hc ▸ le_rfl
  · rw [hc, show getBin s c = getBin s b by unfold getBin; rw [hb]]
    exact h

theorem binsNoFuller_attendBin (b : Nat) (s : State) : BinsNoFuller s (attendBin b s) := by
  unfold attendBin; split
  · exact .same rfl
  · exact (binsNoFuller_setBin (r := { getBin s b with state := .attention }) le_rfl).trans (.same rfl)

theorem binsNoFuller_completeBin (cancelled : Bool) (s : State) (b : Nat) : BinsNoFuller s (completeBin cancelled s b) := by
  have hlive : BinsNoFuller s (setBin b { getBin s b with live := false } s) := binsNoFuller_setBin le_rfl
  unfold completeBin; dsimp only; split
  · exact (binsNoFuller_setBin (Nat.zero_le _)).trans (.same rfl)
  · split
    · exact hlive.trans (binsNoFuller_attendBin b _)
    · split
      · rw [setBin_setBin]
        exact (binsNoFuller_setBin (r := { getBin s b with live := false, state := .ready }) le_rfl).trans (.same rfl)
      · exact hlive

theorem binsNoFuller_completionReport (bins : List Nat) (cancelled : Bool) (s : State) :
    BinsNoFuller s (completionReport bins cancelled s) := by
  induction bins generalizing s with
  | nil => exact .same rfl
  | cons b rest ih => exact (binsNoFuller_completeBin cancelled s b).trans (ih _)

theorem binsNoFuller_evalOrder (i : Nat) (s : State) : BinsNoFuller s (evalOrder i s) := by
  cases ho : getOrder s i with
  | none => rw [evalOrder_table_none i s ho]; exact .same rfl
  | some o =>
    have hsort := evalOrder_sort ho
    split at hsort
    · exact (binsNoFuller_completionReport o.bins o.cancelled s).trans (.same (by rw [hsort]))
    · exact .same (by rw [hsort])

theorem binsNoFuller_reserved (ticket : Word) (slot : Nat) (bins : List Nat) (s : State) :
    BinsNoFuller s (bins.foldl (reserveBin ticket slot) s) := by
  induction bins generalizing s with
  | nil => exact .same rfl
  | cons b rest ih => exact (binsNoFuller_setBin (b := b) (Nat.zero_le _)).trans (ih _)

/-! ## What the bounds read -/

/-- What the bounds read of a state beside the order bins: of the lane the destinations, of the web map which entries are
GAPs. -/
structure BoundsView where
  dests : List Nat
  rejectCount : Nat
  rejectFull : Bool
  keys : List Key
  reads : Nat
  buffer : Nat
  gaps : List Bool
  offset : Int
  misses : Nat
  breakCount : Nat
  unreported : Nat

def boundsView (s : State) : BoundsView :=
  { dests := s.sort.lane.map LaneItem.dest, rejectCount := s.sort.rejectCount, rejectFull := s.sort.rejectFull
    keys := s.sort.keys, reads := s.fetch.reads.length, buffer := s.fetch.buffer.length, gaps := s.web.map.map isGap
    offset := s.cut.offset, misses := s.cut.misses, breakCount := s.line.breakCount, unreported := s.link.unreported }

/-- An operation that leaves what the bounds read and puts no print in an order bin. -/
structure BoundsKept (s t : State) : Prop where
  view : boundsView t = boundsView s := by simp [boundsView]
  bins : BinsNoFuller s t := by exact .same (by simp)

theorem BoundsKept.refl (s : State) : BoundsKept s s := ⟨rfl, .same rfl⟩

theorem BoundsKept.trans (h : BoundsKept s t) (k : BoundsKept t u) : BoundsKept s u :=
  ⟨k.view.trans h.view, h.bins.trans k.bins⟩

theorem inLane_eq (s : State) (b : Nat) : inLane s b = (s.sort.lane.map LaneItem.dest).count b := by
  rw [List.count, List.countP_map]; rfl

theorem endsInGap_iff (s : State) : endsInGap s = true ↔ (s.web.map.map isGap).getLast? = some true := by
  rw [List.getLast?_map, endsInGap]
  cases s.web.map.getLast? <;> simp

theorem Bounded.kept (h : Bounded s) (k : BoundsKept s t) : Bounded t := by
  obtain ⟨view, bins⟩ := k
  simp only [boundsView, BoundsView.mk.injEq] at view
  obtain ⟨dests, rejectCount, rejectFull, keys, reads, buffer, gaps, offset, misses, breakCount, unreported⟩ := view
  have hlane : t.sort.lane.length = s.sort.lane.length := by simpa using congrArg List.length dests
  have hmap : t.web.map.length = s.web.map.length := by simpa using congrArg List.length gaps
  constructor
  case lane => exact hlane ▸ h.lane
  case bins => exact bins.length.trans h.bins
  case bin =>
    intro b h1 h15
    rw [inLane_eq, dests, ← inLane_eq]
    exact (Nat.add_le_add_right (bins.good b) _).trans (h.bin b h1 h15)
  case reject => exact rejectCount ▸ h.reject
  case full => rw [rejectFull, rejectCount]; exact h.full
  case keys => exact keys ▸ h.keys
  case reads => exact reads ▸ h.reads
  case buffer => rw [buffer, reads]; exact h.buffer
  case map => exact hmap ▸ h.map
  case lastGap => rw [hmap, endsInGap_iff, gaps, ← endsInGap_iff]; exact h.lastGap
  case offset => exact offset ▸ h.offset
  case misses => exact misses ▸ h.misses
  case breaks => exact breakCount ▸ h.breaks
  case unreported => exact unreported ▸ h.unreported

/-! ## Orders (R45 to R55) -/

theorem boundsKept_evalOrder (i : Nat) (s : State) : BoundsKept s (evalOrder i s) where
  bins := binsNoFuller_evalOrder i s

theorem boundsKept_settleFrame (how : Settle) (i ei : Nat) (num : Word) (s : State) :
    BoundsKept s (settleFrame how i ei num s) where
  bins := by
    unfold settleFrame; split
    · exact .same rfl
    · split
      · refine .trans (.same ?_) (binsNoFuller_evalOrder i _)
        split <;> simp
      · exact .same rfl

theorem boundsKept_cancelOrder (i : Nat) (s : State) : BoundsKept s (cancelOrder i s) where
  bins := by
    unfold cancelOrder; split
    · exact .same rfl
    · exact .trans (.same (by simp)) (binsNoFuller_evalOrder i _)

theorem boundsKept_detachOrder (i : Nat) (s : State) : BoundsKept s (detachOrder i s) where
  bins := by
    unfold detachOrder; split
    · exact .same rfl
    · split
      · exact .same rfl
      · dsimp only; split
        · exact .same (by simp)
        · split
          · exact .trans (.same (by simp)) (boundsKept_cancelOrder i _).bins
          · exact .same (by simp)

theorem boundsKept_faultFrame (i ei : Nat) (num : Word) (s : State) : BoundsKept s (faultFrame i ei num s) where
  bins := by
    unfold faultFrame; split
    · exact .same rfl
    · split
      · dsimp only; split
        · exact .trans (.same (by simp)) (boundsKept_cancelOrder i _).bins
        · exact .trans (.same (by simp)) (binsNoFuller_evalOrder i _)
      · exact .same rfl

theorem boundsKept_handRequest (r : Request) (i : Nat) (o : Order) (s : State) : BoundsKept s (handRequest r i o s) where
  bins := by
    unfold handRequest; split
    · exact .same (by simp)
    · unfold releaseOrder
      exact .trans (.same (by simp)) (binsNoFuller_evalOrder i _)
    · exact (boundsKept_cancelOrder i s).bins
    · exact .same rfl

theorem boundsKept_startOrder {i : Nat} {o : Order} (hs : startOrder i o s = some t) : BoundsKept s t where
  view := by simp [boundsView, startOrder_frame _ _ _ _ hs]
  bins := by
    unfold startOrder reserveBins at hs
    dsimp only at hs
    split at hs
    · cases hs
    · rename_i hr
      split at hr
      · obtain ⟨rfl, rfl⟩ := Prod.mk.inj (Option.some.inj hr)
        obtain rfl := Option.some.inj hs
        exact (binsNoFuller_reserved o.ticket o.slot ((freeBins s).take (binsNeeded o)) s).trans (.same (by simp))
      · cases hr

end Sys2Proof.Machine
end

section
/-! The bounds of the sorter: the lane, the order bins, the reject bin and the keys (L6, L12, R147 to R158). -/

open Sys2Proof Sys2Proof.Machine

namespace Sys2Proof.Machine

set_option Elab.async false

variable {s : State}

/-! ## The lane (R147, R154) -/

theorem divert_bounded (h : Bounded s) (order entry : Nat) (number : Word) (reject : Bool) :
    Bounded (divert order entry number reject s) := by
  unfold divert; split
  · exact h
  · exact h.kept (boundsKept_settleFrame ..)

/-- A print that goes to an order bin goes to one with room for it (R148). -/
theorem destination_room {order d : Nat} {reject : Bool} (hd : destination s order reject = some d) (h1 : 1 ≤ d) :
    (getBin s d).good + inLane s d < Config.binCapacity := by
  unfold destination at hd
  split at hd
  · split at hd
    · obtain rfl := Option.some.inj hd
      omega
    · cases hd
  · split at hd
    · exact of_decide_eq_true (List.find?_some (p := fun b => decide ((getBin s b).good + inLane s b < Config.binCapacity)) hd)
    · cases hd

/-- A print joins the lane where there is room on it and in its bin (L6, L12). -/
theorem Bounded.joinLane (h : Bounded s) (x : LaneItem) (hlen : s.sort.lane.length < Config.lanePrints)
    (hroom : 1 ≤ x.dest → (getBin s x.dest).good + inLane s x.dest < Config.binCapacity) :
    Bounded { s with sort.lane := s.sort.lane ++ [x] } := by
  refine { h with lane := by simpa using hlen, bin := fun b h1 h15 => ?_ }
  have hbin := h.bin b h1 h15
  change (getBin s b).good + (s.sort.lane ++ [x]).countP (fun i => i.dest == b) ≤ _
  rw [List.countP_append, ← inLane, List.countP_singleton]
  split
  · rename_i hx
    obtain rfl := eq_of_beq hx
    have := hroom h1
    omega
  · exact hbin

theorem offerPrint_bounded (h : Bounded s) (order entry : Nat) (number : Word) (reject unverified : Bool) :
    Bounded (offerPrint order entry number reject unverified s) := by
  unfold offerPrint; split
  · split
    · rename_i hlen _ d hd
      exact h.joinLane _ hlen (destination_room hd)
    · exact divert_bounded h _ _ _ _
  · exact divert_bounded h _ _ _ _

theorem popLane_bounded (h : Bounded s) : Bounded (popLane s) := by
  refine { h with lane := ?_, bin := fun b h1 h15 => ?_ }
  · exact (List.tail_sublist _).length_le.trans h.lane
  · exact (Nat.add_le_add_left ((List.tail_sublist _).countP_le) _).trans (h.bin b h1 h15)

theorem expireLane_bounded (k : Nat) (h : Bounded s) : Bounded (expireLane k s) := by
  induction k generalizing s with
  | zero => exact h
  | succ k ih =>
    unfold expireLane; split
    · refine ih ?_
      unfold loseOldest; split
      · exact h
      · exact divert_bounded (popLane_bounded h) _ _ _ _
    · exact h

/-! ## The bins (R151 to R153, R157, R160) -/

theorem rejectLanding_bounded (h : Bounded s) : Bounded (rejectLanding s) := by
  have hfull := h.full
  unfold rejectLanding; split
  · rename_i hroom
    dsimp only; split
    · rename_i hlast
      exact { h with reject := hlast.le, full := (decide_eq_true hlast).symm }
    · rename_i hmore
      refine { h with reject := hroom, full := hfull.trans ?_ }
      rw [decide_eq_false hroom.ne]
      exact (decide_eq_false hmore).symm
  · exact h

theorem strayLanding_bounded (h : Bounded s) (b : Nat) : Bounded (strayLanding b s) := by
  unfold strayLanding; split
  · exact rejectLanding_bounded h
  · exact h.kept
      { bins := (binsNoFuller_setBin (r := { getBin s b with misroutes := min ((getBin s b).misroutes + 1) 65535 })
          le_rfl).trans (binsNoFuller_attendBin b _) }

/-- One good print more in an order bin with room for it (R148). -/
theorem Bounded.addPrint (h : Bounded s) {d : Nat} {r : Bin} (hd : d ≠ 0) (hr : r.good = (getBin s d).good + 1)
    (hroom : 1 ≤ d → d ≤ 15 → (getBin s d).good + inLane s d < Config.binCapacity) : Bounded (setBin d r s) := by
  refine { h with bins := by simpa using h.bins, bin := fun b h1 h15 => ?_ }
  change (getBin (setBin d r s) b).good + inLane s b ≤ _
  rcases getBin_setBin_or d b r s with hb | ⟨hb, hi⟩
  · rw [hb]; exact h.bin b h1 h15
  · obtain rfl : d = b := by omega
    rw [hb, hr]
    have := hroom h1 h15
    omega

/-- A print that has left the lane towards its bin finds its own place there (R148, R151). -/
theorem deliver_bounded (h : Bounded s) (i : LaneItem)
    (hroom : 1 ≤ i.dest → i.dest ≤ 15 → (getBin s i.dest).good + inLane s i.dest < Config.binCapacity) :
    Bounded (deliver i s) := by
  unfold deliver
  extract_lets r t
  have hlanded : Bounded t := by
    unfold t; split
    · exact rejectLanding_bounded h
    · exact h.addPrint ‹_› rfl hroom
  split
  · exact hlanded
  · exact hlanded.kept (boundsKept_settleFrame ..)

theorem misroute_bounded (h : Bounded s) (b : Nat) (i : LaneItem) : Bounded (misroute b i s) := by
  have hcounted : Bounded { s with sort.misroutes := s.sort.misroutes + 1 } := h.kept {}
  have hlanded := strayLanding_bounded hcounted b
  unfold misroute; dsimp only; split
  · exact hlanded
  · exact hlanded.kept (boundsKept_settleFrame ..)

theorem confirm_bounded (h : Bounded s) (b : Nat) : Bounded (confirm b s) := by
  unfold confirm; split
  · exact strayLanding_bounded h b
  · rename_i i rest hl
    refine expireLane_bounded _ ?_
    split
    · refine deliver_bounded (popLane_bounded h) i fun h1 h15 => ?_
      have hbin := h.bin i.dest h1 h15
      rw [inLane, hl, List.countP_cons_of_pos (by simp)] at hbin
      change (getBin s i.dest).good + s.sort.lane.tail.countP (fun x => x.dest == i.dest) < _
      rw [hl, List.tail_cons]
      omega
    · exact misroute_bounded (popLane_bounded h) b i

/-- A key event empties a bin or leaves the prints in it (R160). -/
theorem keyEvent_bounded (h : Bounded s) (b : Nat) : Bounded (keyEvent b s) := by
  have hset (r : Bin) (hr : r.good ≤ (getBin s b).good) : Bounded (setBin b r s) :=
    h.kept { bins := binsNoFuller_setBin hr }
  unfold keyEvent; split
  · exact { h with reject := Nat.zero_le _, full := rfl }
  · dsimp only; split
    · exact h
    · exact hset Bin.empty (Nat.zero_le _)
    · exact (hset { getBin s b with state := .attention, disturbed := true } le_rfl).kept {}
    · exact (hset { getBin s b with state := .attention, disturbed := true } le_rfl).kept {}
    · split
      · exact hset _ le_rfl
      · exact hset Bin.empty (Nat.zero_le _)

theorem sampleKey_run (pressed : Bool) {k : Key} (h : k.run < 3) : (sampleKey pressed k).1.run < 3 := by
  unfold sampleKey; split
  · split
    · exact h
    · split
      · decide
      · rename_i hrun
        change k.run + 1 < 3
        omega
  · decide

/-- The sixteen keys sampled, and the events that they make (R158). -/
theorem scanKeys_bounded (h : Bounded s) (pressed : BitVec 16) :
    Bounded ((scanKeys pressed s.sort.keys).2.foldl (fun s b => keyEvent b s)
      { s with sort.keys := (scanKeys pressed s.sort.keys).1 }) := by
  have hsampled : Bounded { s with sort.keys := (scanKeys pressed s.sort.keys).1 } := by
    refine { h with keys := fun k hk => ?_ }
    obtain ⟨x, hx, rfl⟩ := List.mem_map.1 hk
    obtain ⟨i, hi, rfl⟩ := List.mem_mapIdx.1 hx
    exact sampleKey_run _ (h.keys _ (List.getElem_mem hi))
  generalize (scanKeys pressed s.sort.keys).2 = events
  generalize ({ s with sort.keys := (scanKeys pressed s.sort.keys).1 } : State) = t at hsampled
  induction events generalizing t with
  | nil => exact hsampled
  | cons b rest ih => exact ih _ (keyEvent_bounded hsampled b)

/-- A gate arrival marks an item and leaves where it goes (R150). -/
theorem reachNext_dests (l : List LaneItem) : (reachNext l).map LaneItem.dest = l.map LaneItem.dest := by
  induction l with
  | nil => rfl
  | cons i rest ih =>
    unfold reachNext; split
    · rw [List.map_cons, ih, List.map_cons]
    · rfl

end Sys2Proof.Machine
end

section
/-! The bounds of the web map (R114 to R117, R122 to R125) and of the fetch unit (R70 to R79). -/

open Sys2Proof Sys2Proof.Machine

namespace Sys2Proof.Machine

set_option Elab.async false

variable {s t : State}

/-! ## The web map (L1, R114 to R117) -/

/-- A map of at most 256 entries, the last of a full one a GAP. -/
structure MapSound (m : List MapEntry) : Prop where
  length : m.length ≤ Config.mapEntries
  full : m.length = Config.mapEntries → (m.map isGap).getLast? = some true

theorem Bounded.mapSound (h : Bounded s) : MapSound s.web.map := ⟨h.map, fun hl => (endsInGap_iff s).1 (h.lastGap hl)⟩

theorem Bounded.setMap (h : Bounded s) {m : List MapEntry} (hm : MapSound m) : Bounded { s with web.map := m } :=
  { h with map := hm.length, lastGap := fun hl => (endsInGap_iff { s with web.map := m }).2 (hm.full hl) }

theorem mapSound_append {m : List MapEntry} {e : MapEntry} (hlen : m.length < 255 ∨ m.length = 255 ∧ isGap e = true) :
    MapSound (m ++ [e]) := by
  refine ⟨?_, fun hl => ?_⟩
  · rw [List.length_append]
    change m.length + 1 ≤ 256
    omega
  · rw [List.length_append] at hl
    change m.length + 1 = 256 at hl
    rw [List.map_append, List.map_singleton, List.getLast?_concat, (hlen.resolve_left (by omega)).2]

/-- A map with an entry fewer is not full. -/
theorem MapSound.shorter {m l : List MapEntry} (h : MapSound m) (hl : l.length < m.length) : MapSound l :=
  ⟨hl.le.trans h.length, fun he => absurd h.length (by omega)⟩

theorem Bounded.append (h : Bounded s) (p : Piece) (start : Word) (n : Nat)
    (hlen : s.web.map.length < 255 ∨ s.web.map.length = 255 ∧ p = .gap) : Bounded (appendEntry p start n s) := by
  have hm : MapSound (appendEntry p start n s).web.map :=
    mapSound_append (hlen.imp_right fun ⟨hl, hp⟩ => ⟨hl, by rw [hp]; rfl⟩)
  exact (h.setMap hm).kept {}

/-- The last entry of another length is the GAP or not that it was. -/
@[simp] theorem mapLastLength_gaps (f : Nat → Nat) (m : List MapEntry) : (mapLastLength f m).map isGap = m.map isGap := by
  induction m with
  | nil => rfl
  | cons e rest ih =>
    cases rest with
    | nil => rfl
    | cons x r => rw [mapLastLength, List.map_cons, ih, ← List.map_cons]; simp

theorem layGap_bounded (h : Bounded s) (n : Nat) : Bounded (layGap n s) := by
  unfold layGap; split
  · exact h.kept { view := by simp [boundsView, growLast] }
  · split
    · rename_i hlen
      have hroom : s.web.map.length < 255 ∨ s.web.map.length = 255 := lt_or_eq_of_le (Nat.le_of_lt_succ hlen)
      exact h.append .gap _ n (hroom.imp_right fun hl => ⟨hl, rfl⟩)
    · exact h

theorem layStrobe_bounded (h : Bounded s) (p : Word) : Bounded (layStrobe p s) := by
  unfold layStrobe; split
  · rename_i hm
    exact h.append .gap p 1 (by simp [hm])
  · split
    · exact h
    · split
      · exact layGap_bounded h 1
      · exact h

/-- A changed entry stays the GAP or not that it was (R119 to R121). -/
theorem onEntry_gaps (n : Word) (f : MapEntry → MapEntry) (hf : ∀ e, isGap (f e) = isGap e) (s : State) :
    (onEntry n f s).web.map.map isGap = s.web.map.map isGap := by
  unfold onEntry
  rw [List.map_map]
  refine List.map_congr_left fun e _ => ?_
  simp only [Function.comp]
  split
  · exact hf e
  · rfl

theorem isGap_onFrame (f : FrameInfo → FrameInfo) (e : MapEntry) : isGap (onFrame f e) = isGap e := by
  unfold onFrame; split
  · rename_i hp
    simp [isGap, hp]
  · rfl

@[simp] theorem flagSag_gaps (n : Word) (s : State) : (flagSag n s).web.map.map isGap = s.web.map.map isGap :=
  onEntry_gaps n (fun e => { e with flags.sag := true }) (fun _ => rfl) s

@[simp] theorem flagUnderrun_gaps (n : Word) (s : State) : (flagUnderrun n s).web.map.map isGap = s.web.map.map isGap :=
  onEntry_gaps n (fun e => { e with flags.underrun := true }) (fun _ => rfl) s

@[simp] theorem flagTruncated_gaps (n : Word) (s : State) : (flagTruncated n s).web.map.map isGap = s.web.map.map isGap :=
  onEntry_gaps n (fun e => { e with flags.truncated := true }) (fun _ => rfl) s

@[simp] theorem flagUnverified_gaps (n : Word) (s : State) : (flagUnverified n s).web.map.map isGap = s.web.map.map isGap :=
  onEntry_gaps n (fun e => { e with flags.unverified := true }) (fun _ => rfl) s

@[simp] theorem spoilEntry_gaps (n : Word) (s : State) : (spoilEntry n s).web.map.map isGap = s.web.map.map isGap :=
  onEntry_gaps n (fun e => rejected { e with flags.spoiled := true }) (fun _ => isGap_onFrame _ _) s

@[simp] theorem addClips_gaps (n : Word) (k : Nat) (s : State) : (addClips n k s).web.map.map isGap = s.web.map.map isGap :=
  onEntry_gaps n (onFrame fun f => { f with clips := f.clips + k }) (isGap_onFrame _) s

theorem boundsKept_onFrame (n : Word) (f : FrameInfo → FrameInfo) (s : State) : BoundsKept s (onEntry n (onFrame f) s) where
  view := by simp [boundsView, onEntry_gaps n _ (isGap_onFrame f)]

theorem boundsKept_exposureEnd (n : Word) (s : State) : BoundsKept s (exposureEnd n s) := by
  have hended := boundsKept_onFrame n (fun f => { f with ended := true }) s
  unfold exposureEnd; split
  · exact {}
  · split
    · dsimp only; split
      · exact hended
      · split
        · exact (hended.trans (boundsKept_onFrame n _ _)).trans (boundsKept_settleFrame ..)
        · exact hended
    · exact {}

theorem boundsKept_miscutEntry (e : MapEntry) (s : State) : BoundsKept s (miscutEntry e s) := by
  have hcut : BoundsKept s (onEntry e.number (fun e => { e with flags.miscut := true }) s) :=
    { view := by simp [boundsView, onEntry_gaps e.number (fun e => { e with flags.miscut := true }) fun _ => rfl] }
  unfold miscutEntry; dsimp only; split
  · split
    · exact hcut
    · exact (hcut.trans (boundsKept_onFrame e.number _ _)).trans (boundsKept_settleFrame ..)
  · exact hcut

/-- A map that is full and not trimmed ends in its GAP still (R122). -/
theorem trimGap_bounded (h : Bounded s) (z : Word) : Bounded (trimGap z s) := by
  unfold trimGap; split
  · rename_i e he
    split
    · split
      · exact h.kept { view := by simp [boundsView] }
      · have hne : s.web.map ≠ [] := fun hm => by simp [hm] at he
        refine h.setMap (h.mapSound.shorter ?_)
        rw [List.length_dropLast]
        have := List.length_pos_iff.2 hne
        omega
    · exact h
  · exact h

theorem appendSplice_bounded (h : Bounded s) (z : Word) : Bounded (appendSplice z s) := by
  unfold appendSplice; split
  · exact h.append .splice z _ (.inl (by omega))
  · split
    · exact h.append .gap z _ (.inr ⟨‹_›, rfl⟩)
    · exact layGap_bounded h _

theorem laySplice_bounded (h : Bounded s) : Bounded (laySplice s) := by
  unfold laySplice
  extract_lets z s1 s3
  have h1 : Bounded s1 := by
    unfold s1; split
    · exact layGap_bounded h _
    · exact h
  have h3 : Bounded s3 := appendSplice_bounded (trimGap_bounded h1 z) z
  exact h3.kept { view := rfl, bins := .same rfl }

theorem leaveMap_bounded (h : Bounded s) : Bounded (leaveMap s) := by
  unfold leaveMap; split
  · exact h
  · rename_i e rest hm
    have hleft : Bounded { s with web.map := rest } := h.setMap (h.mapSound.shorter (by simp [hm]))
    dsimp only; split
    · exact offerPrint_bounded (hleft.kept {}) _ _ _ _ _
    · exact hleft.kept {}

theorem cutReport_bounded (h : Bounded s) (b : Word) (late : Bool) : Bounded (cutReport b late s) := by
  unfold cutReport; split
  · exact h
  · split
    · refine leaveMap_bounded ?_
      split
      · split
        · exact h.kept (boundsKept_miscutEntry _ _)
        · exact h.kept ((boundsKept_miscutEntry _ _).trans (boundsKept_miscutEntry _ _))
      · exact h
    · exact h

theorem mapSound_nil : MapSound [] := ⟨Nat.zero_le _, fun h => nomatch h⟩

theorem boundsKept_spoilReports (l : List MapEntry) (s : State) : BoundsKept s (l.foldl spoilReport s) := by
  induction l generalizing s with
  | nil => exact {}
  | cons e rest ih =>
    refine .trans ?_ (ih _)
    unfold spoilReport; split
    · split
      · exact {}
      · exact boundsKept_settleFrame ..
    · exact {}

theorem spoilMap_bounded (h : Bounded s) : Bounded (spoilMap s) := by
  have hgaps : (s.web.map.map (fun (e : MapEntry) => { e with flags.spoiled := true })).map isGap = s.web.map.map isGap := by
    simp [isGap, Function.comp_def]
  unfold spoilMap; dsimp only
  generalize s.web.map.map _ = l at hgaps ⊢
  have hspoiled : BoundsKept s { s with web.map := l } := { view := by simp [boundsView, hgaps] }
  have hreported := h.kept (hspoiled.trans (boundsKept_spoilReports l _))
  exact (hreported.setMap mapSound_nil).kept {}

/-! ## The fetch unit (L10, R70 to R79) -/

theorem Bounded.setFetch (h : Bounded s) {f : Fetch} (hreads : f.reads.length ≤ Config.lineReads)
    (hbuffer : f.buffer.length + f.reads.length ≤ Config.bufferLines) : Bounded { s with fetch := f } :=
  { h with reads := hreads, buffer := hbuffer }

theorem evalFetch_bounded (h : Bounded s) : Bounded (evalFetch s) :=
  (h.setFetch (f := (evalFetch s).fetch) (by simpa using h.reads) (evalFetch_bound s h.buffer)).kept {}

theorem handOver_bounded (h : Bounded s) (n : Word) (oi : Nat) (o : Order) (e : Entry) : Bounded (handOver n oi o e s) := by
  unfold handOver
  refine evalFetch_bounded ?_
  dsimp only; split <;> exact h.kept {}

theorem dropItem_bounded (h : Bounded s) (n : Word) : Bounded (dropItem n s) := by
  unfold dropItem; dsimp only; split
  · split
    · exact evalFetch_bounded (h.kept {})
    · exact h.kept {}
  · exact h.kept {}

theorem Bounded.shorterBuffer (h : Bounded s) {l : List BufferLine} (hl : l.length ≤ s.fetch.buffer.length) :
    Bounded { s with fetch.buffer := l } :=
  h.setFetch h.reads ((Nat.add_le_add_right hl _).trans h.buffer)

theorem accessFault_bounded (h : Bounded s) (n : Word) (addr : Long) : Bounded (accessFault n addr s) := by
  cases hx : findItem s n with
  | none =>
    rw [show accessFault n addr s = s by simp [accessFault, hx]]
    exact h
  | some x =>
    rw [accessFault_eq hx]
    refine evalFetch_bounded ?_
    have hstopped : Bounded (stopFrame n s) := by
      obtain ⟨c, hc⟩ := stopFrame_eq n s
      rw [hc]
      exact (h.shorterBuffer (List.length_filter_le (fun l => l.number != n) _)).kept {}
    have hrecorded : Bounded (faultRecorded n addr x s) := by
      unfold faultRecorded
      exact hstopped.kept {}
    unfold reportFault; split
    · split
      · exact hrecorded.kept (boundsKept_faultFrame ..)
      · exact hrecorded
    · exact hrecorded

theorem issueRead_bounded (h : Bounded s) : Bounded (issueRead s) := by
  unfold issueRead; split
  · rename_i hmay
    simp only [mayIssue, Bool.and_eq_true, decide_eq_true_eq] at hmay
    obtain ⟨⟨-, hreads⟩, hroom⟩ := hmay
    split
    · exact h
    · split
      · exact h
      · rename_i n i _ _ x _
        unfold issueLine; dsimp only; split
        · exact evalFetch_bounded ((h.setFetch (f := (joinLine n i s).fetch) (by simpa using h.reads) (by simp; omega)).kept {})
        · split
          · have hout : Bounded { s with fetch.reads := s.fetch.reads ++ [{
                number := n, index := i, addr := busAddr (lineAddr x.image i), discard := false, ended := none }] } :=
              h.setFetch (by simpa using hreads) (by simp; omega)
            exact evalFetch_bounded (hout.kept {})
          · exact accessFault_bounded h _ _
  · exact h

theorem pauseFetch_bounded (h : Bounded s) : Bounded (pauseFetch s) :=
  (h.shorterBuffer (l := []) (Nat.zero_le _)).kept { view := by simp [boundsView, pauseFetch] }

/-- A read that leaves the list makes the room in the buffer that its line takes (R70, R73). -/
theorem leaveRead_bounded (h : Bounded s) (hroom : s.fetch.buffer.length + s.fetch.reads.length < Config.bufferLines)
    (r : LineRead) (how : ReadEnd) : Bounded (leaveRead r how s) := by
  unfold leaveRead; split
  · exact evalFetch_bounded h
  · split
    · exact evalFetch_bounded (h.setFetch h.reads (by simp; omega))
    · exact accessFault_bounded h _ _

theorem drainReads_bounded (k : Nat) (h : Bounded s) : Bounded (drainReads k s) := by
  induction k generalizing s with
  | zero => exact h
  | succ k ih =>
    unfold drainReads; split
    · exact h
    · rename_i r rest hr
      split
      · exact h
      · have hreads := h.reads
        have hbuffer := h.buffer
        rw [hr, List.length_cons] at hreads hbuffer
        have hleft : Bounded { s with fetch.reads := rest } := h.setFetch (Nat.le_of_succ_le hreads) (by dsimp only; omega)
        exact ih (leaveRead_bounded hleft hbuffer _ _)

theorem arrive_bounded (h : Bounded s) (place : Nat) (how : ReadEnd) : Bounded (arrive place how s) :=
  drainReads_bounded _ (h.kept {})

theorem boundsKept_passLine (n : Word) (i : Nat) (s : State) : BoundsKept s (passLine n i s) := {}

theorem serve_bounded (h : Bounded s) (n : Word) (i : Nat) : Bounded (serve n i s).2 := by
  have hpassed {u : State} (hu : Bounded u) : Bounded (evalFetch (passLine n i u)) :=
    evalFetch_bounded (hu.kept (boundsKept_passLine n i u))
  have hbehind : Bounded { s with fetch.buffer := s.fetch.buffer.dropWhile (behind n i) } :=
    h.shorterBuffer (List.dropWhile_sublist _).length_le
  unfold serve; split
  · exact h
  · split
    · exact hpassed h
    · split
      · exact hpassed h
      · dsimp only; split
        · rename_i l rest hl
          split
          · refine hpassed (hbehind.shorterBuffer (l := rest) ?_)
            simp [hl]
          · exact hpassed (hbehind.kept {})
        · exact hpassed (hbehind.kept {})

end Sys2Proof.Machine
end

section
/-! The bounds over stoppages, the cutter, the planner's choice, the strobe and RUN's rise (R58 to R63, R97 to R107, R131 to
R142, R180 to R183). -/

open Sys2Proof Sys2Proof.Machine

namespace Sys2Proof.Machine

set_option Elab.async false

variable {s : State}

/-! ## Stoppages and STOPPED -/

theorem Bounded.setMisses (h : Bounded s) {n : Nat} (hn : n ≤ 3) : Bounded { s with cut.misses := n } :=
  { h with misses := hn }

theorem Bounded.setBreaks (h : Bounded s) {n : Nat} (hn : n < Config.paperBreak) : Bounded { s with line.breakCount := n } :=
  { h with breaks := hn }

theorem dropRun_bounded (h : Bounded s) : Bounded (dropRun s) :=
  (h.setBreaks (n := 0) (by decide)).kept { view := rfl, bins := .same rfl }

theorem enterPaused_bounded (h : Bounded s) : Bounded (enterPaused s) := by
  have hspoiled : Bounded (spoilMap (dropCandidates (setEngine .paused s))) := spoilMap_bounded (h.kept {})
  unfold enterPaused; dsimp only
  generalize spoilMap _ = u at hspoiled ⊢
  have hstill : Bounded (endChange (endWatch (dropRun u))) := (dropRun_bounded hspoiled).kept {}
  exact (pauseFetch_bounded hstill).kept {}

theorem stoppage_bounded (h : Bounded s) (kind : FaultKind) : Bounded (stoppage kind s) := by
  have hreport : Bounded (recordFault kind 255 (wAddress s) (raiseAttention s)) := h.kept {}
  unfold stoppage; split
  · exact enterPaused_bounded hreport
  · exact enterPaused_bounded hreport
  · exact h.kept {}
  · exact h.kept {}
  · exact h

theorem enterStopped_bounded (h : Bounded s) : Bounded (enterStopped s) :=
  ((h.setMap mapSound_nil).setBreaks (n := 0) (by decide)).kept
    { view := by simp [boundsView, enterStopped, dropRun], bins := .same (by simp [enterStopped]) }

theorem clearReport_bounded (h : Bounded s) : Bounded (clearReport s) := by
  unfold clearReport; split
  · exact enterStopped_bounded h
  · exact h

theorem enterHalted_bounded (h : Bounded s) : Bounded (enterHalted s) :=
  ((h.shorterBuffer (l := []) (Nat.zero_le _)).setBreaks (n := 0) (by decide)).kept { view := rfl, bins := .same rfl }

/-! ## The cutter (R131 to R142) -/

theorem cutTest_bounded (h : Bounded s) : Bounded (cutTest s) := by
  unfold cutTest; split
  · exact h
  · split
    · exact clearReport_bounded (cutReport_bounded (h.kept {}) _ _)
    · exact h
    · exact stoppage_bounded h _

theorem homeChange_bounded (h : Bounded s) (active : Bool) : Bounded (homeChange active s) := by
  unfold homeChange; split
  · exact h
  · split
    · split
      · unfold endStroke
        exact cutTest_bounded (h.kept {})
      · exact h
    · split
      · exact h
      · exact h.kept {}
  · split
    · exact h.kept {}
    · exact h

theorem releaseKnife_bounded (h : Bounded s) : Bounded (releaseKnife s) := by
  unfold releaseKnife; split
  · exact h.kept {}
  · exact h

theorem strokeExpiry_bounded (h : Bounded s) : Bounded (strokeExpiry s) := by
  unfold strokeExpiry; split
  · exact stoppage_bounded (h.kept {}) _
  · exact h

theorem clampOffset_mem (x : Int) : -Config.offsetLimit ≤ clampOffset x ∧ clampOffset x ≤ Config.offsetLimit :=
  ⟨le_max_left _ _, max_le (by decide) (min_le_left _ _)⟩

theorem takeMark_bounded (h : Bounded s) : Bounded (takeMark s) := by
  unfold takeMark; split
  · split
    · exact h
    · rename_i n err _
      split
      · have hcorrected : Bounded
            { s with cut.offset := clampOffset (s.cut.offset + err), cut.misses := 0, cut.markLost := false } :=
          { h with offset := clampOffset_mem _, misses := Nat.zero_le 3 }
        exact cutTest_bounded (hcorrected.kept {})
      · exact h
  · exact h

/-- A miss raises the counter up to 3 (R140). -/
theorem missMark_misses (n : Word) (s : State) :
    (missMark n s).cut.misses = if s.cut.misses < 3 then s.cut.misses + 1 else s.cut.misses := by
  unfold missMark
  simp only [moveMark_frame]
  split <;> split <;> simp_all

theorem missMark_gaps (n : Word) (s : State) : (missMark n s).web.map.map isGap = s.web.map.map isGap := by
  have hmap : (missMark n s).web.map = (flagUnverified n s).web.map := by
    unfold missMark
    simp only [moveMark_frame]
    split <;> split <;> simp
  rw [hmap, flagUnverified_gaps]

theorem closeWindow_bounded (h : Bounded s) : Bounded (closeWindow s) := by
  unfold closeWindow; split
  · exact h
  · rename_i n _ _
    split
    · have hmisses := h.misses
      refine (h.setMisses (n := (missMark n s).cut.misses) ?_).kept { view := by simp [boundsView, missMark_gaps] }
      rw [missMark_misses]
      split <;> omega
    · exact h

/-! ## The planner's choice (R58 to R63) -/

/-- A FRAME is committed where the map keeps a place for a GAP behind it (R59, R116). -/
theorem commitFrame_bounded (h : Bounded s) (hlen : s.web.map.length < 255) (i ei : Nat) (remake : Bool) :
    Bounded (commitFrame i ei remake s) := by
  unfold commitFrame; split
  · exact h
  · rename_i o _
    split
    · exact h
    · rename_i e _
      have happended := h.append (.frame (frameInfo s i ei remake e)) (mapEnd s) e.length (.inl hlen)
      extract_lets num o1 s1 s2
      have hput : Bounded s1 := happended.kept { view := rfl, bins := .same rfl }
      have hmarked : Bounded (markFrame num s1) := hput.kept {}
      have hhanded : Bounded s2 := handOver_bounded hmarked num i o e
      exact (hhanded.kept {}).kept (boundsKept_evalOrder i _)

theorem commitGap_bounded (h : Bounded s) : Bounded (commitGap s) := layGap_bounded h _

theorem chooseIdle_bounded (h : Bounded s) : Bounded (chooseIdle s) := by
  unfold chooseIdle
  refine commitGap_bounded ?_
  split
  · exact h.kept {}
  · exact h

theorem choose_bounded (h : Bounded s) : Bounded (choose s) := by
  unfold choose; split
  · exact commitGap_bounded h
  · rename_i hfree
    have hlen : s.web.map.length < 255 := by
      simp only [heldToGap, Bool.or_eq_true, decide_eq_true_eq, not_or, not_le] at hfree
      obtain ⟨-, hlen⟩ := hfree
      exact Nat.lt_of_succ_lt_succ hlen
    split
    · exact commitGap_bounded (h.kept {})
    · split
      · exact commitFrame_bounded h hlen _ _ _
      · split
        · exact commitFrame_bounded h hlen _ _ _
        · split
          · split
            · rename_i s1 hs
              have hmap : s1.web = s.web := by simp [startOrder_frame _ _ _ _ hs]
              exact commitFrame_bounded (h.kept (boundsKept_startOrder hs)) (hmap ▸ hlen) _ _ _
            · exact chooseIdle_bounded h
          · exact chooseIdle_bounded h

theorem commitPoint_bounded (h : Bounded s) : Bounded (commitPoint s) := by
  unfold commitPoint; split
  · exact choose_bounded (h.kept {})
  · exact commitGap_bounded h
  · exact h

/-! ## The strobe (R97 to R107) -/

theorem boundsKept_truncateLine (s : State) : BoundsKept s (truncateLine s) := by
  unfold truncateLine; split
  · dsimp only; split
    · exact {}
    · exact {}
  · exact {}

/-- The count starts again at the strobe that completes a paper break (R106). -/
theorem countBreak_bounded (h : Bounded s) (paper : Bool) : Bounded (countBreak paper s).1 := by
  have hbreaks := h.breaks
  unfold countBreak; split
  · exact h.setBreaks (by decide)
  · split
    · exact h.setBreaks (by decide)
    · exact h.setBreaks (by omega)

theorem lineEnded_bounded (h : Bounded s) : Bounded (lineEnded s) := by
  have htruncated : Bounded (advanceW (truncateLine s)) := (h.kept (boundsKept_truncateLine s)).kept {}
  unfold lineEnded endFrame; split
  · exact dropItem_bounded (htruncated.kept (boundsKept_exposureEnd _ _)) _
  · exact htruncated

theorem boundsKept_exposeLine (n : Word) (set i : Nat) (a : LineAnswer) (s : State) :
    BoundsKept s (exposeLine n set i a s).2 := by
  unfold exposeLine; split
  · exact {}
  · exact {}

theorem frameExposed_bounded (h : Bounded s) (e : MapEntry) (f : FrameInfo) (i : Nat) : Bounded (frameExposed e f i s).2 := by
  have hserved := serve_bounded h e.number i
  unfold frameExposed
  refine Bounded.kept ?_ (boundsKept_exposeLine ..)
  split
  · exact hserved.kept {}
  · exact hserved

theorem frameLine_bounded (h : Bounded s) (e : MapEntry) (f : FrameInfo) (p : Word) : Bounded (frameLine e f p s) := by
  rw [frameLine_eq]
  exact (frameExposed_bounded h e f (signedDiff p e.start).toNat).kept {}

theorem readyLine_bounded (h : Bounded s) (p : Word) : Bounded (readyLine p s) := by
  have hdark : Bounded (darkLine s) := h.kept {}
  unfold readyLine; split
  · exact layStrobe_bounded hdark p
  · split
    · exact frameLine_bounded h _ _ _
    · exact hdark

theorem lineTiming_bounded (h : Bounded s) (paper : Bool) : Bounded (lineTiming paper s) := by
  have hdark : Bounded (darkLine (advanceW s)) := h.kept {}
  unfold lineTiming; split
  · exact hdark
  · have hcounted := countBreak_bounded hdark paper
    unfold rampStrobe; dsimp only; split
    · exact stoppage_bounded hcounted _
    · exact layStrobe_bounded hcounted _
  · have hcounted := countBreak_bounded (lineEnded_bounded h) paper
    rw [readyStrobe_eq]; split
    · exact stoppage_bounded (hcounted.kept {}) _
    · exact (readyLine_bounded hcounted s.line.w).kept {}

theorem boundsKept_sample (good : Bool) (p : Word) (s : State) : BoundsKept s (sample good p s) := by
  unfold sample; split
  · split
    · exact {}
    · split
      · split
        · exact {}
        · exact {}
      · unfold sagSample; split
        · exact {}
        · split
          · exact {}
          · exact {}
  · exact {}

theorem runningStrobe_bounded (h : Bounded s) (good : Bool) (p : Word) : Bounded (runningStrobe good p s) := by
  unfold runningStrobe; split
  · have hcleared : Bounded (clearHold s) := h.kept {}
    exact cutTest_bounded (closeWindow_bounded (hcleared.kept (boundsKept_sample good p _)))
  · exact h

theorem paperStrobe_bounded (h : Bounded s) (handles : Bool) : Bounded (paperStrobe handles s) := by
  have hcounted : Bounded (countStrobe s).1 := h.kept {}
  unfold paperStrobe; dsimp only; split
  · split
    · exact hcounted.kept {}
    · exact stoppage_bounded hcounted _
  · exact hcounted

theorem strobe_bounded (h : Bounded s) (paper good : Bool) : Bounded (strobe paper good s) := by
  have htimed : Bounded (reportCutterPos (runHigh s) (lineTiming paper s)) := (lineTiming_bounded h paper).kept {}
  have hcounted := paperStrobe_bounded (runningStrobe_bounded htimed good s.line.w) (handlesPaperOut s)
  unfold strobe strobeCommit; split
  · exact commitPoint_bounded hcounted
  · exact hcounted

/-! ## RUN rises (R98, R99, R180) -/

theorem webReady_bounded (h : Bounded s) : Bounded (webReady s) := by
  have hready : Bounded (supervise { s with line.web := .ready }) := h.kept {}
  unfold webReady readyCommit; split
  · exact commitPoint_bounded hready
  · exact hready

theorem enterRunning_bounded (h : Bounded s) (jam : Bool) : Bounded (enterRunning jam s) := by
  unfold enterRunning
  extract_lets _ s1 s2 s3
  have hraised : Bounded s1 := h.kept { view := rfl, bins := .same rfl }
  have hloaded : Bounded (loadTimer (startSweep s1)) := hraised.kept {}
  have hreleased : Bounded s2 := releaseKnife_bounded hloaded
  have hjam : Bounded s3 := by
    unfold s3; split
    · exact stoppage_bounded hreleased _
    · exact hreleased
  split
  · exact webReady_bounded hjam
  · exact hjam

end Sys2Proof.Machine
end

section
/-! The bounds over slot writes, requests, sweeps and resets, and over every command (R9, R16, R22, R186, R189 to R191). -/

open Sys2Proof Sys2Proof.Machine

namespace Sys2Proof.Machine

set_option Elab.async false

variable {s t : State}

/-! ## Slot writes as they go out (R22) -/

theorem Bounded.setUnreported (h : Bounded s) {n : Nat} (hn : n ≤ Config.slots) : Bounded { s with link.unreported := n } :=
  { h with unreported := hn }

theorem issueWrite_unreported (h : s.link.unreported ≤ Config.slots) (w : SlotWrite) :
    (issueWrite w s).link.unreported ≤ Config.slots := by
  unfold issueWrite; dsimp only; split
  · unfold countReturn; dsimp only
    split <;> exact min_le_right _ _
  · simpa using h

theorem issueList_unreported (h : s.link.unreported ≤ Config.slots) (ws : List SlotWrite) (k : Nat) :
    (issueList ws k s).link.unreported ≤ Config.slots := by
  induction ws generalizing s k with
  | nil => exact h
  | cons w rest ih =>
    cases k with
    | zero => exact h
    | succ k => exact ih (issueWrite_unreported h w) k

theorem issueWaiting_bounded (h : Bounded s) (room : Option Nat) : Bounded (issueWaiting room s) := by
  refine (h.setUnreported (n := (issueWaiting room s).link.unreported) ?_).kept {}
  unfold issueWaiting; split
  · exact issueList_unreported h.unreported _ _
  · exact issueList_unreported h.unreported _ _

theorem progress_bounded (h : Bounded s) (room : Option Nat) : Bounded (progress room s) := by
  have hresumed : Bounded (resumeTake room s) := h.kept {}
  exact issueWaiting_bounded hresumed room

/-! ## Requests, sweep steps and write faults (R16 to R18, R186) -/

theorem boundsKept_answerRequest (r : Request) (slot : Nat) (code number : Byte) (s : State) :
    BoundsKept s (answerRequest r slot code number s) := by
  unfold answerRequest; split
  · exact {}
  · split
    · exact {}
    · rename_i i _ _ o _
      split
      · exact {}
      · extract_lets a o1 s1 s2
        have hput : BoundsKept s (putOrder i (some { o with answered := number }) (dropRequest slot s)) := {}
        have hanswered : BoundsKept s s2 := by
          unfold s2
          refine BoundsKept.trans (t := if a = .done then handRequest r i o1 s1 else s1) ?_ {}
          split
          · exact hput.trans (boundsKept_handRequest r i o1 _)
          · exact hput
        split
        · exact hanswered.trans {}
        · exact hanswered

theorem boundsKept_answerAll (qs : List SlotRequest) (s : State) : BoundsKept s (answerAll qs s) := by
  induction qs generalizing s with
  | nil => exact .refl s
  | cons q rest ih => exact (boundsKept_answerRequest _ q.slot q.code q.number s).trans (ih _)

theorem boundsKept_checkSlot (s : State) (x : SlotScan) : BoundsKept s (checkSlot s x) := by
  unfold checkSlot; split
  · split
    · exact boundsKept_detachOrder _ s
    · exact {}
  · split
    · exact {}
    · exact {}

theorem boundsKept_checkSlots (l : List SlotScan) (s : State) : BoundsKept s (l.foldl checkSlot s) := by
  induction l generalizing s with
  | nil => exact {}
  | cons x rest ih => exact (boundsKept_checkSlot s x).trans (ih _)

theorem endStepTwo_bounded (h : Bounded s) (w : Sweep) : Bounded (endStepTwo w s) := by
  have hissued := issueWaiting_bounded (h.kept (boundsKept_answerAll w.requests s)) none
  have hthird : Bounded (setStep .three (issueWaiting none (answerAll w.requests s))) := hissued.kept {}
  exact hthird.kept (boundsKept_checkSlots w.scans _)

theorem sweepStep_bounded (h : Bounded s) (reads : List SlotRead) : Bounded (sweepStep reads s) := by
  have hissued := issueWaiting_bounded h none
  unfold sweepStep; split
  · generalize issueWaiting none s = u at hissued
    unfold beginStep; split
    · exact hissued
    · split
      · exact hissued.kept {}
      · exact endStepTwo_bounded hissued _
      · exact hissued.kept {}
      · split
        · exact hissued.kept {}
        · exact hissued
      · exact hissued.kept {}
  · exact h

theorem boundsKept_failWrite (slot offset : Nat) (s : State) : BoundsKept s (failWrite slot offset s) := by
  unfold failWrite; split
  · split
    · unfold failTaken; split
      · exact {}
      · split
        · exact {}
        · exact boundsKept_detachOrder _ s
    · exact boundsKept_detachOrder _ s
  · split
    · exact {}
    · exact {}

theorem boundsKept_slotWriteError (slot offset : Nat) (standing : WriteStanding) (s : State) :
    BoundsKept s (slotWriteError slot offset standing s) := by
  have hrecorded : BoundsKept s (recordFault .slotWrite slot (jobAddr s (slotOffset slot offset)) s) := {}
  unfold slotWriteError; dsimp only; split
  · exact {}
  · exact hrecorded
  · exact hrecorded.trans (boundsKept_failWrite slot offset _)

theorem setupRead_bounded (h : Bounded s) (result : Option (BitVec 64)) : Bounded (setupRead result s) := by
  unfold setupRead; split
  · rename_i f _
    have hread : Bounded (loadRead f result s) := h.kept {}
    exact (evalFetch_bounded hread).kept {}
  · exact h

theorem cellRequest_bounded (h : Bounded s) (a : CellAnswer) {effect : State → State} (he : Bounded (effect s)) :
    Bounded (cellRequest a effect s) := by
  have hmade : Bounded (if a = .done then effect s else s) := by
    split
    · exact he
    · exact h
  unfold cellRequest; split
  · exact hmade.kept {}
  · exact h

/-! ## Resets (R164, R189 to R191) -/

theorem bounded_reset : Bounded State.reset := by
  have hbin : ∀ b < 16, (getBin State.reset b).good + inLane State.reset b ≤ Config.binCapacity := by decide
  exact ⟨by decide, by decide, fun b _ h15 => hbin b (by omega), by decide, by decide, by decide, by decide, by decide,
    by decide, by decide, by decide, by decide, by decide, by decide⟩

/-- A power-on or pin reset, whatever stands behind the pins, in the setup store and in the engine. -/
theorem bounded_of_reset (view : boundsView t = boundsView State.reset) (bins : t.sort.bins = State.reset.sort.bins) :
    Bounded t := bounded_reset.kept { view := view, bins := .same bins }

theorem softResetBin_good (r : Bin) : (softResetBin r).good = r.good := by
  unfold softResetBin; split <;> rfl

/-- A soft reset takes the prints off the lane and keeps the counts of the bins (R164). -/
theorem softValues_bounded (h : Bounded s) : Bounded (softValues s) where
  lane := bounded_reset.lane
  bins := by simpa [softValues] using h.bins
  bin b h1 h15 := by
    have hgood : (getBin (softValues s) b).good = (getBin s b).good := by
      change ((s.sort.bins.map softResetBin).getD (b - 1) Bin.empty).good = (s.sort.bins.getD (b - 1) Bin.empty).good
      rw [List.getD_eq_getElem?_getD, List.getD_eq_getElem?_getD, List.getElem?_map]
      cases s.sort.bins[b - 1]? with
      | none => rfl
      | some r => exact softResetBin_good r
    rw [hgood]
    exact (Nat.le_add_right _ _).trans (h.bin b h1 h15)
  reject := h.reject
  full := h.full
  keys := bounded_reset.keys
  reads := bounded_reset.reads
  buffer := bounded_reset.buffer
  map := bounded_reset.map
  lastGap hl := nomatch hl
  offset := bounded_reset.offset
  misses := bounded_reset.misses
  breaks := bounded_reset.breaks
  unreported := bounded_reset.unreported

theorem softReset_bounded (h : Bounded s) : Bounded (softReset s) := by
  unfold softReset
  exact (softValues_bounded h).kept {}

/-! ## Every command -/

theorem perform_bounded (h : Bounded s) (room : Option Nat) {f : State → State} (hf : ∀ u, Bounded u → Bounded (f u)) :
    Bounded (perform room f s) := by
  have hcleared : Bounded (clearOut s) := h.kept {}
  have hgone := progress_bounded (hf _ hcleared) room
  exact hgone.kept (t := publish s _) {}

theorem act_bounded (h : Bounded s) {room : Option Nat} {f : State → State} (hf : ∀ u, Bounded u → Bounded (f u)) :
    Bounded (act room f s) := by
  unfold act; split
  · exact perform_bounded h room hf
  · exact h.kept {}

theorem actPin_bounded (h : Bounded s) {level f : State → State} (hl : ∀ u, BoundsKept u (level u))
    (hf : ∀ u, Bounded u → Bounded (f u)) : Bounded (actPin level f s) := by
  unfold actPin; split
  · exact perform_bounded h none fun u hu => hf _ (hu.kept (hl u))
  · have hcleared : Bounded (clearOut s) := h.kept {}
    exact hcleared.kept (hl _)

theorem statusRead_bounded (h : Bounded s) (ht : execStatusRead s = .next t) : Bounded t := by
  have hread (u : State) (hu : Bounded u) : Bounded (readStatus u) :=
    (hu.setUnreported (n := 0) (Nat.zero_le _)).kept { view := rfl, bins := .same rfl }
  unfold execStatusRead at ht
  obtain rfl := Host.Outcome.next.inj ht
  split
  · split
    · exact perform_bounded h none hread
    · exact hread _ (h.kept {})
  · exact h.kept {}

theorem exec_bounded (h : Bounded s) {c : Instr} (ht : exec c s = .next t) : Bounded t := by
  cases c
  case statusRead => exact statusRead_bounded h ht
  all_goals obtain rfl := Host.Outcome.next.inj ht
  case softReset =>
    split
    · exact softReset_bounded h
    · exact h.kept {}
  case powerOnReset stable => exact bounded_of_reset rfl rfl
  case pinReset => exact bounded_of_reset rfl rfl
  case resetLineAsserted => exact bounded_of_reset rfl rfl
  case presentSensorInactive m => exact actPin_bounded h (fun u => {}) fun u hu => hu.kept {}
  case presentSensorActive m => exact actPin_bounded h (fun u => {}) fun u hu => hu
  case webReadyRise =>
    refine actPin_bounded h (fun u => {}) fun u hu => ?_
    split
    · exact webReady_bounded hu
    · exact hu
  case webReadyFall =>
    refine actPin_bounded h (fun u => {}) fun u hu => ?_
    split
    · exact stoppage_bounded hu _
    · exact hu
  case knifeHomeSensor active => exact actPin_bounded h (fun u => {}) fun u hu => homeChange_bounded hu active
  case jamSensorActive =>
    refine actPin_bounded h (fun u => {}) fun u hu => ?_
    split
    · exact stoppage_bounded hu _
    · exact hu
  all_goals refine act_bounded h fun u hu => ?_
  case go jam =>
    split
    · exact enterRunning_bounded hu jam
    · exact hu.kept {}
  case stop =>
    unfold stopEngine; split
    · exact clearReport_bounded (hu.kept {})
    · exact enterStopped_bounded hu
    · exact hu.kept {}
  case areaWrite | loadSetup | nudge => split <;> exact hu.kept {}
  case cellPollExpiry =>
    split
    · split <;> exact hu.kept {}
    · exact hu
  case idleTimerExpiry =>
    split
    · dsimp only; split <;> exact hu.kept {}
    · exact hu
  case sweepTimerExpiry | takeReadsComplete | machineRequestCellRead | ratePeriod | lampBlinkToggle =>
    split <;> exact hu.kept {}
  case sweepStepComplete reads room => exact sweepStep_bounded hu reads
  case hold | release | cancel | slotRequestNotApplicable => exact hu.kept (boundsKept_answerRequest ..)
  case slotWriteFault => exact hu.kept (boundsKept_slotWriteError ..)
  case statusBlockWriteError =>
    split
    · exact hu
    · exact enterHalted_bounded hu
  case loadPaper | clearPaper =>
    refine cellRequest_bounded hu _ ?_
    split
    · exact hu.kept {}
    · exact hu
  case resume jam => exact cellRequest_bounded hu _ (enterRunning_bounded hu jam)
  case changeoverNow => exact cellRequest_bounded hu _ (hu.kept {})
  case releaseBin bin => exact cellRequest_bounded hu _ (keyEvent_bounded hu _)
  case machineRequestNotApplicable => exact cellRequest_bounded hu _ hu
  case setupReadComplete result stale =>
    split
    · exact hu
    · exact setupRead_bounded hu result
  case changeDone =>
    split
    · rename_i m _
      have hended : Bounded (evalLow (forgetWaiting { endChange u with paper.active := m, plan.switchFlag := false })) :=
        hu.kept {}
      exact laySplice_bounded hended
    · exact hu
  case changeoverTimerExpiry | strobeSupervisionExpiry =>
    split
    · exact stoppage_bounded (hu.kept {}) _
    · exact hu
  case lineStrobe paper good => exact strobe_bounded hu paper good
  case lineReadIssue => exact issueRead_bounded hu
  case lineReadComplete place result => exact arrive_bounded hu place _
  case knifeTimerExpiry => exact strokeExpiry_bounded hu
  case mark => exact takeMark_bounded hu
  case webClear => exact clearReport_bounded hu
  case gateArrival => exact hu.kept { view := by simp [boundsView, reachNext_dests] }
  case deliveryConfirmation bin => exact confirm_bounded hu bin
  case sorterDeadline => exact expireLane_bounded _ (hu.kept {})
  case keyScanSample pressed => exact scanKeys_bounded hu pressed
  all_goals exact hu.kept {}

/-- Settles O56: whatever command is at the front, or a millisecond on an empty queue, keeps every bound. -/
theorem listsAndCountersStayBounded : Obligations.ListsAndCountersStayBounded := by
  intro s t h ht
  unfold step at ht; split at ht
  · obtain rfl := Host.Outcome.next.inj ht
    exact act_bounded (room := none) (f := tick) h fun u hu => hu.kept {}
  · exact exec_bounded (h.kept {}) ht

end Sys2Proof.Machine
end

section
/-! The strobe as a whole: the parts that WTR, SMN and PAP have in it, and the order of the blocks (R35, R40, R58, R111, R123,
R127). -/

open Sys2Proof Sys2Proof.Machine

namespace Sys2Proof.Machine

set_option Elab.async false

variable {s t : State}

/-! ## The supply sample (R111) -/

theorem sample_unwatched (hw : s.supply.watching = false) (good : Bool) (p : Word) : sample good p s = s :=
  if_neg (by simp [hw])

theorem sample_settling (hw : s.supply.watching = true) (hs : 0 < s.supply.settle) (good : Bool) (p : Word) :
    sample good p s = { s with supply.settle := s.supply.settle - 1 } := by
  unfold sample
  rw [if_pos hw, if_pos hs]

section
variable (hw : s.supply.watching = true) (hs : s.supply.settle = 0) (p : Word)
include hw hs

theorem sample_good : sample true p s = if s.supply.strokeEnded then endWatch s else s := by
  unfold sample
  rw [if_pos hw, if_neg (by omega), if_pos rfl]

theorem sample_low : sample false p s = sagSample p s := by
  unfold sample
  rw [if_pos hw, if_neg (by omega), if_neg Bool.false_ne_true]

end

/-- A sag is set and counted once for each FRAME (R111). -/
theorem sagSample_counts {p : Word} {e : MapEntry} {f : FrameInfo} (he : entryAt s p = some e) (hf : e.piece = .frame f)
    (hsag : e.flags.sag = false) : sagSample p s = flagSag e.number { s with supply.sags := s.supply.sags + 1 } := by
  unfold sagSample
  rw [he]; dsimp only
  rw [if_pos (by simp [(isFrame_iff e).2 ⟨f, hf⟩, hsag])]

theorem sagSample_passes {p : Word} (h : ∀ e f, entryAt s p = some e → e.piece = .frame f → e.flags.sag = true) :
    sagSample p s = s := by
  unfold sagSample
  cases he : entryAt s p with
  | none => rfl
  | some e =>
    dsimp only
    refine if_neg fun hc => ?_
    obtain ⟨hframe, hsag⟩ := Bool.and_eq_true_iff.1 hc
    obtain ⟨f, hf⟩ := (isFrame_iff e).1 hframe
    simp [h e f he hf] at hsag

/-! ## The paper count (R35, R40) -/

theorem otherUsable_iff (s : State) : otherUsable s = true ↔ (otherMag s).loaded = true ∧ 400 ≤ (otherMag s).remaining := by
  unfold otherUsable
  rw [Bool.and_eq_true, decide_eq_true_iff]
  rfl

/-- Whether the other magazine is usable is read from its record alone, which LOW and the count leave (R40). -/
theorem otherUsable_counted (r : Magazine) (s : State) :
    otherUsable (evalLow (setMag s.paper.active r s)) = otherUsable s := by
  have hview := strobeView_evalLow (setMag s.paper.active r s)
  simp only [strobeView, StrobeView.mk.injEq] at hview
  obtain ⟨-, active, loadedA, remainingA, loadedB, remainingB, -⟩ := hview
  unfold otherUsable otherMag
  rw [active, (setMag_frame s.paper.active r s).2.2.2.1]
  cases ha : s.paper.active with
  | a => rw [ha] at loadedB remainingB; simp only [otherOf, getMag, loadedB, remainingB]; rfl
  | b => rw [ha] at loadedA remainingA; simp only [otherOf, getMag, loadedA, remainingA]; rfl

theorem paperStrobe_rests (h : (activeMag s).loaded = false ∨ (activeMag s).remaining = 0) (handles : Bool) :
    paperStrobe handles s = s := by
  have hc : countStrobe s = (s, false) := if_neg (by rcases h with h | h <;> simp [h])
  unfold paperStrobe
  rw [hc]
  exact if_neg (by simp)

/-- The strobe counts against the active magazine, and its last step is handled by whether the other is usable (R35, R40). -/
theorem paperStrobe_counts (hl : (activeMag s).loaded = true) (hr : 0 < (activeMag s).remaining) (handles : Bool) :
    let counted := evalLow (setMag s.paper.active { activeMag s with remaining := (activeMag s).remaining - 1 } s)
    paperStrobe handles s =
      if (activeMag s).remaining = 1 ∧ handles = true then
        (if otherUsable s then requestChange counted else stoppage .paperBreak counted)
      else counted := by
  intro counted
  have hc : countStrobe s = (counted, decide ((activeMag s).remaining = 1)) := if_pos (by simp [hl, hr])
  unfold paperStrobe
  rw [hc]; dsimp only
  rw [otherUsable_counted]
  simp only [Bool.and_eq_true, decide_eq_true_eq]

/-! ## The order of the blocks (log entry 11) -/

/-- The cutter-side position is formed where RUN was high as the strobe came (R127). -/
theorem reportCutterPos_timed (paper : Bool) (s : State) :
    let timed := lineTiming paper s
    reportCutterPos (runHigh s) timed =
      if s.line.web = .idle then timed else
        { timed with web.cutterPos :=
            timed.line.w - BitVec.ofNat 32 s.setup.params.cutLength - BitVec.ofInt 32 timed.cut.offset } := by
  intro timed
  have hsetup : timed.setup = s.setup := lineTiming_setup paper s
  by_cases hw : s.line.web = .idle <;> simp [reportCutterPos, runHigh, formCutterPos, hw, hsetup]

/-- WTR, SMN and CUT take the strobe while RUN is still high (R123, R111, R140, R131). -/
theorem runningStrobe_eq (good : Bool) (p : Word) (s : State) : runningStrobe good p s =
    if s.line.web = .idle then s else cutTest (closeWindow (sample good p (clearHold s))) := by
  by_cases hw : s.line.web = .idle <;> simp [runningStrobe, runHigh, hw]

/-- Settles O34: the blocks in the order that `strobe` composes them, the sample by the watch, its settle count and the
reading, and the paper count by what is left and by the other magazine. -/
theorem strobeRunsEveryBlock : Obligations.StrobeRunsEveryBlock := by
  refine ⟨fun paper good s hl => ?_, fun good p s => ⟨?_, ?_, fun hw hs => ⟨?_, ?_, ?_, ?_⟩⟩, fun handles s => ?_⟩
  · intro timed placed joined cutOf counted
    have hplaced : reportCutterPos (runHigh (clearOut s)) timed = placed := reportCutterPos_timed paper (clearOut s)
    have hcut : runningStrobe good (clearOut s).line.w placed = cutOf := runningStrobe_eq good s.line.w placed
    refine answers_act hl rfl ?_
    unfold strobe
    rw [hplaced, hcut]
    rfl
  · exact fun hw => sample_unwatched hw good p
  · exact fun hw hs => sample_settling hw hs good p
  · intro he
    rw [sample_good hw hs, if_pos he]
    rfl
  · intro he
    rw [sample_good hw hs, if_neg (by simp [he])]
  · intro e f he hf hsag
    rw [sample_low hw hs, sagSample_counts he hf hsag]
    rfl
  · intro h
    rw [sample_low hw hs, sagSample_passes h]
  · intro r t out other
    refine ⟨fun h => paperStrobe_rests h handles, fun hl hr => ?_⟩
    have hcounts := paperStrobe_counts hl hr handles
    refine ⟨fun hn => hcounts.trans (if_neg hn), fun ho hu => ?_, fun ho hu => ?_⟩
    · exact (hcounts.trans (if_pos ho)).trans (if_pos ((otherUsable_iff s).2 hu))
    · exact (hcounts.trans (if_pos ho)).trans (if_neg fun h => hu ((otherUsable_iff s).1 h))

end Sys2Proof.Machine
end

section
/-! The cutter: the stroke from leaving home to its return or its failure, the cut of a due boundary, and what leaves the map
with it (R110, R124, R125, R129, R131 to R136). -/

open Sys2Proof Sys2Proof.Machine

namespace Sys2Proof.Machine

set_option Elab.async false

variable {s : State}

/-! ## The stroke (R134 to R136) -/

theorem strokeEnd_eq (s : State) :
    strokeEnd s = { s with supply.strokeEnded := s.supply.strokeEnded || s.supply.watching } := by
  unfold strokeEnd
  cases h : s.supply.watching with
  | false => rw [if_neg Bool.false_ne_true, Bool.or_false]
  | true => rw [if_pos rfl, Bool.or_true]

theorem homeChange_idle (h : s.cut.knife = .idle) (active : Bool) : homeChange active s = s := by
  unfold homeChange
  rw [h]

theorem homeChange_stroke (h : s.cut.knife = .stroke) (active : Bool) : homeChange active s =
    if active then (if s.cut.leftHome then endStroke s else s)
    else if s.cut.leftHome then s else { s with cut.leftHome := true, cut.solenoid := false } := by
  unfold homeChange
  rw [h]

theorem homeChange_faulted (h : s.cut.knife = .faulted) (active : Bool) : homeChange active s =
    if active then { s with cut.knife := .idle } else s := by
  unfold homeChange
  rw [h]

/-- Settles O39: the sensor by the knife's state, its level and whether the blade had left home, the timer by whether it runs in
STROKE. -/
theorem knifeSensorAndTimer : Obligations.KnifeSensorAndTimer := by
  intro s hl at_
  refine ⟨fun active h => answers_actPin hl rfl ?_, fun hk hh => answers_actPin hl rfl ?_,
    fun hk hh => answers_actPin hl rfl ?_, fun hk => answers_actPin hl rfl ?_, fun hk ht => answers_act hl rfl (if_pos ?_),
    fun h => answers_act hl rfl (if_neg fun hc => ?_)⟩
  · rcases h with hk | ⟨hk, rfl⟩ | ⟨hk, hne⟩
    · exact homeChange_idle (s := at_ active) hk active
    · exact (homeChange_faulted (s := at_ false) hk false).trans (if_neg Bool.false_ne_true)
    · refine (homeChange_stroke (s := at_ active) hk active).trans ?_
      cases active with
      | false => exact (if_neg Bool.false_ne_true).trans (if_pos (Bool.eq_true_of_not_eq_false hne.symm))
      | true => exact (if_pos rfl).trans (if_neg hne.symm)
  · exact (homeChange_stroke (s := at_ false) hk false).trans
      ((if_neg Bool.false_ne_true).trans (if_neg (Bool.not_eq_true _ ▸ hh)))
  · exact (homeChange_stroke (s := at_ true) hk true).trans
      ((if_pos rfl).trans ((if_pos hh).trans (congrArg cutTest (strokeEnd_eq _))))
  · exact (homeChange_faulted (s := at_ true) hk true).trans (if_pos rfl)
  · exact ⟨hk, Option.isSome_iff_ne_none.2 ht⟩
  · exact h.elim (· hc.1) (Option.isSome_iff_ne_none.1 hc.2)

/-! ## The boundary that is due (R131) -/

theorem cutTest_empty (hmap : s.web.map = []) : cutTest s = s := by
  unfold cutTest dueBoundary
  rw [hmap]

section
variable {e : MapEntry} {rest : List MapEntry} (hmap : s.web.map = e :: rest)
include hmap

theorem dueBoundary_cons : dueBoundary s = if 0 ≤ lateness s e.endPos then some e.endPos else none := by
  unfold dueBoundary
  rw [hmap]

theorem cutTest_early (h : lateness s e.endPos < 0) : cutTest s = s := by
  unfold cutTest
  rw [dueBoundary_cons hmap, if_neg (not_le.2 h)]

section
variable (h : 0 ≤ lateness s e.endPos)
include h

theorem cutTest_waits (hk : s.cut.knife = .stroke) : cutTest s = s := by
  unfold cutTest
  rw [dueBoundary_cons hmap, if_pos h]; dsimp only
  rw [hk]

theorem cutTest_faulted (hk : s.cut.knife = .faulted) : cutTest s = stoppage .knifeFault s := by
  unfold cutTest
  rw [dueBoundary_cons hmap, if_pos h]; dsimp only
  rw [hk]

theorem cutTest_fires (hk : s.cut.knife = .idle) : cutTest s = fireKnife e.endPos s := by
  unfold cutTest
  rw [dueBoundary_cons hmap, if_pos h]; dsimp only
  rw [hk]

end

/-! ## The cut report (R124, R133) -/

theorem cutReport_onTime : cutReport e.endPos false s = leaveMap s := by
  unfold cutReport
  rw [hmap]; dsimp only
  rw [if_pos rfl, if_neg Bool.false_ne_true]

end

theorem cutReport_late_last {e : MapEntry} (hmap : s.web.map = [e]) :
    cutReport e.endPos true s = leaveMap (miscutEntry e s) := by
  unfold cutReport
  rw [hmap]; dsimp only
  rw [if_pos rfl, if_pos rfl]

theorem cutReport_late {e e2 : MapEntry} {more : List MapEntry} (hmap : s.web.map = e :: e2 :: more) :
    cutReport e.endPos true s = leaveMap (miscutEntry e2 (miscutEntry e s)) := by
  unfold cutReport
  rw [hmap]; dsimp only
  rw [if_pos rfl, if_pos rfl]

/-! ## MISCUT (R124) -/

/-- A piece cut late: flagged MISCUT, its marking made REJECT or left as it was (R124). -/
def miscutPiece (reject : Bool) (e : MapEntry) : MapEntry :=
  { e with
    flags.miscut := true
    piece := (match e.piece with
      | .frame f => .frame { f with reject := f.reject || reject }
      | other => other) }

theorem miscutPiece_of_frame {e : MapEntry} {f : FrameInfo} (hf : e.piece = .frame f) (reject : Bool) : miscutPiece reject e =
    { e with flags.miscut := true, piece := .frame { f with reject := f.reject || reject } } := by
  unfold miscutPiece
  rw [hf]

theorem miscutPiece_of_blank {e : MapEntry} (hf : ∀ f, e.piece ≠ .frame f) (reject : Bool) :
    miscutPiece reject e = { e with flags.miscut := true } := by
  unfold miscutPiece
  split
  · exact absurd ‹_› (hf _)
  · rfl

theorem onFrame_of_blank {e : MapEntry} (hf : ∀ f, e.piece ≠ .frame f) (g : FrameInfo → FrameInfo) : onFrame g e = e := by
  unfold onFrame
  split
  · exact absurd ‹_› (hf _)
  · rfl

theorem frame_or_blank (e : MapEntry) : (∃ f, e.piece = .frame f) ∨ ∀ f, e.piece ≠ .frame f := by
  rw [← not_exists]
  exact Classical.em _

theorem miscutPiece_false (e : MapEntry) : miscutPiece false e = { e with flags.miscut := true } := by
  obtain ⟨f, hf⟩ | hblank := frame_or_blank e
  · rw [miscutPiece_of_frame hf, Bool.or_false, ← hf]
  · exact miscutPiece_of_blank hblank false

theorem miscutPiece_true (e : MapEntry) : miscutPiece true e = rejected { e with flags.miscut := true } := by
  obtain ⟨f, hf⟩ | hblank := frame_or_blank e
  · rw [miscutPiece_of_frame hf, Bool.or_true]
    exact (onFrame_of_frame (e := { e with flags.miscut := true }) hf fun f => { f with reject := true }).symm
  · rw [miscutPiece_of_blank hblank]
    exact (onFrame_of_blank (e := { e with flags.miscut := true }) hblank _).symm

theorem onEntry_miscut (n : Word) (s : State) :
    onEntry n (fun e => { e with flags.miscut := true }) s = onEntry n (miscutPiece false) s :=
  congrArg (onEntry n · s) (funext fun e => (miscutPiece_false e).symm)

theorem onEntry_rejected_miscut (n : Word) (s : State) :
    onEntry n rejected (onEntry n (miscutPiece false) s) = onEntry n (miscutPiece true) s := by
  refine congrArg (fun m => { s with web.map := m }) ?_
  refine (List.map_map ..).trans (List.map_congr_left fun e _ => ?_)
  by_cases hn : e.number = n
  · simp [hn, miscutPiece_true, miscutPiece_false]
  · simp [hn]

theorem miscutEntry_of_frame {e : MapEntry} {f : FrameInfo} (hf : e.piece = .frame f) (s : State) : miscutEntry e s =
    if f.reject then onEntry e.number (miscutPiece false) s
    else settleFrame (.bad false) f.order f.entry e.number (onEntry e.number (miscutPiece true) s) := by
  unfold miscutEntry
  simp only [hf, onEntry_miscut, onEntry_rejected_miscut]

theorem miscutEntry_of_blank {e : MapEntry} (hf : ∀ f, e.piece ≠ .frame f) (s : State) :
    miscutEntry e s = onEntry e.number (miscutPiece false) s := by
  unfold miscutEntry
  split
  · exact absurd ‹_› (hf _)
  · exact onEntry_miscut _ _

theorem number_ne_of_nodup {before after : List MapEntry} {e : MapEntry}
    (h : ((before ++ e :: after).map MapEntry.number).Nodup) : ∀ x ∈ before ++ after, x.number ≠ e.number := by
  rw [List.map_append, List.map_cons, List.nodup_middle, List.nodup_cons, ← List.map_append] at h
  exact fun x hx hn => h.1 (hn ▸ List.mem_map_of_mem hx)

/-- The one entry of its number is left flagged and REJECT, whether it was GOOD before or not (R113, R124). -/
theorem miscutEntry_map {before after : List MapEntry} {e : MapEntry} (hmap : s.web.map = before ++ e :: after)
    (hother : ∀ x ∈ before ++ after, x.number ≠ e.number) :
    (miscutEntry e s).web.map = before ++ miscutPiece true e :: after := by
  have hentry (reject : Bool) : (onEntry e.number (miscutPiece reject) s).web.map = before ++ miscutPiece reject e :: after :=
    congrArg (·.web.map) (onEntry_of_only hmap hother rfl _)
  obtain ⟨f, hf⟩ | hblank := frame_or_blank e
  · rw [miscutEntry_of_frame hf]
    split
    · rename_i hr
      rw [hentry, miscutPiece_of_frame hf, miscutPiece_of_frame hf, hr, Bool.or_false, Bool.or_true]
    · simp only [settleFrame_frame, hentry]
  · rw [miscutEntry_of_blank hblank, hentry, miscutPiece_of_blank hblank, miscutPiece_of_blank hblank]

/-! ## Leaving the map (R125, R126, R129) -/

/-- The oldest entry has left, e as it stood before the cut: a print offered to the lane, REJECT where it left late, or waste
(R125). -/
def leftMap (e : MapEntry) (late : Int) (s : State) : State :=
  let s1 := markFields (if anyFlag e.flags = true ∨ 3 < late then [0x178] else []) { s with web.map := s.web.map.tail }
  match e.piece with
  | .frame f => offerPrint f.order f.entry e.number (f.reject || decide (3 < late)) e.flags.unverified s1
  | _ => { s1 with web.waste := s1.web.waste + BitVec.ofNat 32 e.length }

theorem leaveMap_onTime {e : MapEntry} {rest : List MapEntry} {late : Int} (hmap : s.web.map = e :: rest) (hlate : late ≤ 3) :
    leaveMap s = leftMap e late s := by
  unfold leaveMap leftMap
  rw [hmap]
  cases hp : e.piece <;> simp only [hp, not_lt.2 hlate, or_false, decide_false, Bool.or_false, List.tail_cons]

/-- What leaves late leaves flagged and REJECT (R124, R125). -/
theorem leaveMap_late {e : MapEntry} {rest : List MapEntry} {late : Int} (hmap : s.web.map = miscutPiece true e :: rest)
    (hlate : 3 < late) : leaveMap s = leftMap e late s := by
  have hflag : anyFlag (miscutPiece true e).flags = true := by simp [miscutPiece, anyFlag]
  unfold leaveMap leftMap
  rw [hmap]
  simp only [hflag, if_true, hlate, or_true, decide_true, Bool.or_true, List.tail_cons]
  cases hp : e.piece with
  | frame f => simp only [miscutPiece_of_frame hp, Bool.or_true]
  | gap => simp only [miscutPiece, hp]
  | splice => simp only [miscutPiece, hp]

theorem wasteBehind_nil (h : s.web.map = []) : wasteBehind s = s := by
  unfold wasteBehind
  rw [h]

theorem wasteBehind_cons {e : MapEntry} {rest : List MapEntry} (h : s.web.map = e :: rest) :
    wasteBehind s = { s with web.waste := s.web.waste + (s.line.w - e.start) } := by
  unfold wasteBehind
  rw [h]

theorem enterStopped_eq (s : State) : enterStopped s = stoppedEntered s := by
  have hpoll (t : State) : pollTimer t = { t with intake.timer := pollLoaded t } := by
    unfold pollTimer pollLoaded
    split <;> rfl
  unfold enterStopped stoppedEntered
  cases hm : s.web.map with
  | nil =>
    rw [hpoll, wasteBehind_nil (s := setEngine .stopped s) hm]
    rfl
  | cons e rest =>
    rw [hpoll, wasteBehind_cons (s := setEngine .stopped s) hm]
    rfl

theorem webIsClear_iff (s : State) : webIsClear s = true ↔ ∀ x ∈ s.web.map, x.piece = .gap := by
  simp only [webIsClear, List.all_eq_true, isGap_iff]

theorem clearReport_eq (s : State) : clearReport s =
    if s.eng.state = .stopping ∧ ∀ x ∈ s.web.map, x.piece = .gap then stoppedEntered s else s := by
  unfold clearReport
  simp only [webIsClear_iff, enterStopped_eq]

/-- Settles O40: the test by the knife's state; the cut by its lateness and by whether an entry lies behind the boundary, the
map followed through the MISCUT reports to the entry that leaves. -/
theorem cutTestFiresForDueBoundary : Obligations.CutTestFiresForDueBoundary := by
  intro s
  refine ⟨cutTest_empty, fun e rest hmap => ?_⟩
  intro b late fired leaves miscut
  have hleaves (t : State) : leaves t = clearReport (leftMap e late t) := (clearReport_eq _).symm
  have hmiscut (x : MapEntry) (t : State) : miscut x t = miscutEntry x t := by
    obtain ⟨number, piece, start, length, flags⟩ := x
    cases piece with
    | frame f => exact (miscutEntry_of_frame rfl t).symm
    | gap => exact (miscutEntry_of_blank (fun _ => Piece.noConfusion) t).symm
    | splice => exact (miscutEntry_of_blank (fun _ => Piece.noConfusion) t).symm
  refine ⟨cutTest_early hmap, cutTest_waits hmap, cutTest_faulted hmap, fun hdue hk hnd => ?_⟩
  have hfires : cutTest s = clearReport (cutReport e.endPos (decide (3 < late)) fired) := cutTest_fires hmap hdue hk
  rw [hfires]
  rw [hmap] at hnd
  have hfirst : (miscutEntry e fired).web.map = miscutPiece true e :: rest :=
    miscutEntry_map (before := []) hmap (number_ne_of_nodup (before := []) hnd)
  refine ⟨fun hl => ?_, fun hl hr => ?_, fun hl e2 more hr => ?_⟩
  · rw [decide_eq_false (not_lt.2 hl), hleaves, cutReport_onTime (s := fired) hmap, leaveMap_onTime (s := fired) hmap hl]
  · subst hr
    rw [decide_eq_true hl, hleaves, hmiscut, cutReport_late_last (s := fired) hmap, leaveMap_late hfirst hl]
  · subst hr
    have hboth : (miscutEntry e2 (miscutEntry e fired)).web.map = miscutPiece true e :: miscutPiece true e2 :: more :=
      miscutEntry_map (before := [miscutPiece true e]) hfirst (number_ne_of_nodup (before := [miscutPiece true e]) hnd)
    rw [decide_eq_true hl, hleaves, hmiscut, hmiscut, cutReport_late (s := fired) hmap, leaveMap_late hboth hl]

end Sys2Proof.Machine
end

section
/-! Registration: a mark inside the window of the cursor's frame, and windows that close without one (R137 to R142). -/

open Sys2Proof Sys2Proof.Machine

namespace Sys2Proof.Machine

set_option Elab.async false

variable {s : State}

/-! ## The cursor's frame (R138) -/

theorem markError_none (h : s.cut.cursor = none) : markError s = none := by
  unfold markError
  rw [h]

/-- The next FRAME is looked for behind the one entry of the number (R113, R138). -/
theorem frameAfter_of_only {before after : List MapEntry} {e : MapEntry} (hother : ∀ x ∈ before, x.number ≠ e.number) :
    frameAfter e.number (before ++ e :: after) = (after.find? isFrame).map MapEntry.number := by
  induction before with
  | nil => exact if_pos rfl
  | cons x rest ih =>
    exact (if_neg (hother x List.mem_cons_self)).trans (ih fun y hy => hother y (List.mem_cons_of_mem _ hy))

section
variable {before after : List MapEntry} {e : MapEntry} (hmap : s.web.map = before ++ e :: after)
  (hother : ∀ x ∈ before ++ after, x.number ≠ e.number)
include hmap hother

theorem markError_of_only (hcur : s.cut.cursor = some e.number) :
    markError s = some (e.number, signedDiff s.line.w (expectedMark s e.start)) := by
  unfold markError
  rw [hcur]; dsimp only
  rw [entryNumbered_of_only hmap hother rfl]

theorem moveMark_of_only : moveMark e.number s = { s with cut.cursor := (after.find? isFrame).map MapEntry.number } := by
  unfold moveMark
  rw [hmap, frameAfter_of_only fun x hx => hother x (List.mem_append_left _ hx)]

end

/-! ## Misses (R140, R141) -/

/-- Mark-lost mode is entered at three misses, with ATTENTION where it was not entered before (R141). -/
theorem enterMarkLost_eq (s : State) :
    (if s.cut.misses = 3 ∧ s.cut.markLost = false then raiseAttention { s with cut.markLost := true } else s) =
      { s with
        cut.markLost := s.cut.markLost || s.cut.misses == 3
        link.causes.attention := s.link.causes.attention || (s.cut.misses == 3 && !s.cut.markLost) } := by
  by_cases h : s.cut.misses = 3 ∧ s.cut.markLost = false
  · simp [h, raiseAttention]
  · have hlost : (s.cut.markLost || s.cut.misses == 3) = s.cut.markLost := by cases hl : s.cut.markLost <;> simp_all
    have hnew : (s.cut.misses == 3 && !s.cut.markLost) = false := by cases hl : s.cut.markLost <;> simp_all
    rw [if_neg h, hlost, hnew, Bool.or_false]

/-- A miss of the one frame of its number: flagged, counted up to 3, the third entering mark-lost mode, the cursor moved on
(R138, R140, R141). -/
theorem missMark_of_only {before after : List MapEntry} {e : MapEntry} (hmap : s.web.map = before ++ e :: after)
    (hother : ∀ x ∈ before ++ after, x.number ≠ e.number) :
    let misses := if s.cut.misses < 3 then s.cut.misses + 1 else s.cut.misses
    missMark e.number s =
      { s with
        web.map := before ++ { e with flags.unverified := true } :: after
        cut.misses := misses, cut.markLost := s.cut.markLost || misses == 3
        cut.cursor := (after.find? isFrame).map MapEntry.number
        link.causes.attention := s.link.causes.attention || (misses == 3 && !s.cut.markLost) } := by
  intro misses
  have hflag : flagUnverified e.number s =
      { s with web.map := before ++ { e with flags.unverified := true } :: after } :=
    onEntry_of_only hmap hother rfl _
  have hcount (t : State) : (if t.cut.misses < 3 then { t with cut.misses := t.cut.misses + 1 } else t) =
      { t with cut.misses := if t.cut.misses < 3 then t.cut.misses + 1 else t.cut.misses } := by
    split <;> rfl
  unfold missMark
  dsimp only
  rw [hflag, hcount, enterMarkLost_eq]
  exact moveMark_of_only (e := { e with flags.unverified := true }) rfl hother

/-! ## Marks and windows (R139, R140, R142) -/

section
variable {n : Word} {err : Int}

theorem takeMark_ignored (h : s.line.web = .idle ∨ markError s = none ∨
    ∃ n err, markError s = some (n, err) ∧ (err < -s.setup.params.regWindow ∨ s.setup.params.regWindow < err)) :
    takeMark s = s := by
  unfold takeMark
  obtain hw | he | ⟨n, err, he, hout⟩ := h
  · exact if_neg fun hr => (runHigh_iff s).1 hr hw
  · rw [he]
    exact ite_self s
  · rw [he]
    exact (if_congr Iff.rfl (if_neg (by omega)) rfl).trans (ite_self s)

theorem takeMark_inside (hw : s.line.web ≠ .idle) (he : markError s = some (n, err))
    (hlo : -(s.setup.params.regWindow : Int) ≤ err) (hhi : err ≤ s.setup.params.regWindow) :
    takeMark s = cutTest (moveMark n
      { s with cut.offset := clampOffset (s.cut.offset + err), cut.misses := 0, cut.markLost := false }) := by
  unfold takeMark
  rw [if_pos ((runHigh_iff s).2 hw), he]
  exact if_pos ⟨hlo, hhi⟩

theorem closeWindow_open (he : markError s = some (n, err)) (h : err ≤ s.setup.params.regWindow) : closeWindow s = s := by
  unfold closeWindow
  rw [he]
  exact if_neg (not_lt.2 h)

theorem closeWindow_missed (he : markError s = some (n, err)) (h : s.setup.params.regWindow < err) :
    closeWindow s = missMark n s := by
  unfold closeWindow
  rw [he]
  exact if_pos h

end

/-- Settles O41: the cursor's frame is the one entry of its number, and the mark and the window are judged by where W stands to
its expected position. -/
theorem marksCorrectAndMissesCount : Obligations.MarksCorrectAndMissesCount := by
  intro s hl
  refine ⟨fun h => answers_act hl rfl (takeMark_ignored (h.imp_right fun hc => .inl (markError_none hc))),
    fun before e rest hmap hother hcur => ?_⟩
  intro expected off window next
  have herr : markError s = some (e.number, off) := markError_of_only hmap hother hcur
  refine ⟨fun hw hlo hhi => answers_act hl rfl ?_, fun hout => answers_act hl rfl ?_, closeWindow_open herr,
    fun hmiss => (closeWindow_missed herr hmiss).trans ?_⟩
  · refine (takeMark_inside (s := clearOut s) hw herr hlo hhi).trans (congrArg cutTest ?_)
    exact moveMark_of_only (s := { clearOut s with
      cut.offset := clampOffset (s.cut.offset + off), cut.misses := 0, cut.markLost := false }) hmap hother
  · exact takeMark_ignored (s := clearOut s) (.inr (.inr ⟨e.number, off, herr, hout⟩))
  · exact missMark_of_only hmap hother

end Sys2Proof.Machine
end

section
/-! The sorter's lane: gate arrivals and deadlines (R150, R154), confirmations (R151 to R153, R157) and the prints offered to
it (R147 to R149). -/

open Sys2Proof Sys2Proof.Machine

namespace Sys2Proof.Machine

set_option Elab.async false

variable {s : State} {i : LaneItem} {rest : List LaneItem}

/-! ## Gate arrivals (R150) -/

theorem reachNext_of_reached {before : List LaneItem} (hb : ∀ x ∈ before, x.reached = true) (l : List LaneItem) :
    reachNext (before ++ l) = before ++ reachNext l := by
  induction before with
  | nil => rfl
  | cons x r ih =>
    obtain ⟨hx, hr⟩ := List.forall_mem_cons.1 hb
    rw [List.cons_append, reachNext, if_pos hx, ih hr, List.cons_append]

theorem reachNext_unreached (hi : i.reached = false) (rest : List LaneItem) :
    reachNext (i :: rest) = { i with reached := true } :: rest := by
  rw [reachNext, if_neg (by simp [hi])]

/-! ## Deadlines (R154) -/

/-- A print's deadline has passed at this clock. -/
def passedAt (clock : Word) (x : LaneItem) : Bool := decide (0 ≤ signedDiff clock x.deadline)

/-- The report of a print that leaves the lane: a GOOD print's frame is settled, a REJECT print's has been. -/
def reportPrint (how : Settle) (x : LaneItem) (s : State) : State :=
  if x.reject then s else settleFrame how x.order x.entry x.number s

/-- The oldest print x of the lane is given up. -/
def giveUp (s : State) (x : LaneItem) : State := reportPrint (.bad false) x { s with sort.lane := s.sort.lane.tail }

theorem reportPrint_frame (how : Settle) (x : LaneItem) (s : State) :
    (reportPrint how x s).sort.lane = s.sort.lane ∧ (reportPrint how x s).sort.clock = s.sort.clock := by
  unfold reportPrint
  split <;> simp

theorem deadlinePassed_oldest (h : s.sort.lane = i :: rest) : deadlinePassed s = passedAt s.sort.clock i := by
  rw [deadlinePassed, h]
  rfl

theorem expireLane_rests (hd : deadlinePassed s = false) (n : Nat) : expireLane n s = s := by
  cases n with
  | zero => rfl
  | succ n => rw [expireLane, if_neg (by simp [hd])]

theorem expireLane_empty (h : s.sort.lane = []) (n : Nat) : expireLane n s = s :=
  expireLane_rests (by rw [deadlinePassed, h]) n

theorem expireLane_passed (h : s.sort.lane = i :: rest) (hp : passedAt s.sort.clock i = true) (n : Nat) :
    expireLane (n + 1) s = expireLane n (giveUp s i) := by
  have hl : loseOldest s = giveUp s i := by rw [loseOldest, h]; rfl
  rw [expireLane, if_pos ((deadlinePassed_oldest h).trans hp), hl]

/-- The prints at the head of the lane whose deadline has passed are given up, oldest first, and no other. -/
theorem expireLane_eq {n : Nat} (hn : s.sort.lane.length ≤ n) :
    expireLane n s = (s.sort.lane.takeWhile (passedAt s.sort.clock)).foldl giveUp s
      ∧ (expireLane n s).sort.lane = s.sort.lane.dropWhile (passedAt s.sort.clock) := by
  induction n generalizing s with
  | zero =>
    have hl : s.sort.lane = [] := List.eq_nil_of_length_eq_zero (Nat.le_zero.1 hn)
    rw [expireLane_empty hl, hl]
    exact ⟨rfl, rfl⟩
  | succ n ih =>
    cases hl : s.sort.lane with
    | nil =>
      rw [expireLane_empty hl]
      exact ⟨rfl, hl⟩
    | cons i rest =>
      cases hp : passedAt s.sort.clock i with
      | false =>
        rw [expireLane_rests ((deadlinePassed_oldest hl).trans hp), List.takeWhile_cons_of_neg (by simp [hp]),
          List.dropWhile_cons_of_neg (by simp [hp])]
        exact ⟨rfl, hl⟩
      | true =>
        obtain ⟨hlane, hclock⟩ := reportPrint_frame (.bad false) i { s with sort.lane := s.sort.lane.tail }
        have hrest : (giveUp s i).sort.lane = rest := by rw [giveUp, hlane, hl]; rfl
        have hrec := ih (s := giveUp s i) (by rw [hrest]; rw [hl] at hn; exact Nat.le_of_succ_le_succ hn)
        rw [hrest, giveUp, hclock] at hrec
        rw [expireLane_passed hl hp, List.takeWhile_cons_of_pos hp, List.dropWhile_cons_of_pos hp]
        exact hrec

theorem reachDeadline_eq (h : s.sort.lane = i :: rest) : reachDeadline s =
    { s with sort.clock := if signedDiff s.sort.clock i.deadline < 0 then i.deadline else s.sort.clock } := by
  rw [reachDeadline, h]
  dsimp only
  split <;> rfl

/-- What the intake unit, the link and the write-through carry on in a step leaves the lane and SRT's clock. -/
theorem publish_progress_lane (room : Option Nat) (s t : State) : (publish s (progress room t)).sort.lane = t.sort.lane
    ∧ (publish s (progress room t)).sort.clock = t.sort.clock := by
  simp

/-- Settles O42: a gate arrival passes over the reached prints, and the deadline's clock gives up the prints that it has passed
(`expireLane_eq`). -/
theorem gateArrivalsAndDeadlines : Obligations.GateArrivalsAndDeadlines := by
  intro s hl
  refine ⟨fun hall => answers_act hl rfl ?_, fun before i rest hlane hb hi => answers_act hl rfl ?_,
    fun hempty => answers_act hl rfl ?_, fun i rest hlane => ?_⟩
  · have hsame : reachNext s.sort.lane = s.sort.lane := by simpa [reachNext] using reachNext_of_reached hall []
    exact congrArg (fun l => { clearOut s with sort.lane := l }) hsame
  · refine congrArg (fun l => { clearOut s with sort.lane := l }) (?_ : reachNext s.sort.lane = _)
    rw [hlane, reachNext_of_reached hb, reachNext_unreached hi]
  · have hclock : reachDeadline (clearOut s) = clearOut s := by simp [reachDeadline, hempty]
    rw [hclock, expireLane_empty (by simpa using hempty)]
  · intro clock passed lost
    have hreach : reachDeadline (clearOut s) = { clearOut s with sort.clock := clock } := reachDeadline_eq hlane
    obtain ⟨hstate, hleft⟩ := expireLane_eq (s := { clearOut s with sort.clock := clock }) (le_refl s.sort.lane.length)
    have hans : Answers .sorterDeadline none s (expireLane s.sort.lane.length { clearOut s with sort.clock := clock }) :=
      answers_act hl rfl (by rw [hreach]; rfl)
    obtain ⟨hlane', hclock⟩ := publish_progress_lane none s
      (expireLane s.sort.lane.length { clearOut s with sort.clock := clock })
    exact ⟨hstate ▸ hans, _, hans, hlane'.trans hleft, hclock.trans (by simp)⟩

/-! ## Confirmations (R151 to R153, R157) -/

theorem confirm_empty (h : s.sort.lane = []) (b : Nat) : confirm b s = strayLanding b s := by rw [confirm, h]

theorem confirm_oldest (h : s.sort.lane = i :: rest) (b : Nat) : confirm b s =
    (rest.takeWhile (passedAt s.sort.clock)).foldl giveUp
      (if i.dest = b then deliver i { s with sort.lane := rest } else misroute b i { s with sort.lane := rest }) := by
  have hpop : popLane s = { s with sort.lane := rest } := by rw [popLane, h]; rfl
  rw [confirm, h]
  dsimp only
  rw [hpop]
  generalize ht : (if i.dest = b then deliver i { s with sort.lane := rest }
    else misroute b i { s with sort.lane := rest }) = t
  have hlane : t.sort.lane = rest := by rw [← ht]; split <;> simp
  have hclock : t.sort.clock = s.sort.clock := by rw [← ht]; split <;> simp
  rw [(expireLane_eq (s := t) (n := rest.length) (by rw [hlane])).1, hlane, hclock]

theorem deliver_reject (h : i.dest = 0) (s : State) :
    deliver i s = reportPrint (.good i.unverified) i (strayLanding 0 s) := by
  unfold deliver
  rw [if_pos h]
  rfl

theorem deliver_bin (h : i.dest ≠ 0) (s : State) : deliver i s = reportPrint (.good i.unverified) i
    (setBin i.dest { getBin s i.dest with
      good := (getBin s i.dest).good + 1
      state := if (getBin s i.dest).state = .reserved then .filling else (getBin s i.dest).state } s) := by
  unfold deliver
  rw [if_neg h]
  rfl

/-! ## Prints offered to the lane (R147 to R149) -/

/-- The state with a print for bin d behind the others on the lane, its deadline set from SRT's clock. -/
def joinLane (order entry : Nat) (number : Word) (reject unverified : Bool) (d : Nat) (s : State) : State :=
  { s with sort.lane := s.sort.lane ++
      [{ order := order, entry := entry, number := number, reject := reject, unverified := unverified, dest := d
         reached := false, entryTime := s.sort.clock
         deadline := s.sort.clock + BitVec.ofNat 32 (s.setup.params.sorterTimeout * 1000) }] }

variable {order entry : Nat} {number : Word} {reject unverified : Bool}

theorem offerPrint_full (h : 8 ≤ s.sort.lane.length) :
    offerPrint order entry number reject unverified s = divert order entry number reject s :=
  if_neg (Nat.not_lt.2 h)

theorem offerPrint_joins {d : Nat} (h : s.sort.lane.length < 8) (hd : destination s order reject = some d) :
    offerPrint order entry number reject unverified s = joinLane order entry number reject unverified d s := by
  rw [offerPrint, if_pos (show _ < Config.lanePrints from h), hd]
  rfl

theorem offerPrint_diverted (h : s.sort.lane.length < 8) (hd : destination s order reject = none) :
    offerPrint order entry number reject unverified s = divert order entry number reject s := by
  rw [offerPrint, if_pos (show _ < Config.lanePrints from h), hd]

theorem destination_reject (s : State) :
    destination s order true = if s.sort.rejectCount + inLane s 0 < 50 then some 0 else none := rfl

theorem destination_good {o : Order} (ho : getOrder s order = some o) :
    destination s order false = roomyBin s o.bins := by
  simp [destination, ho]

theorem destination_first {o : Order} {before after : List Nat} {b : Nat} (ho : getOrder s order = some o)
    (hbins : o.bins = before ++ b :: after) (hb : (getBin s b).good + inLane s b < 100)
    (hfull : ∀ x ∈ before, ¬(getBin s x).good + inLane s x < 100) : destination s order false = some b := by
  rw [destination_good ho]
  exact List.find?_eq_some_iff_append.2
    ⟨decide_eq_true hb, before, after, hbins, fun x hx => congrArg not (decide_eq_false (hfull x hx))⟩

theorem destination_none (h : ∀ o b, getOrder s order = some o → b ∈ o.bins → ¬(getBin s b).good + inLane s b < 100) :
    destination s order false = none := by
  cases ho : getOrder s order with
  | none => simp [destination, ho]
  | some o =>
    rw [destination_good ho]
    exact List.find?_eq_none.2 fun b hb hd => h o b ho hb (of_decide_eq_true hd)

/-- Settles O43: a confirmation is for the oldest print (`confirm_oldest`), landing by where it came from; a print offered joins
the lane or is diverted by its destination. -/
theorem deliveriesAndPrintsOffered : Obligations.DeliveriesAndPrintsOffered := by
  refine ⟨?_, ?_⟩
  · intro b s hl landed reports passed lost hlen
    have hland (t : State) (ht : t.sort.bins.length = 15) : strayLanding b t = landed t := landing_eq b (by omega) t ht
    refine ⟨fun hempty => answers_act hl rfl ((confirm_empty (s := clearOut s) hempty b).trans (hland _ hlen)),
      fun i rest hlane => ?_⟩
    intro popped next
    have hconfirm : confirm b (clearOut s) = next (if i.dest = b then deliver i popped else misroute b i popped) :=
      confirm_oldest (s := clearOut s) hlane b
    refine ⟨fun hd h0 => answers_act hl rfl (hconfirm.trans (congrArg next ?_)),
      fun hd h0 => answers_act hl rfl (hconfirm.trans (congrArg next ?_)),
      fun hd => answers_act hl rfl (hconfirm.trans (congrArg next ?_))⟩
    · rw [if_pos hd, deliver_reject (hd.trans h0), ← hland popped hlen, h0]
      rfl
    · rw [if_pos hd, deliver_bin (hd ▸ h0), hd]
      rfl
    · rw [if_neg hd]
      exact congrArg (reportPrint (.bad true) i) (hland { popped with sort.misroutes := s.sort.misroutes + 1 } hlen)
  · intro order entry n reject unv s joins chute room t
    refine ⟨offerPrint_full, ?_, ?_⟩
    · rintro hroom rfl
      split
      · rename_i h
        exact offerPrint_joins hroom ((destination_reject s).trans (if_pos h))
      · rename_i h
        exact offerPrint_diverted hroom ((destination_reject s).trans (if_neg h))
    · rintro hroom rfl
      exact ⟨fun o before b after ho hbins hb hbefore => offerPrint_joins hroom (destination_first ho hbins hb hbefore),
        fun hnone => offerPrint_diverted hroom (destination_none hnone)⟩

end Sys2Proof.Machine
end

section
/-! The bins' keys: the key scan and what a key event does (R158, R160). -/

open Sys2Proof Sys2Proof.Machine

namespace Sys2Proof.Machine

set_option Elab.async false

variable {s : State}

/-! ## The key scan (R158) -/

theorem sampleKey_latched {k : Key} (h : k.latched = true) : sampleKey true k = (k, false) := by
  rw [sampleKey, if_pos rfl, if_pos h]

theorem sampleKey_third {k : Key} (h : k.latched = false) (hr : k.run = 2) :
    sampleKey true k = ({ run := 0, latched := true }, true) := by
  rw [sampleKey, if_pos rfl, if_neg (by simp [h]), if_pos (by rw [hr])]

theorem sampleKey_counts {k : Key} (h : k.latched = false) (hr : k.run ≠ 2) :
    sampleKey true k = ({ k with run := k.run + 1 }, false) := by
  rw [sampleKey, if_pos rfl, if_neg (by simp [h]), if_neg (by omega)]

/-- A key makes an event exactly where it reads pressed, is not latched and has been read pressed twice before. -/
theorem sampleKey_event (pressed : Bool) (k : Key) :
    (sampleKey pressed k).2 = (pressed && (!k.latched && k.run == 2)) := by
  cases pressed with
  | false => rfl
  | true =>
    cases hl : k.latched with
    | true => rw [sampleKey_latched hl]; rfl
    | false =>
      by_cases hr : k.run = 2
      · rw [sampleKey_third hl hr]; simp [hr]
      · rw [sampleKey_counts hl hr]; simp [hr]

theorem sampleKey_after (pressed : Bool) (k : Key) : (sampleKey pressed k).1 =
    if pressed = false then { run := 0, latched := false }
    else if k.latched = true then k
    else if k.run = 2 then { run := 0, latched := true }
    else { k with run := k.run + 1 } := by
  cases pressed with
  | false => rfl
  | true =>
    rw [if_neg (by decide)]
    split
    · rename_i hl
      rw [sampleKey_latched hl]
    · rename_i hl
      have hl : k.latched = false := Bool.eq_false_of_not_eq_true hl
      split
      · rename_i hr
        rw [sampleKey_third hl hr]
      · rename_i hr
        rw [sampleKey_counts hl hr]

theorem scanKeys_keys (pressed : BitVec 16) (keys : List Key) :
    (scanKeys pressed keys).1 = keys.mapIdx (fun i k => (sampleKey (pressed.getLsbD i) k).1) := by
  unfold scanKeys
  exact List.ext_getElem? fun i => by simp [Function.comp_def]

theorem scanKeys_events (pressed : BitVec 16) (keys : List Key) : (scanKeys pressed keys).2 =
    (List.range keys.length).filter (fun i => pressed.getLsbD i && (match keys[i]? with
      | some k => !k.latched && k.run == 2
      | none => false)) := by
  refine List.filter_congr fun i hi => ?_
  have hlt : i < keys.length := List.mem_range.1 hi
  rw [List.getD_eq_getElem?_getD, List.getElem?_mapIdx, List.getElem?_eq_getElem hlt]
  exact sampleKey_event _ _

/-- Settles O44: each key after its sample is `sampleKey_after`, and the keys that make an event are `scanKeys_events`. -/
theorem keyScanMakesEvents : Obligations.KeyScanMakesEvents := by
  intro pressed s hl after fires
  have hkeys : (scanKeys pressed s.sort.keys).1 = s.sort.keys.mapIdx after := by
    rw [scanKeys_keys]
    exact congrArg (List.mapIdx · s.sort.keys) (funext fun i => funext fun k => sampleKey_after _ k)
  have hevents : (scanKeys pressed s.sort.keys).2 = (List.range s.sort.keys.length).filter fires := scanKeys_events _ _
  refine answers_act hl rfl ?_
  dsimp only
  rw [← hkeys, ← hevents]
  rfl

/-! ## Key events (R160) -/

theorem keyEvent_reject (s : State) : keyEvent 0 s = { s with sort.rejectCount := 0, sort.rejectFull := false } := rfl

variable {b : Nat}

theorem keyEvent_free (hb : b ≠ 0) (h : (getBin s b).state = .free) : keyEvent b s = s := by
  simp only [keyEvent, if_neg hb, h]

theorem keyEvent_ready (hb : b ≠ 0) (h : (getBin s b).state = .ready) : keyEvent b s = setBin b Bin.empty s := by
  simp only [keyEvent, if_neg hb, h]

theorem keyEvent_disturbs (hb : b ≠ 0) (h : (getBin s b).state = .reserved ∨ (getBin s b).state = .filling) :
    keyEvent b s = raiseAttention (setBin b { getBin s b with state := .attention, disturbed := true } s) := by
  rcases h with h | h <;> simp only [keyEvent, if_neg hb, h]

theorem keyEvent_attention (hb : b ≠ 0) (h : (getBin s b).state = .attention) : keyEvent b s =
    if (getBin s b).live then setBin b { getBin s b with state := if 0 < (getBin s b).good then .filling else .reserved } s
    else setBin b Bin.empty s := by
  simp only [keyEvent, if_neg hb, h]

/-- Settles O45: the rows of R160's table are the states of the bin. -/
theorem keyEventsActOnBinState : Obligations.KeyEventsActOnBinState := by
  intro b s _ _ r t becomes free
  refine ⟨fun h0 => ?_, fun h0 => ⟨keyEvent_free h0, keyEvent_ready h0, keyEvent_disturbs h0, fun h hl => ?_,
    fun h hl hg => ?_, fun h hl hg => ?_⟩⟩
  · subst h0
    exact keyEvent_reject s
  · exact (keyEvent_attention h0 h).trans (if_neg (by simp [r, hl]))
  · refine (keyEvent_attention h0 h).trans ((if_pos hl).trans ?_)
    rw [if_pos hg]
    rfl
  · refine (keyEvent_attention h0 h).trans ((if_pos hl).trans ?_)
    rw [if_neg (Nat.not_lt.2 hg.le)]
    rfl

end Sys2Proof.Machine
end

section
/-! The price of an order: its unit prices, its stages from the stored values of the stages before them, and where a stage
saturates (R166 to R173). -/

open Sys2Proof Sys2Proof.Machine

namespace Sys2Proof.Machine

/-! ## The unit price (R167) -/

section
variable (q : Nat)

theorem breakPriceOf_append (l m : List Break) (price : Nat) :
    breakPriceOf q (l ++ m) price = breakPriceOf q m (breakPriceOf q l price) := by
  induction l generalizing price with
  | nil => rfl
  | cons b l ih => exact ih _

theorem breakPriceOf_of_lt {l : List Break} (h : ∀ c ∈ l, q < c.minimum) (price : Nat) : breakPriceOf q l price = price := by
  induction l with
  | nil => rfl
  | cons b l ih =>
    obtain ⟨hb, hl⟩ := List.forall_mem_cons.1 h
    rw [breakPriceOf, if_neg (Nat.not_le.2 hb), ih hl]

/-- The highest-indexed break whose minimum is met sets the price, whatever those before it say. -/
theorem breakPriceOf_split (before : List Break) {b : Break} {after : List Break} (hb : b.minimum ≤ q)
    (h : ∀ c ∈ after, q < c.minimum) (price : Nat) : breakPriceOf q (before ++ b :: after) price = b.price := by
  rw [breakPriceOf_append, breakPriceOf, if_pos hb, breakPriceOf_of_lt q h]

end

/-! ## Rounding (R169) -/

/-- At most 10,000 basis points of an amount, rounded half up, are at most the amount. -/
theorem roundBp_le {bp : Nat} (n : Nat) (h : bp ≤ 10000) : roundBp (n * bp) ≤ n := by
  have : n * bp ≤ n * 10000 := Nat.mul_le_mul_left n h
  unfold roundBp
  omega

/-! ## The stages (R168 to R173) -/

section
variable (x : Setup) (rush : Bool) (cls : Nat) (count : Entry → Nat) (es : List Entry)

/-- The line amount of a product before it is stored (R168). -/
def exactLine (p : Nat) : Nat := quantity count es p * unitPrice (getProduct x p) (quantity count es p)

theorem held_fst (n : Nat) : (held n).1 = min n 99999999 := rfl

theorem held_snd (n : Nat) : (held n).2 = decide (99999999 < n) := rfl

theorem lineAmount_eq_held : lineAmount x count es = held ∘ exactLine x count es := rfl

theorem map_lineAmount_fst (ps : List Nat) : (ps.map (lineAmount x count es)).map (·.1)
    = (ps.map (exactLine x count es)).map (min · 99999999) := by
  simp only [lineAmount_eq_held, List.map_map, Function.comp_def, held_fst]

theorem any_lineAmount_snd (ps : List Nat) : (ps.map (lineAmount x count es)).any (·.2)
    = (ps.map (exactLine x count es)).any (fun a => decide (99999999 < a)) := by
  simp only [lineAmount_eq_held, List.any_map, Function.comp_def, held_snd]

/-- The subtotal is of the line amounts as they are stored (R168). -/
theorem priceOf_subtotal : (priceOf x rush cls count es).subtotal
    = min (((List.range 32).map (exactLine x count es)).map (min · 99999999)).sum 99999999 := by
  rw [← map_lineAmount_fst, ← held_fst]
  dsimp only [priceOf]

theorem priceOf_discount : let p := priceOf x rush cls count es
    p.discount = roundBp (p.subtotal * x.discounts.getD cls 0) := by
  dsimp only [priceOf]

theorem priceOf_rush : let p := priceOf x rush cls count es
    p.rush = if rush = true then roundBp ((p.subtotal - p.discount) * x.rushSurcharge) else 0 := by
  dsimp only [priceOf]

theorem priceOf_fee : (priceOf x rush cls count es).fee
    = if 0 < ((List.range 32).map (quantity count es)).sum then x.handlingFee else 0 := by
  dsimp only [priceOf]

theorem priceOf_net : let p := priceOf x rush cls count es
    p.net = min (p.subtotal - p.discount + p.rush + p.fee) 99999999 := by
  dsimp only [priceOf, held_fst]

theorem priceOf_tax : let p := priceOf x rush cls count es
    p.tax = roundBp (p.net * x.taxRate) := by
  dsimp only [priceOf]

theorem priceOf_total : let p := priceOf x rush cls count es
    p.total = min (p.net + p.tax) 99999999 := by
  dsimp only [priceOf, held_fst]

/-- The four stages that can saturate are the lines, the subtotal, the net and the total (R173). -/
theorem priceOf_saturated : let p := priceOf x rush cls count es
    let lines := (List.range 32).map (lineAmount x count es)
    p.saturated = (lines.any (·.2) || (held (lines.map (·.1)).sum).2
      || (held (p.subtotal - p.discount + p.rush + p.fee)).2 || (held (p.net + p.tax)).2) := by
  dsimp only [priceOf]

theorem priceOf_saturated_iff : let p := priceOf x rush cls count es
    let lines := (List.range 32).map (exactLine x count es)
    p.saturated = true ↔ (∃ a ∈ lines, 99999999 < a) ∨ 99999999 < (lines.map (min · 99999999)).sum
      ∨ 99999999 < p.subtotal - p.discount + p.rush + p.fee ∨ 99999999 < p.net + p.tax := by
  intro p lines
  rw [priceOf_saturated, any_lineAmount_snd, map_lineAmount_fst]
  simp only [held_snd, Bool.or_eq_true, List.any_eq_true, decide_eq_true_eq, or_assoc, p, lines]

/-- With no saturation, subtotal, discount and the rest add up, the discount not above the subtotal (R172, R173). -/
theorem priceOf_exact : let p := priceOf x rush cls count es
    p.discount ≤ p.subtotal → p.saturated = false →
      p.net + p.discount = p.subtotal + p.rush + p.fee ∧ p.total = p.net + p.tax := by
  intro p hd hs
  have unsaturated := mt (priceOf_saturated_iff x rush cls count es).2 (Bool.eq_false_iff.1 hs)
  obtain ⟨-, -, hnet, htotal⟩ : _ ∧ _ ∧ _ ∧ _ := by simpa only [not_or] using unsaturated
  have net : p.net = p.subtotal - p.discount + p.rush + p.fee :=
    (priceOf_net x rush cls count es).trans (Nat.min_eq_left (Nat.not_lt.1 hnet))
  have total : p.total = p.net + p.tax :=
    (priceOf_total x rush cls count es).trans (Nat.min_eq_left (Nat.not_lt.1 htotal))
  exact ⟨by omega, total⟩

end

/-! ## The bounds that the ranges of the setup store give (R169 to R172) -/

section
variable {x : Setup} (hx : SetupSound x) (rush : Bool) (cls : Nat) (count : Entry → Nat) (es : List Entry)
include hx

theorem SetupSound.discount_le : x.discounts.getD cls 0 ≤ 5000 := by
  rw [List.getD_eq_getElem?_getD]
  cases h : x.discounts[cls]? with
  | none => exact Nat.zero_le _
  | some d => exact hx.discounts d (List.mem_of_getElem? h)

theorem priceOf_discount_le : let p := priceOf x rush cls count es
    p.discount ≤ p.subtotal := by
  intro p
  rw [priceOf_discount]
  exact roundBp_le _ ((hx.discount_le cls).trans (by decide))

theorem priceOf_rush_le : let p := priceOf x rush cls count es
    p.rush ≤ p.subtotal - p.discount := by
  intro p
  rw [priceOf_rush]
  split
  · exact roundBp_le _ hx.rush
  · exact Nat.zero_le _

theorem priceOf_fee_le : (priceOf x rush cls count es).fee ≤ 99999 := by
  rw [priceOf_fee]
  split
  · exact hx.fee
  · exact Nat.zero_le _

theorem priceOf_tax_le : let p := priceOf x rush cls count es
    p.tax ≤ p.net := by
  intro p
  rw [priceOf_tax]
  exact roundBp_le _ (hx.tax.trans (by decide))

end

/-- Settles O53: an equation for each stage, the stages that saturate, the bounds that the ranges of the setup store give,
and the unit price by where the last break that qualifies stands in the list. -/
theorem priceFormedInStages : Obligations.PriceFormedInStages := by
  intro x rush cls count es p q half lines anyProduct
  have subtotal : p.subtotal = min (lines.map (min · 99999999)).sum 99999999 := priceOf_subtotal x rush cls count es
  have net : p.net = min (p.subtotal - p.discount + p.rush + p.fee) 99999999 := priceOf_net x rush cls count es
  refine ⟨subtotal, priceOf_discount x rush cls count es, priceOf_rush x rush cls count es, priceOf_fee x rush cls count es,
    net, priceOf_tax x rush cls count es, priceOf_total x rush cls count es, rfl, rfl,
    priceOf_saturated_iff x rush cls count es, fun hx => ?_, fun r n => ⟨fun before b after hr hb h => ?_, fun h => ?_⟩⟩
  · have discount : p.discount ≤ p.subtotal := priceOf_discount_le hx rush cls count es
    have rushed : p.rush ≤ p.subtotal - p.discount := priceOf_rush_le hx rush cls count es
    have fee : p.fee ≤ 99999 := priceOf_fee_le hx rush cls count es
    have tax : p.tax ≤ p.net := priceOf_tax_le hx rush cls count es
    exact ⟨discount, by omega, fee, by omega, priceOf_exact x rush cls count es discount⟩
  · rw [unitPrice, hr, breakPriceOf_split n before hb h]
  · exact breakPriceOf_of_lt n h _

end Sys2Proof.Machine
end

section
/-! The three resets, HALTED and the held reset line, GO, STOP and the web clear report (R180, R181, R184, R187 to R191). -/

open Sys2Proof Sys2Proof.Machine

namespace Sys2Proof.Machine

set_option Elab.async false

variable {s : State}

/-! ## What a reset keeps and sets (R30, R164, R189 to R191) -/

/-- A load that a reset or the entry into HALTED cuts off leaves the store INVALID, and nothing else of it changes (R30). -/
theorem cutLoad_eq (x : Setup) : cutLoad x =
    { x with cursor := none, state := if x.state = .loading then .invalid else x.state } := by
  unfold cutLoad
  split <;> rfl

theorem softResetBin_eq (r : Bin) : softResetBin r =
    { r with live := false, state := if r.state = .free then .free else .attention } := by
  obtain ⟨state, owner, isLive, good, misroutes, disturbed⟩ := r
  unfold softResetBin
  by_cases h : state = .free
  · subst h; rfl
  · simp only [h, if_false]

theorem holdOfSupply_eq (stable : Bool) (h : ResetHold) : holdOfSupply stable h =
    let line := h == .pin || h == .powerOn || h == .supplyLine
    if stable then (if line then .powerOn else .released) else if line then .supplyLine else .supply := by
  cases h <;> cases stable <;> rfl

theorem holdOfAssert_eq (h : ResetHold) : holdOfAssert h =
    let unstable := h == .supply || h == .supplyLine
    if unstable then .supplyLine else if unstable || h == .powerOn then .powerOn else .pin := by
  cases h <;> rfl

theorem holdOfRelease_eq (h : ResetHold) :
    holdOfRelease h = if h == .supply || h == .supplyLine then .supply else .released := by
  cases h <;> rfl

theorem kindOfPin_eq (h : ResetHold) :
    kindOfPin h = if h == .supply || h == .supplyLine || h == .powerOn then .power else .pin := by
  cases h <;> rfl

/-- Settles O5: what holds the part after each command is read off what held it before; every other value is by definition. -/
theorem powerOnAndPinResetValues : Obligations.PowerOnAndPinResetValues := by
  intro s unstable line within powered kept
  have hpin (hold : ResetHold) : { pinValues s with eng.hold := hold } = kept hold := by
    simp only [pinValues, cutLoad_eq, kindOfPin_eq]
    rfl
  refine ⟨congrArg Host.Outcome.next ?_, congrArg Host.Outcome.next ?_, congrArg Host.Outcome.next ?_,
    congrArg Host.Outcome.next ?_⟩
  · rw [powerOn, holdOfSupply_eq]; rfl
  · rw [powerOn, holdOfSupply_eq]; rfl
  · rw [assertReset, holdOfAssert_eq, hpin]
  · rw [releaseReset, holdOfRelease_eq, hpin]

/-- The cell poll timer as it is loaded on entering STOPPED or PAUSED, and after a reset (R8). -/
theorem pollTimer_eq (s : State) : pollTimer s = { s with intake.timer := pollLoaded s } := by
  unfold pollTimer pollLoaded
  split <;> rfl

/-- LOW of both magazines with no order in the table: each loaded magazine compared with 400 (R36, R190). -/
theorem evalLow_empty (h : s.plan = Planner.reset) : ∃ (c : Bool) (l : List Nat), evalLow s =
    { s with
      paper.magA.low := s.paper.magA.loaded && decide (s.paper.magA.remaining < 400)
      paper.magB.low := s.paper.magB.loaded && decide (s.paper.magB.remaining < 400)
      link.causes.attention := c, link.dirty := l } := by
  obtain ⟨c, l, ha⟩ := evalLowOf_empty .a s h
  obtain ⟨c', l', hb⟩ := evalLowOf_empty .b (evalLowOf .a s) (by rw [ha]; exact h)
  refine ⟨c', l', ?_⟩
  rw [evalLow, hb, ha]
  rfl

/-- The values of a soft reset with LOW compared and the timer loaded; no cause is left of the comparison (R32, R190). -/
theorem softReset_eq (s : State) : softReset s = writeBlock
    { softValues s with
      paper.magA.low := s.paper.magA.loaded && decide (s.paper.magA.remaining < 400)
      paper.magB.low := s.paper.magB.loaded && decide (s.paper.magB.remaining < 400)
      intake.timer := pollLoaded (softValues s) } := by
  obtain ⟨c, l, hlow⟩ := evalLow_empty (s := softValues s) rfl
  rw [softReset, hlow, pollTimer_eq]
  rfl

/-- Settles O6: the values by `softReset_eq`, and the block is written of the state they make. -/
theorem softResetValues : Obligations.SoftResetValues := by
  intro s hl
  refine ⟨softReset s, congrArg Host.Outcome.next (if_pos hl), ?_, ?_⟩ <;>
    rw [softReset_eq, writeBlock, foldl_writeField]
  · simp only [softValues, cutLoad_eq, funext softResetBin_eq, pollLoaded]
    rfl
  · rfl

/-- Settles O60: each sense by what was shown of the states after a reset. -/
theorem resetStateIsSound : Obligations.ResetStateIsSound := by
  have hempty {o : Order} (ho : some o ∈ State.reset.plan.table) : False := by
    simp [State.reset, Planner.reset] at ho
  have hcommands : CommandsSound State.reset := ⟨fun c hc => (nomatch hc), fun w slot d hw => (nomatch hw)⟩
  have hdistinct : SlotsDistinct State.reset :=
    ⟨rfl, by decide, fun w hw => (nomatch hw), fun w hw => (nomatch hw), fun w hw => (nomatch hw), fun w hw => (nomatch hw)⟩
  obtain ⟨hengine, hlight⟩ : EngineLight State.reset := powerOn_engineLight true State.reset
  exact ⟨rfl, rfl, ⟨fun o ho => (hempty ho).elim, by decide, hcommands⟩, hdistinct, bounded_reset, setupSound_reset, hengine,
    hlight, accessSound_idle rfl rfl (fun o ho => (hempty ho).elim) rfl rfl (by decide) hcommands.pending⟩

/-! ## A part that takes no events (R187 to R189) -/

theorem act_notLive (h : live s = false) (room : Option Nat) (f : State → State) : act room f s = clearOut s :=
  if_neg (by simp [h])

theorem actPin_notLive (h : live s = false) (level f : State → State) : actPin level f s = level (clearOut s) :=
  if_neg (by simp [h])

/-- Settles O7: the commands of an input line take its level; every other one is taken as `act`, which changes nothing. -/
theorem notLiveTakesNothing : Obligations.NotLiveTakesNothing := by
  intro c s hl hread hpower hpin hline
  have hact (room : Option Nat) (f : State → State) : Host.Outcome.next (act room f s) = (.next (clearOut s) : Result) :=
    congrArg Host.Outcome.next (act_notLive hl room f)
  have hlevel (level f : State → State) : Host.Outcome.next (actPin level f s) = (.next (level (clearOut s)) : Result) :=
    congrArg Host.Outcome.next (actPin_notLive hl level f)
  cases c
  case statusRead => exact absurd rfl hread
  case powerOnReset stable => exact absurd rfl (hpower stable)
  case pinReset => exact absurd rfl hpin
  case resetLineAsserted => exact absurd rfl hline
  case softReset => exact congrArg Host.Outcome.next (if_neg (by simp [hl]))
  case presentSensorInactive => exact hlevel _ _
  case presentSensorActive => exact hlevel _ _
  case webReadyRise => exact hlevel _ _
  case webReadyFall => exact hlevel _ _
  case knifeHomeSensor => exact hlevel _ _
  case jamSensorActive => exact hlevel _ _
  all_goals exact hact _ _

/-- A write-through of a part that takes no events puts nothing out (R188). -/
theorem publish_notLive {t : State} (h : live t = false) (before : State) :
    publish before t = { t with link.dirty := [] } := by
  simp only [publish, h, Bool.and_false, if_neg Bool.false_ne_true]

/-- Settles O8: the entry into HALTED leaves nothing waiting, no sweep and no field marked, so the step adds nothing to it. -/
theorem statusBlockWriteErrorHalts : Obligations.StatusBlockWriteErrorHalts := by
  intro s hl
  refine ⟨answers_act hl rfl rfl, ?_⟩
  have hidle : progress none (enterHalted (clearOut s)) = enterHalted (clearOut s) :=
    progress_idle (fun w (hw : none = some w) => nomatch hw) rfl none
  refine (answers_act hl rfl rfl).trans ?_
  dsimp only
  rw [if_neg Bool.false_ne_true, hidle, publish_notLive rfl, enterHalted]
  simp only [cutLoad_eq]
  rfl

/-! ## GO, STOP and the web clear report (R180, R181, R184) -/

/-- Settles O12: GO enters RUNNING, by the levels of WEB_READY and of the jam sensor. -/
theorem goTakenEntersRunning : Obligations.GoTaken := by
  intro s hl hs hv ha
  have hg : goTaken (clearOut s) = true := by simp [goTaken, hs, hv, ha]
  obtain ⟨hlow, hready, hjam⟩ := enterRunning_cases s
  exact ⟨fun h => answers_act hl rfl ((if_pos hg).trans (hlow h)),
    fun h => answers_act hl rfl ((if_pos hg).trans (hready h)), answers_act hl rfl ((if_pos hg).trans hjam)⟩

theorem clearReport_clear (hs : s.eng.state = .stopping) (h : ∀ e ∈ s.web.map, e.piece = .gap) :
    clearReport s = stoppedEntered s := (clearReport_eq s).trans (if_pos ⟨hs, h⟩)

theorem clearReport_none (h : s.eng.state ≠ .stopping ∨ ∃ e ∈ s.web.map, e.piece ≠ .gap) : clearReport s = s := by
  refine (clearReport_eq s).trans (if_neg ?_)
  rintro ⟨hs, hgap⟩
  obtain h | ⟨e, he, h⟩ := h
  · exact h hs
  · exact h (hgap e he)

/-- Settles O13: STOP by the engine state, and the web clear report by what the map holds (`clearReport_eq`). -/
theorem stopAndWebClear : Obligations.StopAndWebClear := by
  refine ⟨fun s hl => ?_, fun s hl => ⟨fun hs h => ?_, fun h => ?_⟩⟩
  · intro stopping
    have hstop (hs : s.eng.state = .running) : stopEngine (clearOut s) = clearReport stopping := by
      simp only [stopEngine, show (clearOut s).eng.state = .running from hs]
      rfl
    refine ⟨fun hs => ⟨fun h => ?_, fun h => ?_⟩, fun hs => ?_⟩
    · exact answers_act hl rfl ((hstop hs).trans (clearReport_clear rfl h))
    · exact answers_act hl rfl ((hstop hs).trans (clearReport_none (.inr h)))
    · refine answers_act hl rfl ?_
      simp only [stopEngine, show (clearOut s).eng.state = .paused from hs, enterStopped_eq]
  · exact answers_act hl rfl (clearReport_clear (s := clearOut s) hs h)
  · exact answers_act hl rfl (clearReport_none (s := clearOut s) h)

end Sys2Proof.Machine
end

section
/-! Fault reports, and stoppages: the pause of a moving engine block by block (R128, R182, R183, R185). -/

open Sys2Proof Sys2Proof.Machine

namespace Sys2Proof.Machine

set_option Elab.async false

variable {s : State}

/-! ## Fault reports (R185) -/

theorem recordFault_first (kind : FaultKind) (slot : Nat) (addr : Long) (h : s.link.causes.fault = false) :
    recordFault kind slot addr s =
      { s with eng.record := { kind := kind, slot := slot, addr := addr }, link.causes.fault := true
               link.dirty := s.link.dirty ++ [0x190, 0x191, 0x198] } := if_neg (by simp [h])

theorem recordFault_again (kind : FaultKind) (slot : Nat) (addr : Long) (h : s.link.causes.fault = true) :
    recordFault kind slot addr s =
      { s with eng.overflow := min (s.eng.overflow + 1) 4294967295, link.dirty := s.link.dirty ++ [0x1A0] } := if_pos h

theorem recordFault_raiseAttention (kind : FaultKind) (slot : Nat) (addr : Long) (s : State) :
    recordFault kind slot addr (raiseAttention s) = raiseAttention (recordFault kind slot addr s) := by
  cases h : s.link.causes.fault with
  | false => rw [recordFault_first kind slot addr h, recordFault_first (s := raiseAttention s) kind slot addr h]; rfl
  | true => rw [recordFault_again kind slot addr h, recordFault_again (s := raiseAttention s) kind slot addr h]; rfl

/-! ## What the settling of frames does not read

The jam spoils of a pause are settled while the sweep is already barred and the write of the engine state already due. None
of the operations on orders reads either, so they commute with both. -/

/-- The same state with another sweep, and with these fields marked before its own. -/
def sweptAndMarked (x : Option Sweep) (d : List Nat) (s : State) : State :=
  { s with intake.sweep := x, link.dirty := d ++ s.link.dirty }

section
variable (x : Option Sweep) (d : List Nat) (s : State)

theorem getOrder_sweptAndMarked (i : Nat) : getOrder (sweptAndMarked x d s) i = getOrder s i := rfl

theorem getBin_sweptAndMarked (b : Nat) : getBin (sweptAndMarked x d s) b = getBin s b := rfl

theorem putOrder_sweptAndMarked (i : Nat) (o : Option Order) :
    putOrder i o (sweptAndMarked x d s) = sweptAndMarked x d (putOrder i o s) := rfl

theorem setBin_sweptAndMarked (b : Nat) (r : Bin) :
    setBin b r (sweptAndMarked x d s) = sweptAndMarked x d (setBin b r s) := rfl

theorem raiseAttention_sweptAndMarked :
    raiseAttention (sweptAndMarked x d s) = sweptAndMarked x d (raiseAttention s) := rfl

theorem markFields_sweptAndMarked (l : List Nat) :
    markFields l (sweptAndMarked x d s) = sweptAndMarked x d (markFields l s) := by
  simp only [markFields, sweptAndMarked, List.append_assoc]

theorem evalLowOf_sweptAndMarked (m : Mag) :
    evalLowOf m (sweptAndMarked x d s) = sweptAndMarked x d (evalLowOf m s) := by
  rw [evalLowOf_eq, evalLowOf_eq]
  cases m <;> simp only [sweptAndMarked, List.append_assoc] <;> rfl

theorem evalLow_sweptAndMarked : evalLow (sweptAndMarked x d s) = sweptAndMarked x d (evalLow s) := by
  simp only [evalLow, evalLowOf_sweptAndMarked]

theorem freeOrder_sweptAndMarked (i : Nat) : freeOrder i (sweptAndMarked x d s) = sweptAndMarked x d (freeOrder i s) :=
  evalLow_sweptAndMarked x d { putOrder i none s with plan.queue := s.plan.queue.filter (fun j => j != i) }

theorem enterState_sweptAndMarked (i : Nat) (o : Order) (st : OrderState) :
    enterState i o st (sweptAndMarked x d s) = sweptAndMarked x d (enterState i o st s) := by
  unfold enterState writeMirror
  split <;> rfl

theorem writeResult_sweptAndMarked (o : Order) (i : Nat) :
    writeResult o i (sweptAndMarked x d s) = sweptAndMarked x d (writeResult o i s) := by
  unfold writeResult
  split
  · split <;> rfl
  · rfl

theorem countRemake_sweptAndMarked (how : Settle) :
    countRemake how (sweptAndMarked x d s) = sweptAndMarked x d (countRemake how s) := by
  cases how <;> rfl

theorem attendBin_sweptAndMarked (b : Nat) : attendBin b (sweptAndMarked x d s) = sweptAndMarked x d (attendBin b s) := by
  unfold attendBin
  rw [getBin_sweptAndMarked, apply_ite (sweptAndMarked x d)]
  rfl

theorem completeBin_sweptAndMarked (cancelled : Bool) (b : Nat) :
    completeBin cancelled (sweptAndMarked x d s) b = sweptAndMarked x d (completeBin cancelled s b) := by
  unfold completeBin
  rw [getBin_sweptAndMarked]
  simp only [setBin_sweptAndMarked, markFields_sweptAndMarked, attendBin_sweptAndMarked, raiseAttention_sweptAndMarked,
    ← apply_ite (sweptAndMarked x d)]

theorem completionReport_sweptAndMarked (bins : List Nat) (cancelled : Bool) :
    completionReport bins cancelled (sweptAndMarked x d s) = sweptAndMarked x d (completionReport bins cancelled s) :=
  List.foldl_hom (sweptAndMarked x d) fun t b => completeBin_sweptAndMarked x d t cancelled b

theorem completeOrder_sweptAndMarked (i : Nat) (o : Order) :
    completeOrder i o (sweptAndMarked x d s) = sweptAndMarked x d (completeOrder i o s) := by
  simp only [completeOrder, enterState_sweptAndMarked, completionReport_sweptAndMarked, freeOrder_sweptAndMarked,
    ← apply_ite (sweptAndMarked x d)]

theorem evalOrder_sweptAndMarked (i : Nat) : evalOrder i (sweptAndMarked x d s) = sweptAndMarked x d (evalOrder i s) := by
  unfold evalOrder
  rw [getOrder_sweptAndMarked]
  split
  · rfl
  · simp only [completeOrder_sweptAndMarked, enterState_sweptAndMarked, ← apply_ite (sweptAndMarked x d)]

theorem settleFrame_sweptAndMarked (how : Settle) (i ei : Nat) (n : Word) :
    settleFrame how i ei n (sweptAndMarked x d s) = sweptAndMarked x d (settleFrame how i ei n s) := by
  have hlimit : (sweptAndMarked x d s).setup = s.setup := rfl
  unfold settleFrame
  rw [getOrder_sweptAndMarked]
  split
  · rfl
  · simp only [hlimit, putOrder_sweptAndMarked, countRemake_sweptAndMarked, writeResult_sweptAndMarked,
      evalLow_sweptAndMarked, evalOrder_sweptAndMarked, ← apply_ite (sweptAndMarked x d)]

theorem spoilReport_sweptAndMarked (e : MapEntry) :
    spoilReport (sweptAndMarked x d s) e = sweptAndMarked x d (spoilReport s e) := by
  unfold spoilReport
  split
  · split
    · rfl
    · exact settleFrame_sweptAndMarked x d s _ _ _ _
  · rfl

theorem foldl_spoilReport_sweptAndMarked (l : List MapEntry) :
    l.foldl spoilReport (sweptAndMarked x d s) = sweptAndMarked x d (l.foldl spoilReport s) :=
  List.foldl_hom (sweptAndMarked x d) fun t e => spoilReport_sweptAndMarked x d t e

end

/-! ## The pause (R41, R78, R98, R108, R112, R128, R144, R183) -/

/-- The waste with the paper behind the head counted in (R128). -/
def wasteCounted (s : State) : Word :=
  match s.web.map with
  | [] => s.web.waste
  | e :: _ => s.web.waste + (s.line.w - e.start)

theorem wasteBehind_eq (s : State) : wasteBehind s = { s with web.waste := wasteCounted s } := by
  unfold wasteCounted
  cases hm : s.web.map with
  | nil => exact wasteBehind_nil hm
  | cons e rest => exact wasteBehind_cons hm

/-- The state with every entry of its map SPOILED. -/
def allSpoiled (s : State) : State :=
  { s with web.map := s.web.map.map fun e => { e with flags.spoiled := true } }

/-- The jam spoils of every GOOD frame, the oldest first (R55, R128). -/
def jamSpoiled (s : State) : State := (allSpoiled s).web.map.foldl spoilReport (allSpoiled s)

theorem jamSpoiled_keeps {γ : Type} (p : State → γ) (h : ∀ (how : Settle) i e n s, p (settleFrame how i e n s) = p s)
    (s : State) : p (jamSpoiled s) = p (allSpoiled s) := foldl_spoil_keep p h _ _

theorem jamSpoiled_sweptAndMarked (x : Option Sweep) (d : List Nat) (s : State) :
    jamSpoiled (sweptAndMarked x d s) = sweptAndMarked x d (jamSpoiled s) :=
  foldl_spoilReport_sweptAndMarked x d (allSpoiled s) _

/-- The paper behind the head is counted from the oldest entry, which the jam spoils leave where it starts. -/
theorem wasteCounted_jamSpoiled (s : State) : wasteCounted (jamSpoiled s) = wasteCounted s := by
  have hweb : (jamSpoiled s).web = (allSpoiled s).web := jamSpoiled_keeps State.web (by simp) s
  have hline : (jamSpoiled s).line = s.line := jamSpoiled_keeps State.line (by simp) s
  unfold wasteCounted
  rw [hweb, hline]
  cases hm : s.web.map <;> simp only [allSpoiled, hm] <;> rfl

/-- The spoil of a pause beside its reports: the waste, the count, and the map emptied (R126, R128). -/
theorem spoilMap_eq (s : State) : ∃ l, spoilMap s =
    { jamSpoiled s with
      web := { s.web with map := [], hold := none, spoils := s.web.spoils + 1, waste := wasteCounted s }
      link.dirty := (jamSpoiled s).link.dirty ++ l } := by
  have hweb : (jamSpoiled s).web = (allSpoiled s).web := jamSpoiled_keeps State.web (by simp) s
  obtain ⟨u, hu⟩ : ∃ u : State, u = { wasteBehind (jamSpoiled s) with
      web.spoils := (wasteBehind (jamSpoiled s)).web.spoils + 1 } := ⟨_, rfl⟩
  have hspoil : spoilMap s = emptyMap u := by rw [hu]; rfl
  refine ⟨if suspectCount u = 0 then [] else [0x178], ?_⟩
  rw [hspoil, emptyMap, hu, wasteBehind_eq, wasteCounted_jamSpoiled]
  simp only [markFields, hweb]
  rfl

/-- The causes stand through the jam spoils once ATTENTION is set (R23, R183). -/
theorem jamSpoiled_causes (h : s.link.causes.attention = true) : (jamSpoiled s).link.causes = s.link.causes := by
  refine att_foldl (C := s.link.causes) spoilReport (fun t e ht => ?_) _ (s := allSpoiled s) rfl
  unfold spoilReport
  split
  · split
    · exact ht
    · exact att_settle h _ _ _ _ ht
  · exact ht

/-- The state in which the jam spoils of a pause are settled, its marks apart. -/
def pausing (s : State) : State := jamSpoiled { s with eng.state := .paused, link.dirty := [] }

theorem pausing_keeps {γ : Type} (p : State → γ) (h : ∀ (how : Settle) i e n s, p (settleFrame how i e n s) = p s)
    (s : State) : p (pausing s) = p (allSpoiled { s with eng.state := .paused, link.dirty := [] }) := jamSpoiled_keeps p h _

/-- What a pause leaves of every block: the orders, the bins and LOW as the jam spoils leave them, and the rest from before. -/
theorem enterPaused_eq (s : State) : ∃ l, enterPaused s =
    { pausing s with
      link.dirty := s.link.dirty ++ 0x000 :: l
      intake := { s.intake with
        timer := pollLoaded s, sweep := s.intake.sweep.map (fun w => { w with candidates := [], barred := true }) }
      setup := s.setup
      paper.target := none, paper.timer := none
      plan.switchFlag := false
      fetch := { s.fetch with
        items := [], buffer := [], cursor := none, refill := false
        reads := s.fetch.reads.map (fun r => { r with discard := true }) }
      pulse := s.pulse
      line := { s.line with web := .idle, head := [], lineFrame := none, supervision := none, breakCount := 0 }
      supply := { s.supply with watching := false, settle := 0, strokeEnded := false }
      web := { s.web with map := [], hold := none, spoils := s.web.spoils + 1, waste := wasteCounted s }
      cut := { s.cut with cursor := none }
      eng := { s.eng with state := .paused }, out := s.out } := by
  have hstart : dropCandidates (setEngine .paused s) =
      sweptAndMarked (s.intake.sweep.map fun w => { w with candidates := [], barred := true }) (s.link.dirty ++ [0x000])
        { s with eng.state := .paused, link.dirty := [] } := by
    simp only [sweptAndMarked, List.append_nil]
    rfl
  have harea : (pausing s).link.areaSet = s.link.areaSet := pausing_keeps (fun s => s.link.areaSet) (by simp) s
  have hintake : (pausing s).intake = s.intake := pausing_keeps State.intake (by simp) s
  have hsetup : (pausing s).setup = s.setup := pausing_keeps State.setup (by simp) s
  have hfetch : (pausing s).fetch = s.fetch := pausing_keeps State.fetch (by simp) s
  have hpulse : (pausing s).pulse = s.pulse := pausing_keeps State.pulse (by simp) s
  have hline : (pausing s).line = s.line := pausing_keeps State.line (by simp) s
  have hsupply : (pausing s).supply = s.supply := pausing_keeps State.supply (by simp) s
  have hcut : (pausing s).cut = s.cut := pausing_keeps State.cut (by simp) s
  have heng : (pausing s).eng = { s.eng with state := .paused } := pausing_keeps State.eng (by simp) s
  have hout : (pausing s).out = s.out := pausing_keeps State.out (by simp) s
  have hv : jamSpoiled { s with eng.state := .paused, link.dirty := [] } = pausing s := rfl
  obtain ⟨l, hspoil⟩ := spoilMap_eq (dropCandidates (setEngine .paused s))
  refine ⟨(pausing s).link.dirty ++ l, ?_⟩
  unfold enterPaused
  rw [hspoil, hstart, jamSpoiled_sweptAndMarked, pollTimer_eq, hv]
  simp only [sweptAndMarked, pauseFetch, emptyFetch, endChange, endWatch, dropRun, pollLoaded, harea, hsetup, hintake, hfetch,
    hpulse, hline, hsupply, hcut, heng, hout, List.append_assoc, List.cons_append, List.nil_append]
  rfl

/-! ## Stoppages (R182) -/

theorem stoppage_moving (h : moving s = true) (kind : FaultKind) :
    stoppage kind s = enterPaused (raiseAttention (recordFault kind 255 (wAddress s) s)) := by
  rw [← recordFault_raiseAttention]
  unfold stoppage
  rcases (moving_iff s).1 h with h | h <;> rw [h]

theorem stoppage_still (h : s.eng.state = .stopped ∨ s.eng.state = .paused) (kind : FaultKind) :
    stoppage kind s = recordFault kind 255 (wAddress s) s := by
  unfold stoppage
  rcases h with h | h <;> rw [h]

theorem stoppage_halted (h : s.eng.state = .halted) (kind : FaultKind) : stoppage kind s = s := by
  unfold stoppage
  rw [h]

/-- Settles O15: the record by the FAULT cause; a pause by `enterPaused_eq`, whose jam spoils are those of the statement, since
they read neither the sweep nor the marks in which the two differ. -/
theorem faultsRecordedAndStoppagesPause : Obligations.FaultsRecordedAndStoppagesPause := by
  refine ⟨fun kind slot addr s => ⟨recordFault_first kind slot addr, recordFault_again kind slot addr⟩, fun kind s => ?_⟩
  intro addr
  refine ⟨fun hm => ?_, fun h => stoppage_still h kind, fun h => stoppage_halted h kind⟩
  intro t r begun spoiled
  obtain ⟨l, hpaused⟩ := enterPaused_eq (raiseAttention r)
  have ht : t = enterPaused (raiseAttention r) := stoppage_moving hm kind
  have hweb : r.web = s.web := by simp [r]
  have hspoiled : spoiled = sweptAndMarked r.intake.sweep r.link.dirty (pausing (raiseAttention r)) := by
    have hbegun : begun = allSpoiled { raiseAttention r with eng.state := .paused } := by
      simp only [begun, allSpoiled, ← hweb]
      rfl
    have hmarked : ({ raiseAttention r with eng.state := .paused } : State) = sweptAndMarked r.intake.sweep r.link.dirty
        { raiseAttention r with eng.state := .paused, link.dirty := [] } := by
      simp only [sweptAndMarked, List.append_nil]
      rfl
    change begun.web.map.foldl spoilReport begun = _
    rw [hbegun]
    change jamSpoiled _ = _
    rw [hmarked, jamSpoiled_sweptAndMarked]
    rfl
  have hcauses : (pausing (raiseAttention r)).link.causes = { r.link.causes with attention := true } := jamSpoiled_causes rfl
  have hline : r.line = s.line := by simp [r]
  have hfetch : r.fetch = s.fetch := by simp [r]
  have hsupply : r.supply = s.supply := by simp [r]
  have hcut : r.cut = s.cut := by simp [r]
  have hintake : r.intake = s.intake := by simp [r]
  have hpoll : pollLoaded (raiseAttention r) = pollLoaded s := by simp [pollLoaded, r]
  have hlane : (pausing (raiseAttention r)).sort.lane = s.sort.lane :=
    (pausing_keeps (fun s => s.sort.lane) (by simp) _).trans (by simp [allSpoiled, r])
  rw [ht, hpaused, hspoiled]
  refine ⟨rfl, ?_, by simp, ?_, rfl, rfl, hlane, ?_, ?_, ?_, rfl, rfl, ?_, ?_, by simp [r], by simp [r], by simp [r]⟩
  · rw [← hcauses]; rfl
  · rw [← hweb, ← hline]; rfl
  · rw [← hfetch]; rfl
  · rw [← hline]; rfl
  · rw [← hsupply]; rfl
  · rw [← hcut]; rfl
  · rw [← hpoll, ← hintake]; rfl

end Sys2Proof.Machine
end

section
/-! A failed slot write: the order of the slot detached or taken out, the slot given up where it has none, and what goes out in
that step (R18, R48, R156, R186, log entry 16). -/

open Sys2Proof Sys2Proof.Machine

namespace Sys2Proof.Machine

set_option Elab.async false

variable {s : State} {i : Nat} {o : Order}

/-! ## A detached order writes nothing (R18) -/

theorem writeMirror_detached (hd : o.detached = true) (s : State) : writeMirror o s = s := if_pos hd

theorem writeResult_detached (hd : o.detached = true) (k : Nat) (s : State) : writeResult o k s = s := by
  unfold writeResult
  split
  · exact if_pos hd
  · rfl

theorem writeCancelled_detached {p : Order} (hd : p.detached = true) (s : State) : writeCancelled o p s = s := by
  unfold writeCancelled
  refine foldl_keep id _ (fun t k => ?_) _ s
  split
  · split
    · exact writeResult_detached hd k t
    · rfl
  · rfl

theorem cancelOrder_detached (ho : getOrder s i = some o) (hd : o.detached = true) :
    cancelOrder i s = evalOrder i (evalLow (putOrder i (some (cancelledOrder o)) s)) := by
  have hd' : (cancelledOrder o).detached = true := hd
  unfold cancelOrder
  rw [ho]; dsimp only
  rw [writeMirror_detached hd', writeCancelled_detached hd']

/-! ## Detachment (R18, R48) -/

/-- The order at index i stands as p, its slot's writes given up and its detachment counted (R18). -/
def detachedAs (i : Nat) (p : Order) (s : State) : State :=
  { dropWrites p.slot s with intake.detached := s.intake.detached + 1, plan.table := s.plan.table.set i (some p) }

theorem getOrder_detachedAs (ho : getOrder s i = some o) (p : Order) : getOrder (detachedAs i p s) i = some p :=
  getOrder_set ho (some p) _ rfl

theorem putCancelled_detachedAs (p : Order) :
    putOrder i (some (cancelledOrder p)) (detachedAs i p s) = detachedAs i (cancelledOrder p) s := by
  simp only [putOrder, detachedAs, List.set_set]
  rfl

section
variable (ho : getOrder s i = some o) (hd : o.detached = false)
include ho hd

theorem detachOrder_eq : detachOrder i s =
    let u := detachedAs i { o with detached := true } s
    if o.state = .complete then freeOrder i u else if cancellable o then cancelOrder i u else evalLow u := by
  unfold detachOrder
  rw [ho]; dsimp only
  rw [if_neg (by simp [hd])]
  rfl

theorem detachOrder_complete (hc : o.state = .complete) :
    detachOrder i s = freeOrder i (detachedAs i { o with detached := true } s) :=
  (detachOrder_eq ho hd).trans (if_pos hc)

theorem detachOrder_cancelling (hk : o.state = .cancelling) :
    detachOrder i s = evalLow (detachedAs i { o with detached := true } s) := by
  rw [detachOrder_eq ho hd]; dsimp only
  rw [if_neg (by simp [hk]), if_neg (by simp [cancellable_iff, hk])]

section
variable (hc : o.state ≠ .complete) (hk : o.state ≠ .cancelling)
include hc hk

/-- An order that a detachment cancels is evaluated by its counts, with no write of it to the slot (R47, R48). -/
theorem detachOrder_cancels : detachOrder i s =
    evalOrder i (evalLow (detachedAs i (cancelledOrder { o with detached := true }) s)) := by
  rw [detachOrder_eq ho hd]; dsimp only
  rw [if_neg hc, if_pos ((cancellable_iff o).2 ⟨hk, hc⟩), cancelOrder_detached (getOrder_detachedAs ho _) rfl,
    putCancelled_detachedAs]

theorem detachOrder_inFlight (h : 0 < inFlight o) :
    detachOrder i s = evalLow (detachedAs i (cancelledOrder { o with detached := true }) s) := by
  rw [detachOrder_cancels ho hd hc hk]
  refine evalOrder_still (o := cancelledOrder { o with detached := true })
    ((getOrder_congr (by simp) i).trans (getOrder_detachedAs ho _)) ?_
  rw [stateOfCounts_cancelled]
  exact if_neg (Nat.pos_iff_ne_zero.1 h)

theorem detachOrder_allSettled (h : inFlight o = 0) : detachOrder i s =
    let gone := cancelledOrder { o with detached := true }
    freeOrder i (completionReport o.bins true
      (putOrder i (some { gone with state := .complete }) (evalLow (detachedAs i gone s)))) := by
  rw [detachOrder_cancels ho hd hc hk]
  have hget : getOrder (evalLow (detachedAs i (cancelledOrder { o with detached := true }) s)) i =
      some (cancelledOrder { o with detached := true }) := (getOrder_congr (by simp) i).trans (getOrder_detachedAs ho _)
  have hst : stateOfCounts (cancelledOrder { o with detached := true }) = .complete := by
    rw [stateOfCounts_cancelled]
    exact if_pos h
  unfold evalOrder
  rw [hget]; dsimp only
  rw [hst, if_neg (by simp [cancelledOrder]), if_pos rfl]
  rfl

end
end

/-! ## A failed write (R186) -/

theorem takenSlot_iff {slot : Nat} : takenSlot s slot = true ↔
    ∃ w d, s.intake.sweep = some w ∧ w.taken = some (slot, d) := by
  unfold takenSlot
  cases hw : s.intake.sweep with
  | none => simp
  | some w =>
    cases ht : w.taken with
    | none => simp [ht]
    | some x => simp [ht, Prod.ext_iff]

theorem failWrite_unheld {slot : Nat} (h : orderOfSlot s slot = none) (offset : Nat) : failWrite slot offset s =
    if takenSlot s slot then nextTake (clearTake s) else dropWrites slot s := by
  unfold failWrite
  rw [h]

section
variable {slot : Nat} (hi : orderOfSlot s slot = some i) (ho : getOrder s i = some o)
include hi ho

theorem failWrite_held (offset : Nat) : failWrite slot offset s =
    if offset = offToken ∧ o.bins = [] ∧ o.unsettled = [] ∧ o.detached = false then freeOrder i (dropWrites o.slot s)
    else detachOrder i s := by
  unfold failWrite failTaken
  rw [hi]; dsimp only
  rw [ho]; dsimp only
  by_cases h : offset = offToken
  · rw [if_pos h]
    simp only [h, true_and]
  · rw [if_neg h, if_neg fun hh => h hh.1]

/-- Neither way out for an order puts anything out, and both leave only the writes of other slots to wait (R18). -/
theorem failWrite_out (hd : o.detached = false) (offset : Nat) : (failWrite slot offset s).out = s.out
    ∧ (failWrite slot offset s).intake.sweep = s.intake.sweep
    ∧ (failWrite slot offset s).link.waiting = s.link.waiting.filter (fun x => x.slot != slot) := by
  have hslot : o.slot = slot := orderOfSlot_slot hi ho
  rw [failWrite_held hi ho]
  split
  · exact ⟨by simp, by simp, by simp [dropWrites, hslot]⟩
  · exact ⟨by simp, by simp, by rw [(detachOrder_spec ho hd).2.1, hslot]⟩

end

/-! ## What goes out in the step -/

/-- Whatever goes out of those that wait waited. -/
theorem mem_issueWaiting_out {out : Output} (h : out ∈ (issueWaiting none s).out) :
    out ∈ s.out ∨ ∃ x ∈ s.link.waiting, out = wroteSlot s x := by
  obtain ⟨due, hdue, hout⟩ : ∃ due : List SlotWrite, due ⊆ s.link.waiting ∧ (issueWaiting none s).out =
      s.out ++ (if s.link.areaSet then due.map (wroteSlot s) else []) := by
    by_cases hl : s.setup.state = .loading
    · refine ⟨_, List.filter_subset_self (p := fun w => !awaitsLoad s w.slot) _, ?_⟩
      rw [issueWaiting_loading none hl]
      exact issueList_out _ _ (le_refl _) s
    · exact ⟨_, List.Subset.refl _, issueWaiting_out hl⟩
  rw [hout] at h
  refine (List.mem_append.1 h).imp_right fun h => ?_
  split at h
  · obtain ⟨x, hx, rfl⟩ := List.mem_map.1 h
    exact ⟨x, hdue hx, rfl⟩
  · cases h

/-- A step with no take in progress that leaves only writes of other slots to wait puts out none to the slot's fields. -/
theorem no_write_to_slot {e : State} {slot : Nat} (ht : ∀ w, e.intake.sweep = some w → w.taken = none)
    (hout : e.out = []) (harea : e.link.area = s.link.area) (htop : s.link.area.toNat + 0x50000 ≤ 2 ^ 64) (hs : slot < 64)
    (hwait : ∀ x ∈ e.link.waiting, x.slot < 64 ∧ x.offset < 0x1000 ∧ x.slot ≠ slot) {k : Nat} (hk : k < 0x1000) (n v : Nat) :
    Output.write (jobAddr s (0x10000 + slot * 0x1000 + k)) n v ∉ (publish s (progress none e)).out := by
  have haddr (a : Nat) : jobAddr (progress none e) a = jobAddr s a := by simp [jobAddr, harea]
  intro hmem
  obtain hmem | ⟨x, hx, heq⟩ := mem_publish_out hmem
  · rw [progress, resumeTake_none ht] at hmem
    obtain hmem | ⟨x, hx, heq⟩ := mem_issueWaiting_out hmem
    · rw [hout] at hmem
      cases hmem
    · obtain ⟨hx1, hx2, hne⟩ := hwait x hx
      refine wroteSlot_ne htop hx1 hx2 hs hk hne (n := n) (v := v) ?_
      rw [heq, wroteSlot, wroteSlot, jobAddr, jobAddr, harea]
  · have hlow := statusField_low hx
    have hsame := (Output.write.inj heq).1
    rw [haddr] at hsame
    have := jobAddr_inj htop (by omega) (by omega) hsame
    omega

/-! ## The obligation -/

/-- Settles O22: the fault record touches neither the table nor what waits, so the order is found as it was before; then by
what stands in the slot (`failWrite_unheld`, `failWrite_held`) and by the state the order is detached from. -/
theorem slotWriteFaultDetaches : Obligations.SlotWriteFaultDetaches := by
  intro slot offset s hl f given fails
  have hplan : f.plan = s.plan := by simp [f]
  have hintake : f.intake = s.intake := by simp [f]
  have hwaiting : f.link.waiting = s.link.waiting := by simp [f]
  have hgiven : given = dropWrites slot f := by
    simp only [given, dropWrites, hwaiting]
  have hfails {e : State} (he : failWrite slot offset.toNat f = e) : fails e := answers_act hl rfl he
  have hslot : orderOfSlot f slot = orderOfSlot s slot := by rw [orderOfSlot, hplan]; rfl
  refine ⟨fun standing => ⟨_, rfl⟩, answers_act hl rfl rfl, answers_act hl rfl rfl, fun hn => ⟨fun hw => ?_, fun w d hw ht => ?_⟩,
    fun i o hi ho => ?_⟩
  · refine hfails ?_
    rw [failWrite_unheld (hslot.trans hn), if_neg, hgiven]
    rw [takenSlot_iff, hintake]
    rintro ⟨w, d, hw', ht⟩
    exact hw w slot d hw' ht rfl
  · refine hfails ?_
    rw [failWrite_unheld (hslot.trans hn), if_pos (takenSlot_iff.2 ⟨w, d, hintake ▸ hw, ht⟩)]
    unfold clearTake
    rw [hintake, hw]
  · intro without counted gone
    have hi' : orderOfSlot f slot = some i := hslot.trans hi
    have ho' : getOrder f i = some o := by rw [getOrder, hplan]; exact ho
    have hos : o.slot = slot := orderOfSlot_slot hi ho
    have hcounted (p : Order) (hp : p.slot = slot) : counted p = detachedAs i p f := by
      simp only [counted, hgiven, detachedAs, hp, hplan, hintake]
    have hzero : offset.toNat = offToken ↔ offset = 0 := by rw [← BitVec.toNat_inj]; rfl
    refine ⟨fun hd => ?_, fun hd h0 hb hu => ?_, fun hd h => ?_, fun hd ht htop hw => ?_⟩
    · refine hfails ?_
      rw [failWrite_held hi' ho', if_neg (by simp [hd]), detachOrder_detached ho' hd]
    · refine hfails ?_
      rw [failWrite_held hi' ho', if_pos ⟨hzero.2 h0, hb, hu, hd⟩, hos, ← hgiven]
      rfl
    · have hdetach : failWrite slot offset.toNat f = detachOrder i f := by
        rw [failWrite_held hi' ho', if_neg]
        rintro ⟨h0, hb, hu, -⟩
        rcases h with h | h | h
        · exact h (hzero.1 h0)
        · exact h hb
        · exact h hu
      refine ⟨fun hc => ?_, fun hk => ?_, fun hc hk => ⟨fun hp => ?_, fun h0 => ?_⟩⟩ <;>
        refine hfails (hdetach.trans ?_)
      · rw [detachOrder_complete ho' hd hc, hcounted { o with detached := true } hos]
        rfl
      · rw [detachOrder_cancelling ho' hd hk, hcounted { o with detached := true } hos]
      · rw [detachOrder_inFlight ho' hd hc hk hp, hcounted gone hos]
        rfl
      · rw [detachOrder_allSettled ho' hd hc hk h0, hcounted gone hos]
        rfl
    · obtain ⟨hout, hsweep, hwait⟩ := failWrite_out hi' ho' hd offset.toNat
      refine ⟨_, hfails rfl, fun k n v hk => ?_⟩
      refine no_write_to_slot ?_ (hout.trans (by simp [f])) (by simp [f]) htop slot.isLt (fun x hx => ?_) hk n v
      · rw [hsweep, hintake]; exact ht
      · rw [hwait, hwaiting] at hx
        obtain ⟨hx, hne⟩ := List.mem_filter.1 hx
        exact ⟨(hw x hx).1, (hw x hx).2, by simpa using hne⟩

end Sys2Proof.Machine
end

section
/-! One step: the command at the front of the queue or one period of the timebase, and that no command ends in a fault or a
refusal (4.8, log entries 2 and 13). -/

open Sys2Proof Sys2Proof.Machine

namespace Sys2Proof.Machine

set_option Elab.async false

theorem step_nil {s : State} (h : s.pending = []) : step s = .next (idle s) := by
  rw [step, h]

theorem step_cons {s : State} {c : Instr} {rest : List Instr} (h : s.pending = c :: rest) :
    step s = exec c { s with pending := rest } := by
  rw [step, h]

/-- A reset and a STATUS read answer in every state, an input line has its level followed, and every other command answers
what a part that takes events makes of it. -/
theorem exec_answers_next (c : Instr) (s : State) : ∃ t, exec c s = .next t := by
  cases c
  case softReset | powerOnReset | pinReset | resetLineAsserted | statusRead => exact ⟨_, rfl⟩
  case presentSensorInactive | presentSensorActive | webReadyRise | webReadyFall | knifeHomeSensor | jamSensorActive =>
    exact ⟨actPin _ _ s, rfl⟩
  all_goals exact ⟨act _ _ s, rfl⟩

theorem step_answers_next (s : State) : ∃ t, step s = .next t := by
  cases h : s.pending with
  | nil => exact ⟨idle s, step_nil h⟩
  | cons c rest =>
    rw [step_cons h]
    exact exec_answers_next c _

/-- Settles O1: the front of the queue by the step's own equation, the answer command by command. -/
theorem stepRunsFrontCommand : Obligations.StepRunsFrontCommand :=
  ⟨fun _ _ _ h => step_cons h, fun c s => ⟨exec_answers_next c s, step_answers_next s⟩⟩

end Sys2Proof.Machine
end
